-- ==== Sys2Proof/Word.lean ====
section
/-! DEFINITION. The word types of the machine and their plainest arithmetic (spec 00 R2, 02 R42). -/

namespace Sys2Proof

/-- One byte of memory. -/
abbrev Byte := BitVec 8

/-- A scalar register, a system register, an instruction word: 64 bits. -/
abbrev Word := BitVec 64

/-- One lane of a vector register, or a mask register: 32 bits (02 R42). -/
abbrev Lane := BitVec 32

/-- A vector register or a vector queue entry: 32 lanes of 32 bits, lane L in bits [32L+31:32L] (02 R42). -/
abbrev Vec := BitVec 1024

end Sys2Proof
end

