-- ==== Sys2Proof/Machine/Bits.lean ====
section
/-! DEFINITION. Bit fields, sign extension, byte order and lanes (spec 00 R2, R4). -/

namespace Sys2Proof.Machine

/-- The field of `len` bits whose lowest bit is `lo`, as a number (00 R2). -/
def fld {n : Nat} (v : BitVec n) (lo len : Nat) : Nat := (v.extractLsb' lo len).toNat

/-- One bit of a word. -/
def bit {n : Nat} (v : BitVec n) (i : Nat) : Bool := v.getLsbD i

/-- A word with the field of `len` bits at `lo` replaced by the low bits of `x`. -/
def setFld {n : Nat} (v : BitVec n) (lo len x : Nat) : BitVec n :=
  let mask : BitVec n := BitVec.ofNat n ((2 ^ len - 1) <<< lo)
  (v &&& ~~~mask) ||| (BitVec.ofNat n (x <<< lo) &&& mask)

/-- One bit as a number. -/
def b2n (b : Bool) : Nat := if b then 1 else 0

/-- `sx(v, n)` (00 R4). -/
def sx {n : Nat} (v : BitVec n) (k : Nat) : Int := (v.setWidth k).toInt

/-- `zx(v, n)` (00 R4). -/
def zx {n : Nat} (v : BitVec n) (k : Nat) : Nat := v.toNat % 2 ^ k

/-- Bytes of a number, least significant first (00 R2). -/
def toBytes : Nat → Nat → List Byte
  | 0, _ => []
  | n + 1, v => BitVec.ofNat 8 v :: toBytes n (v / 256)

/-- The number whose bytes, least significant first, are given (00 R2). -/
def ofBytes : List Byte → Nat
  | [] => 0
  | b :: bs => b.toNat + 256 * ofBytes bs

/-- Lane `L` of a vector (02 R42). -/
def lane (v : Vec) (L : Nat) : Lane := v.extractLsb' (32 * L) 32

/-- The number whose lanes 0 to n-1 are given by a function. -/
def packLanes (f : Nat → Lane) : Nat → Nat
  | 0 => 0
  | n + 1 => packLanes f n + (f n).toNat * 2 ^ (32 * n)

/-- The vector whose lane `L` is `f L` (02 R42). -/
def mkVec (f : Nat → Lane) : Vec := BitVec.ofNat 1024 (packLanes f 32)

/-- The number whose bits 0 to n-1 are given by a function. -/
def packBits (f : Nat → Bool) : Nat → Nat
  | 0 => 0
  | n + 1 => packBits f n + b2n (f n) * 2 ^ n

/-- The mask whose bit `L` is `f L` (02 R42). -/
def mkMask (f : Nat → Bool) : Lane := BitVec.ofNat 32 (packBits f 32)

/-- The number of ones among bits 0 to n-1. -/
def countOnes {w : Nat} (v : BitVec w) : Nat → Nat
  | 0 => 0
  | n + 1 => countOnes v n + b2n (v.getLsbD n)

/-- An aligned address: the least multiple of `a` not above it. -/
def alignDown (x a : Nat) : Nat := x - x % a

end Sys2Proof.Machine
end

