-- ==== Sys2Proof/Machine/Flags.lean ====
section
/-! DEFINITION. The floating status flags and rounding modes (02 R43, R51). -/

namespace Sys2Proof.Machine

/-- A set of floating flags, as bits [4:0] of `FSR` (02 R43). -/
abbrev FFlags := BitVec 5

/-- No flag. -/
def fNone : FFlags := 0#5
/-- Inexact. -/
def fNX : FFlags := 1#5
/-- Underflow. -/
def fUF : FFlags := 2#5
/-- Overflow. -/
def fOF : FFlags := 4#5
/-- Division by zero. -/
def fDZ : FFlags := 8#5
/-- Invalid operation. -/
def fNV : FFlags := 16#5

/-- The flag when a condition holds. -/
def flagIf (c : Bool) (f : FFlags) : FFlags := if c then f else fNone

/-- `FSR` with flags raised: each stays set, and every other field is unchanged (02 R43). -/
def fsrRaise (fsr : BitVec 16) (f : FFlags) : BitVec 16 := fsr ||| f.setWidth 16

/-- `FSR.RM` (02 R43). -/
def fsrMode (fsr : BitVec 16) : Nat := fld fsr 8 3

/-- `FSR` after a write of a value whose `RM` is 0 to 4: flags are cleared by a one, reserved bits read zero (02 R43). -/
def fsrWrite (fsr v : BitVec 16) : BitVec 16 := (v &&& 0x0700#16) ||| (fsr &&& ~~~v &&& 0x001F#16)

/-- The rounding mode a code names: 7 is the strand default (02 R51). -/
def roundingMode (code : Nat) (fsr : BitVec 16) : Nat := if code = 7 then fsrMode fsr else code

/-- Whether rounding away from zero is chosen, from the mode, the sign, the kept number's low bit, and whether the
discarded part is above, at or below one half and nonzero (02 R51). -/
def roundUp (mode : Nat) (neg odd above tie inexact : Bool) : Bool :=
  match mode with
  | 0 => above || (tie && odd)
  | 1 => false
  | 2 => neg && inexact
  | 3 => !neg && inexact
  | _ => above || tie

end Sys2Proof.Machine
end

