-- ==== Sys2Proof/Machine/Float.lean ====
section
/-!
DEFINITION. Number formats, rounding and floating-point arithmetic (05 R104 to R108, R112 to R115, R124, R125).
A finite value is a sign and m * 2^e with m a natural number, so sums and products are exact before they are rounded.
-/

namespace Sys2Proof.Machine

/-- A floating format (05 R104, R105): width, precision with the hidden bit, least and greatest exponent of a normal
number. `e4m3` has no infinity and one NaN of each sign. -/
structure FFmt where
  width : Nat
  prec : Nat
  emin : Int
  emax : Int
  e4m3 : Bool
  deriving DecidableEq, Repr

/-- `f32`. -/
def f32 : FFmt := { width := 32, prec := 24, emin := -126, emax := 127, e4m3 := false }
/-- `bf16`. -/
def bf16 : FFmt := { width := 16, prec := 8, emin := -126, emax := 127, e4m3 := false }
/-- `f16`. -/
def f16 : FFmt := { width := 16, prec := 11, emin := -14, emax := 15, e4m3 := false }
/-- `e4m3`. -/
def fE4m3 : FFmt := { width := 8, prec := 4, emin := -6, emax := 8, e4m3 := true }
/-- `e5m2`. -/
def fE5m2 : FFmt := { width := 8, prec := 3, emin := -14, emax := 15, e4m3 := false }

/-- The scalar floating format of a code 0x01 to 0x05 (02 R49). -/
def fmtOfCode (c : Nat) : Option FFmt :=
  match c with
  | 1 => some f32 | 2 => some bf16 | 3 => some f16 | 4 => some fE4m3 | 5 => some fE5m2 | _ => none

/-- A value read from a format. A NaN keeps its bit pattern aside; only whether it signals matters here. -/
inductive FVal where
  | nan (signalling : Bool)
  | inf (neg : Bool)
  | fin (neg : Bool) (m : Nat) (e : Int)
  deriving DecidableEq, Repr

/-- A rounded result: its bits in the format and the flags it raises. -/
structure FRes where
  bits : Nat
  fl : FFlags
  deriving DecidableEq, Repr

/-- Bits of the fraction field. -/
def FFmt.frac (f : FFmt) : Nat := f.prec - 1
/-- The all-ones exponent field. -/
def FFmt.expMax (f : FFmt) : Nat := 2 ^ (f.width - f.prec) - 1
/-- The exponent bias. -/
def FFmt.bias (f : FFmt) : Int := 1 - f.emin
/-- The sign bit of a pattern. -/
def FFmt.neg (f : FFmt) (b : Nat) : Bool := b / 2 ^ (f.width - 1) % 2 = 1
/-- The sign as a pattern. -/
def FFmt.signBits (f : FFmt) (neg : Bool) : Nat := b2n neg * 2 ^ (f.width - 1)
/-- The infinity of a sign. -/
def FFmt.infBits (f : FFmt) (neg : Bool) : Nat := f.signBits neg + f.expMax * 2 ^ f.frac
/-- The greatest finite magnitude's pattern (05 R105: 448 for `e4m3`). -/
def FFmt.maxMag (f : FFmt) : Nat := if f.e4m3 then 0x7E else f.expMax * 2 ^ f.frac - 1
/-- The greatest finite value of a sign. -/
def FFmt.maxBits (f : FFmt) (neg : Bool) : Nat := f.signBits neg + f.maxMag
/-- The canonical quiet NaN (05 R104, R105). -/
def FFmt.qnan (f : FFmt) : Nat :=
  if f.e4m3 then 0x7F else f.expMax * 2 ^ f.frac + 2 ^ (f.frac - 1)

/-- The value of a pattern (05 R104, R105). -/
def FFmt.decode (f : FFmt) (b : Nat) : FVal :=
  let neg := f.neg b
  let ex := b / 2 ^ f.frac % 2 ^ (f.width - f.prec)
  let mant := b % 2 ^ f.frac
  if f.e4m3 then
    if ex = 15 ∧ mant = 7 then .nan false
    else if ex = 0 then .fin neg mant (f.emin - f.frac)
    else .fin neg (2 ^ f.frac + mant) (f.emin + ex - 1 - f.frac)
  else if ex = f.expMax then
    if mant = 0 then .inf neg else .nan (mant / 2 ^ (f.frac - 1) % 2 = 0)
  else if ex = 0 then .fin neg mant (f.emin - f.frac)
  else .fin neg (2 ^ f.frac + mant) (f.emin + ex - 1 - f.frac)

/-- A NaN pattern with its quiet bit set, sign and payload unchanged (05 R113). -/
def FFmt.quiet (f : FFmt) (b : Nat) : Nat :=
  if f.e4m3 then b else if b / 2 ^ (f.frac - 1) % 2 = 1 then b else b + 2 ^ (f.frac - 1)

/-- Whether a pattern is a NaN. -/
def FFmt.isNan (f : FFmt) (b : Nat) : Bool :=
  match f.decode b with
  | .nan _ => true
  | _ => false

/-- Whether a pattern is a signalling NaN. -/
def FFmt.isSnan (f : FFmt) (b : Nat) : Bool :=
  match f.decode b with
  | .nan s => s
  | _ => false

/-- The number of bits of a natural number, with fuel enough for any number of that many bits. -/
def bitLen (n : Nat) : Nat := if n = 0 then 0 else Nat.log2 n + 1

/-- Round m * 2^e, plus a nonzero amount below 2^e when `sticky`, to a multiple of 2^q: the number of quanta and
whether anything was lost (02 R51). -/
def roundAt (mode : Nat) (neg : Bool) (m : Nat) (e : Int) (sticky : Bool) (q : Int) : Nat × Bool :=
  if q ≤ e then
    (m * 2 ^ (e - q).toNat + b2n (roundUp mode neg false false false sticky), sticky)
  else
    let d := (q - e).toNat
    let kept := m / 2 ^ d
    let rem := m % 2 ^ d
    let half := 2 ^ (d - 1)
    let above := decide (half < rem) || (decide (rem = half) && sticky)
    let tie := decide (rem = half) && !sticky
    let inexact := decide (rem ≠ 0) || sticky
    (kept + b2n (roundUp mode neg (kept % 2 = 1) above tie inexact), inexact)

/-- The pattern of a finite magnitude k * 2^q with k at most 2^prec. -/
def FFmt.encodeMag (f : FFmt) (k : Nat) (q : Int) : Nat :=
  if k < 2 ^ f.frac then k
  else if k = 2 ^ f.prec then ((q + 1 - (f.emin - f.frac)).toNat + 1) * 2 ^ f.frac
  else ((q - (f.emin - f.frac)).toNat + 1) * 2 ^ f.frac + (k - 2 ^ f.frac)

/-- What an overflow gives: infinity where the mode's rule says so, else the greatest finite value; under `SAT` always
the latter (05 R114, R125). For `e4m3` the NaN of the sign stands for infinity. -/
def FFmt.overflow (f : FFmt) (mode : Nat) (neg sat : Bool) : Nat :=
  let toInf := match mode with
    | 0 => true | 1 => false | 2 => neg | 3 => !neg | _ => true
  if toInf && !sat then (if f.e4m3 then f.signBits neg + 0x7F else f.infBits neg) else f.maxBits neg

/-- `rnd` of a nonzero finite value (00 R4, 05 R112, R125): tininess is judged after rounding with an unbounded exponent. -/
def FFmt.roundFin (f : FFmt) (mode : Nat) (sat neg : Bool) (m : Nat) (e : Int) (sticky : Bool) : FRes :=
  let top := e + (bitLen m : Int) - 1
  let qmin := f.emin - f.frac
  let qfree := top - f.frac
  let q := if qfree < qmin then qmin else qfree
  let (k, inexact) := roundAt mode neg m e sticky q
  let (kf, _) := roundAt mode neg m e sticky qfree
  let tiny := decide (top < f.emin) && !(decide (top = f.emin - 1) && decide (kf = 2 ^ f.prec))
  let beyond := if f.e4m3 then decide (448 < k * 2 ^ q.toNat ∧ 0 < q) || decide (8 < q + f.frac)
    else decide (f.emax < top) || (decide (top = f.emax) && decide (k = 2 ^ f.prec))
  if beyond then { bits := f.overflow mode neg sat, fl := fOF ||| fNX }
  else { bits := f.signBits neg + f.encodeMag k q,
         fl := flagIf inexact fNX ||| flagIf (tiny && inexact) fUF }

/-- `rnd` of any exact finite value; a zero takes the sign given. -/
def FFmt.round (f : FFmt) (mode : Nat) (sat neg : Bool) (m : Nat) (e : Int) (sticky : Bool) : FRes :=
  if m = 0 ∧ sticky = false then { bits := f.signBits neg, fl := fNone }
  else f.roundFin mode sat neg m e sticky

/-- An infinite result: the greatest finite value under `SAT` (05 R114), that of a division by zero among them (05 R116; log
3). -/
def FFmt.infRes (f : FFmt) (sat neg : Bool) (fl : FFlags) : FRes :=
  { bits := if sat then f.maxBits neg else f.infBits neg, fl }

/-- The result of an invalid operation (05 R113). -/
def FFmt.invalid (f : FFmt) : FRes := { bits := f.qnan, fl := fNV }

/-- The NaN result of operands in order, if one is a NaN (05 R113). -/
def FFmt.nanOf (f : FFmt) (xs : List Nat) : Option FRes :=
  match xs.find? f.isNan with
  | some b => some { bits := f.quiet b, fl := flagIf (xs.any f.isSnan) fNV }
  | none => none

/-- An exact signed dyadic: n * 2^e. -/
structure Dyad where
  n : Int
  e : Int
  deriving DecidableEq, Repr

/-- Exact sum. -/
def Dyad.add (x y : Dyad) : Dyad :=
  let e := if x.e ≤ y.e then x.e else y.e
  { n := x.n * 2 ^ (x.e - e).toNat + y.n * 2 ^ (y.e - e).toNat, e }

/-- Exact product. -/
def Dyad.mul (x y : Dyad) : Dyad := { n := x.n * y.n, e := x.e + y.e }

/-- Exact order: whether x is less than y. -/
def Dyad.lt (x y : Dyad) : Bool := decide ((x.add { y with n := -y.n }).n < 0)

/-- The dyadic of a sign and magnitude. -/
def dyadOf (neg : Bool) (m : Nat) (e : Int) : Dyad := { n := if neg then -(m : Int) else m, e }

/-- `rnd` of an exact dyadic; an exact zero takes the sign given. -/
def FFmt.roundDyad (f : FFmt) (mode : Nat) (sat : Bool) (x : Dyad) (zeroNeg : Bool) : FRes :=
  f.round mode sat (if x.n = 0 then zeroNeg else decide (x.n < 0)) x.n.natAbs x.e false

/-- The sign of an exact zero sum of two signed terms (05 R115). -/
def sumZeroSign (mode : Nat) (n1 n2 : Bool) : Bool := if n1 = n2 then n1 else mode = 2

/-- a * b + c rounded once, with the signs of the product and of c flipped as asked (05 R115, R113). -/
def FFmt.fma (f : FFmt) (mode : Nat) (sat negP negC : Bool) (a b c : Nat) : FRes :=
  match f.nanOf [a, b, c] with
  | some r => r
  | none =>
    match f.decode a, f.decode b, f.decode c with
    | .fin na ma ea, .fin nb mb eb, .fin nc mc ec =>
      let np := xor (xor na nb) negP
      let nc' := xor nc negC
      let sum := (dyadOf np (ma * mb) (ea + eb)).add (dyadOf nc' mc ec)
      f.roundDyad mode sat sum (sumZeroSign mode np nc')
    | .inf na, .inf nb, .inf nc =>
      if xor (xor na nb) negP = xor nc negC then f.infRes sat (xor nc negC) fNone else f.invalid
    | .inf na, .inf nb, _ => f.infRes sat (xor (xor na nb) negP) fNone
    | .inf na, .fin nb mb _, .inf nc =>
      if mb = 0 then f.invalid
      else if xor (xor na nb) negP = xor nc negC then f.infRes sat (xor nc negC) fNone else f.invalid
    | .inf na, .fin nb mb _, _ => if mb = 0 then f.invalid else f.infRes sat (xor (xor na nb) negP) fNone
    | .fin na ma _, .inf nb, .inf nc =>
      if ma = 0 then f.invalid
      else if xor (xor na nb) negP = xor nc negC then f.infRes sat (xor nc negC) fNone else f.invalid
    | .fin na ma _, .inf nb, _ => if ma = 0 then f.invalid else f.infRes sat (xor (xor na nb) negP) fNone
    | _, _, .inf nc => f.infRes sat (xor nc negC) fNone
    | _, _, _ => f.invalid

/-- a + b, or a - b when `sub` (05 R115, R113). -/
def FFmt.add (f : FFmt) (mode : Nat) (sat sub : Bool) (a b : Nat) : FRes :=
  match f.nanOf [a, b] with
  | some r => r
  | none =>
    match f.decode a, f.decode b with
    | .fin na ma ea, .fin nb mb eb =>
      f.roundDyad mode sat ((dyadOf na ma ea).add (dyadOf (xor nb sub) mb eb)) (sumZeroSign mode na (xor nb sub))
    | .inf na, .inf nb => if na = xor nb sub then f.infRes sat na fNone else f.invalid
    | .inf na, _ => f.infRes sat na fNone
    | _, .inf nb => f.infRes sat (xor nb sub) fNone
    | _, _ => f.invalid

/-- a * b (05 R115, R113). -/
def FFmt.mul (f : FFmt) (mode : Nat) (sat : Bool) (a b : Nat) : FRes :=
  match f.nanOf [a, b] with
  | some r => r
  | none =>
    match f.decode a, f.decode b with
    | .fin na ma ea, .fin nb mb eb =>
      f.roundDyad mode sat ((dyadOf na ma ea).mul (dyadOf nb mb eb)) (xor na nb)
    | .inf na, .inf nb => f.infRes sat (xor na nb) fNone
    | .inf na, .fin nb mb _ => if mb = 0 then f.invalid else f.infRes sat (xor na nb) fNone
    | .fin na ma _, .inf nb => if ma = 0 then f.invalid else f.infRes sat (xor na nb) fNone
    | _, _ => f.invalid

/-- The order of two patterns that are no NaN, with -0 below +0 (05 R115). -/
def FFmt.below (f : FFmt) (a b : Nat) : Bool :=
  match f.decode a, f.decode b with
  | .fin na ma ea, .fin nb mb eb =>
    if ma = 0 ∧ mb = 0 then na && !nb else (dyadOf na ma ea).lt (dyadOf nb mb eb)
  | .inf na, .inf nb => na && !nb
  | .inf na, _ => na
  | _, .inf nb => !nb
  | _, _ => false

/-- Whether two patterns that are no NaN compare equal; the zeros do (05 R117). -/
def FFmt.same (f : FFmt) (a b : Nat) : Bool :=
  decide (a = b) ||
  match f.decode a, f.decode b with
  | .fin _ ma _, .fin _ mb _ => decide (ma = 0 ∧ mb = 0)
  | _, _ => false

/-- A result that is one of the operands, with `SAT` on an infinity (05 R114). -/
def FFmt.pick (f : FFmt) (sat : Bool) (b : Nat) : FRes :=
  match f.decode b with
  | .inf neg => f.infRes sat neg fNone
  | _ => { bits := b, fl := fNone }

/-- The pattern without its sign. -/
def FFmt.mag (f : FFmt) (b : Nat) : Nat := b % 2 ^ (f.width - 1)

/-- Lesser of a and b (05 R115). -/
def FFmt.min (f : FFmt) (sat : Bool) (a b : Nat) : FRes :=
  match f.nanOf [a, b] with
  | some r => r
  | none => f.pick sat (if f.below b a then b else a)

/-- Greater of a and b (05 R115). -/
def FFmt.max (f : FFmt) (sat : Bool) (a b : Nat) : FRes :=
  match f.nanOf [a, b] with
  | some r => r
  | none => f.pick sat (if f.below a b then b else a)

/-- Greater magnitude (05 R115). -/
def FFmt.amax (f : FFmt) (sat : Bool) (a b : Nat) : FRes :=
  match f.nanOf [a, b] with
  | some r => r
  | none => f.pick sat (if f.mag a < f.mag b then f.mag b else f.mag a)

/-- min(max(a, b), c), and c when b > c (05 R115). -/
def FFmt.clamp (f : FFmt) (sat : Bool) (a b c : Nat) : FRes :=
  match f.nanOf [a, b, c] with
  | some r => r
  | none =>
    let m := if f.below a b then b else a
    f.pick sat (if f.below c b then c else if f.below c m then c else m)

/-- |a| (05 R115). -/
def FFmt.abs (f : FFmt) (sat : Bool) (a : Nat) : FRes :=
  match f.nanOf [a] with
  | some r => r
  | none => f.pick sat (f.mag a)

/-- -a (05 R115). -/
def FFmt.negate (f : FFmt) (sat : Bool) (a : Nat) : FRes :=
  match f.nanOf [a] with
  | some r => r
  | none => f.pick sat (f.signBits (!f.neg a) + f.mag a)

/-- a rounded to an integral value in its own format (05 R118 `vround`). -/
def FFmt.toIntegral (f : FFmt) (mode : Nat) (a : Nat) : FRes :=
  match f.nanOf [a] with
  | some r => r
  | none =>
    match f.decode a with
    | .fin neg m e =>
      let (k, inexact) := roundAt mode neg m e false 0
      { bits := (f.round 1 false neg k 0 false).bits, fl := flagIf inexact fNX }
    | _ => { bits := a, fl := fNone }

/-- rnd(a * 2^n) (05 R127). -/
def FFmt.scaleBy (f : FFmt) (mode : Nat) (sat : Bool) (a : Nat) (n : Int) : FRes :=
  match f.nanOf [a] with
  | some r => r
  | none =>
    match f.decode a with
    | .fin neg m e => f.round mode sat neg m (e + n) false
    | .inf neg => f.infRes sat neg fNone
    | _ => f.invalid

/-- The class of a value: one bit set (05 R118 `vclass`). -/
def FFmt.classify (f : FFmt) (a : Nat) : Nat :=
  match f.decode a with
  | .nan s => if s then 256 else 512
  | .inf neg => if neg then 1 else 128
  | .fin neg m _ =>
    if m = 0 then (if neg then 8 else 16)
    else if m < 2 ^ f.frac then (if neg then 4 else 32)
    else if neg then 2 else 64

/-- Float to float (05 R124, R125). -/
def cvtFF (src dst : FFmt) (mode : Nat) (sat : Bool) (a : Nat) : FRes :=
  match src.decode a with
  | .nan s =>
    let neg := src.neg a
    let pay := src.quiet a % 2 ^ src.frac
    let pay' := if src.frac ≤ dst.frac then pay * 2 ^ (dst.frac - src.frac) else pay / 2 ^ (src.frac - dst.frac)
    { bits := if dst.e4m3 then dst.signBits neg + 0x7F else dst.infBits neg + pay',
      fl := flagIf s fNV }
  | .inf neg =>
    if dst.e4m3 then { bits := if sat then dst.maxBits neg else dst.signBits neg + 0x7F, fl := fNV }
    else dst.infRes sat neg fNone
  | .fin neg m e => dst.round mode sat neg m e false

/-- An integer clamped to w bits of a signedness. -/
def clampInt (signed : Bool) (w : Nat) (r : Int) : Int :=
  let lo : Int := if signed then -(2 ^ (w - 1)) else 0
  let hi : Int := if signed then 2 ^ (w - 1) - 1 else 2 ^ w - 1
  if r < lo then lo else if hi < r then hi else r

/-- The low w bits of an integer, read with a signedness (04 R84 `ext`). -/
def wrapInt (signed : Bool) (w : Nat) (r : Int) : Int :=
  let u := r % (2 ^ w : Int)
  if signed ∧ 2 ^ (w - 1) ≤ u then u - 2 ^ w else u

/-- Float to integer of w bits (05 R124): the integer and its flags. -/
def cvtFI (src : FFmt) (signed : Bool) (w : Nat) (mode : Nat) (a : Nat) : Int × FFlags :=
  match src.decode a with
  | .nan _ => (0, fNV)
  | .inf neg => (clampInt signed w (if neg then -(2 ^ 70) else 2 ^ 70), fNV)
  | .fin neg m e =>
    let (k, inexact) := roundAt mode neg m e false 0
    let r : Int := if neg then -(k : Int) else k
    if clampInt signed w r = r then (r, flagIf inexact fNX) else (clampInt signed w r, fNV)

/-- Integer to float (05 R124). -/
def cvtIF (dst : FFmt) (mode : Nat) (sat : Bool) (r : Int) : FRes := dst.roundDyad mode sat { n := r, e := 0 } false

end Sys2Proof.Machine
end

