-- ==== Sys2Proof/Machine/FloatSpecial.lean ====
section
/-!
DEFINITION. The special functions, correctly rounded (05 R116). Each is computed in fixed point with 384 bits after
the point, far more than the distance any `f32` or `bf16` argument's exact value keeps from a rounding boundary of its
format, and then rounded once with a sticky bit. DEDUCED (log 14).
-/

namespace Sys2Proof.Machine

/-- Bits after the point. -/
def fixP : Nat := 384
/-- 1 in fixed point. -/
def fix1 : Nat := 2 ^ fixP
/-- floor(2^384 * pi / 2). -/
def fixHalfPi : Nat := 61892526601646203909776850519568592217721188355859872463922050763055655711166309347118555915274176143093618619745846
/-- floor(2^384 * ln 2). -/
def fixLn2 : Nat := 27311389503436327984859642001965014295881604093268141717219425985154158335678826923825841039545353940567474963094288
/-- floor(2^384 * 2 / sqrt pi). -/
def fixTwoSqrtPi : Nat := 44460402933779827885440278126068634493809156113365853302236234451361230887381909400121177232184802671825698788685271

/-- Product of fixed-point numbers. -/
def fixMul (a b : Nat) : Nat := a * b / fix1

/-- Integer square root, one bit a time from bit k down. -/
def isqrtFrom : Nat → Nat → Nat → Nat
  | 0, n, r => if (r + 1) * (r + 1) ≤ n then r + 1 else r
  | k + 1, n, r =>
    let r' := r + 2 ^ (k + 1)
    isqrtFrom k n (if r' * r' ≤ n then r' else r)

/-- floor of the square root. -/
def isqrt (n : Nat) : Nat := isqrtFrom (bitLen n / 2) n 0

/-- Sum of the exponential series from term k on: `fuel` terms, the current term given. -/
def expSeries : Nat → Nat → Nat → Nat → Nat
  | 0, _, _, t => t
  | fuel + 1, k, x, t => t + expSeries fuel (k + 1) x (fixMul t x / (k + 1))

/-- e^x for x in [0, 1). -/
def fixExp (x : Nat) : Nat := expSeries 120 0 x fix1

/-- Alternating odd series: sum of (-1)^k * coefficient(k) where the term is updated by x2 and divided by `d k`;
positive and negative parts are kept apart. -/
def altSeries (d : Nat → Nat) (out : Nat → Nat) : Nat → Nat → Nat → Nat → Nat × Nat
  | 0, _, _, _ => (0, 0)
  | fuel + 1, k, x2, t =>
    let (p, n) := altSeries d out fuel (k + 1) x2 (fixMul t x2 / d (k + 1))
    if k % 2 = 0 then (p + t / out k, n) else (p, n + t / out k)

/-- sin(y) / y for y in fixed point, y2 its square. -/
def fixSinc (y2 : Nat) : Nat :=
  let (p, n) := altSeries (fun k => 2 * k * (2 * k + 1)) (fun _ => 1) 80 0 y2 fix1
  p - n

/-- erf(x) / x. -/
def fixErfc0 (x2 : Nat) : Nat :=
  let (p, n) := altSeries (fun k => k) (fun k => 2 * k + 1) 420 0 x2 fix1
  fixMul (p - n) fixTwoSqrtPi

/-- atanh(z) / z for z2 = z^2, z at most 1/5. -/
def fixAtanh0 : Nat → Nat → Nat → Nat → Nat
  | 0, _, _, _ => 0
  | fuel + 1, k, z2, t => t / (2 * k + 1) + fixAtanh0 fuel (k + 1) z2 (fixMul t z2)

/-- A magnitude m * 2^e in fixed point, rounded down. -/
def toFix (m : Nat) (e : Int) : Nat :=
  if 0 ≤ e + fixP then m * 2 ^ (e + fixP).toNat else m / 2 ^ (-(e + fixP)).toNat

/-- A result just below a positive dyadic. -/
def FFmt.justBelow (f : FFmt) (mode : Nat) (sat neg : Bool) (m : Nat) (e : Int) : FRes :=
  f.roundFin mode sat neg (m * 2 ^ 80 - 1) (e - 80) true

/-- A positive result too small for any format's least subnormal. -/
def FFmt.vanishing (f : FFmt) (mode : Nat) (sat neg : Bool) : FRes := f.roundFin mode sat neg 1 (-400) true

/-- A fixed-point approximation of an irrational result, scaled by 2^e. -/
def FFmt.approx (f : FFmt) (mode : Nat) (sat neg : Bool) (v : Nat) (e : Int) : FRes :=
  f.roundFin mode sat neg v (e - fixP) true

/-- Apply a function of a finite value, NaN inputs handled as R113 says, infinities by a function of their sign. -/
def FFmt.unary (f : FFmt) (a : Nat) (inf : Bool → FRes) (fin : Bool → Nat → Int → FRes) : FRes :=
  match f.nanOf [a] with
  | some r => r
  | none =>
    match f.decode a with
    | .inf neg => inf neg
    | .fin neg m e => fin neg m e
    | .nan _ => f.invalid

/-- 1 / a. -/
def FFmt.rcp (f : FFmt) (mode : Nat) (sat : Bool) (a : Nat) : FRes :=
  f.unary a (fun neg => { bits := f.signBits neg, fl := fNone }) fun neg m e =>
    if m = 0 then f.infRes sat neg fDZ
    else f.round mode sat neg (2 ^ 128 / m) (-128 - e) (decide (2 ^ 128 % m ≠ 0))

/-- 1 / sqrt a. -/
def FFmt.rsq (f : FFmt) (mode : Nat) (sat : Bool) (a : Nat) : FRes :=
  f.unary a (fun neg => if neg then f.invalid else { bits := 0, fl := fNone }) fun neg m e =>
    if m = 0 then f.infRes sat neg fDZ
    else if neg then f.invalid
    else
      let (m', e') := if e % 2 = 0 then (m, e) else (2 * m, e - 1)
      let r := isqrt (2 ^ 256 / m')
      f.round mode sat false r (-128 - e' / 2) (decide (r * r * m' ≠ 2 ^ 256))

/-- sqrt a. -/
def FFmt.sqrt (f : FFmt) (mode : Nat) (sat : Bool) (a : Nat) : FRes :=
  f.unary a (fun neg => if neg then f.invalid else f.infRes sat false fNone) fun neg m e =>
    if m = 0 then { bits := a, fl := fNone }
    else if neg then f.invalid
    else
      let (m', e') := if e % 2 = 0 then (m, e) else (2 * m, e - 1)
      let r := isqrt (m' * 2 ^ 128)
      f.round mode sat false r (e' / 2 - 64) (decide (r * r ≠ m' * 2 ^ 128))

/-- 2^a. -/
def FFmt.exp2 (f : FFmt) (mode : Nat) (sat : Bool) (a : Nat) : FRes :=
  f.unary a (fun neg => if neg then { bits := 0, fl := fNone } else f.infRes sat false fNone) fun neg m e =>
    if m = 0 then f.round mode sat false 1 0 false
    else if 12 ≤ e + (bitLen m : Int) then
      if neg then f.vanishing mode sat false else f.roundFin mode sat false 1 4096 true
    else
      let x := toFix m e
      let n : Int := if neg then -((x + fix1 - 1) / fix1 : Nat) else (x / fix1 : Nat)
      let fr := if neg then (fix1 - x % fix1) % fix1 else x % fix1
      if fr = 0 then f.round mode sat false 1 n false
      else f.approx mode sat false (fixExp (fixMul fr fixLn2)) n

/-- log2 a. -/
def FFmt.log2 (f : FFmt) (mode : Nat) (sat : Bool) (a : Nat) : FRes :=
  f.unary a (fun neg => if neg then f.invalid else f.infRes sat false fNone) fun neg m e =>
    if m = 0 then f.infRes sat true fDZ
    else if neg then f.invalid
    else
      let top := e + (bitLen m : Int) - 1
      if m = 2 ^ (bitLen m - 1) then f.roundDyad mode sat { n := top, e := 0 } false
      else
        -- x = m * 2^(e - top) in (1, 2); above 4/3 use x / 2 so that |atanh argument| stays small
        let x := m * 2 ^ (fixP + 1 - bitLen m)
        let big := decide (4 * fix1 < 3 * x)
        let n : Int := if big then top + 1 else top
        let y := if big then x / 2 else x
        let num := if big then fix1 - y else y - fix1
        let z := num * fix1 / (y + fix1)
        let at0 := fixAtanh0 120 0 (fixMul z z) fix1
        let l := 2 * fixMul z at0 * fix1 / fixLn2
        let v : Int := n * fix1 + (if big then -(l : Int) else l)
        f.approx mode sat (decide (v < 0)) v.natAbs 0

/-- e^x of a nonnegative fixed-point x: a fixed-point number times 2^n. -/
def fixExpWide (x : Nat) : Nat × Nat := (fixExp (x % fixLn2), x / fixLn2)

/-- tanh a. -/
def FFmt.tanh (f : FFmt) (mode : Nat) (sat : Bool) (a : Nat) : FRes :=
  f.unary a (fun neg => f.round mode sat neg 1 0 false) fun neg m e =>
    if m = 0 then { bits := a, fl := fNone }
    else
      let top := e + (bitLen m : Int) - 1
      if 6 ≤ top then f.justBelow mode sat neg 1 0
      else if top < -24 then f.justBelow mode sat neg m e
      else
        let (ex, n) := fixExpWide (2 * toFix m e)
        let big := ex * 2 ^ n
        f.approx mode sat neg ((big - fix1) * fix1 / (big + fix1)) 0

/-- 1 / (1 + e^-a). -/
def FFmt.sigm (f : FFmt) (mode : Nat) (sat : Bool) (a : Nat) : FRes :=
  f.unary a (fun neg => if neg then { bits := 0, fl := fNone } else f.round mode sat false 1 0 false) fun neg m e =>
    if m = 0 then f.round mode sat false 1 (-1) false
    else
      let top := e + (bitLen m : Int) - 1
      if 8 ≤ top then (if neg then f.vanishing mode sat false else f.justBelow mode sat false 1 0)
      else
        let (ex, n) := fixExpWide (toFix m e)
        let big := ex * 2 ^ n
        if neg then f.approx mode sat false (fix1 * fix1 * 2 ^ fixP / (big + fix1)) (-(fixP : Int))
        else f.approx mode sat false (big * fix1 / (big + fix1)) 0

/-- erf a. -/
def FFmt.erf (f : FFmt) (mode : Nat) (sat : Bool) (a : Nat) : FRes :=
  f.unary a (fun neg => f.round mode sat neg 1 0 false) fun neg m e =>
    if m = 0 then { bits := a, fl := fNone }
    else
      let top := e + (bitLen m : Int) - 1
      if 3 ≤ top then f.justBelow mode sat neg 1 0
      else
        let x := toFix m e
        f.approx mode sat neg (m * fixErfc0 (fixMul x x)) e

/-- sin(2 pi a). -/
def FFmt.sin2 (f : FFmt) (mode : Nat) (sat : Bool) (a : Nat) : FRes :=
  f.unary a (fun _ => f.invalid) fun neg m e =>
    -- a mod 1 in quarters, exactly: u * 2^-k with k the bits after the point
    let k := (-e).toNat
    let u := if 0 ≤ e then 0 else m % 2 ^ k
    let q := 4 * u / 2 ^ k
    let r := 4 * u % 2 ^ k
    let neg' := xor neg (2 ≤ q)
    let y := if q % 2 = 0 then r else 2 ^ k - r
    if m = 0 ∨ y = 0 then { bits := f.signBits neg, fl := fNone }
    else if y = 2 ^ k then f.round mode sat neg' 1 0 false
    else
      let t := fixMul (y * fix1 / 2 ^ k) fixHalfPi
      f.approx mode sat neg' (y * fixMul (fixSinc (fixMul t t)) fixHalfPi) (-(k : Int))

end Sys2Proof.Machine
end

