-- ==== Sys2Proof/Syntax.lean ====
section
/-!
DEFINITION. The syntax of the machine: one constructor of `Instr` for each row of spec/opcode_table.json
(a strand instruction or one of its variants, an engine command, a packet, a stream entry, a register write with an
effect of its own, or an event of the part), with the fields its encoding carries (02 R34, R52, R54; 12 R298, R301).
-/

namespace Sys2Proof

/-- Destination kind `DK` (02 R34). -/
inductive DKind where
  | vec | scal | pred | none
  deriving DecidableEq, Repr

/-- Source kind `AK`, `BK`, `CK` (02 R34, R35). -/
inductive SKind where
  | vec | scal | cb | lit
  deriving DecidableEq, Repr

/-- A source field pair: kind and index (02 R35). -/
structure Src where
  kind : SKind
  idx : BitVec 6
  deriving DecidableEq, Repr

/-- Every field of a strand instruction word but its opcode (02 R34). -/
structure StrandWord where
  sy : Bool
  bh : BitVec 2
  pn : Bool
  pg : BitVec 3
  dk : DKind
  d : BitVec 6
  a : Src
  b : Src
  c : Src
  x : BitVec 16
  deriving DecidableEq, Repr

/-- An engine command: wait, signal and operand fields of its first word, and its operand words (02 R52).
A command shorter than four words has zero in the words it lacks. -/
structure EngineCmd where
  wt : BitVec 8
  sg : BitVec 8
  opnd : BitVec 40
  w1 : Word
  w2 : Word
  w3 : Word
  deriving DecidableEq, Repr

/-- A 64-byte packet of a copy queue or a launch queue, words w0 to w7 (02 R54, 12 R298). -/
structure Packet where
  w0 : Word
  w1 : Word
  w2 : Word
  w3 : Word
  w4 : Word
  w5 : Word
  w6 : Word
  w7 : Word
  deriving DecidableEq, Repr

/-- A 16-byte command-list entry (12 R301). -/
structure StreamEntry where
  w0 : Word
  w1 : Word
  deriving DecidableEq, Repr

/-- What an event of the part carries: the die and the unit it happens on and four words whose use each event's
meaning states. The spec gives events no encoding: this record is the model's own. DESIGN CHOICE (log 5). -/
structure Ev where
  die : BitVec 3
  unit : BitVec 16
  a : Word
  b : Word
  c : Word
  d : Word
  deriving DecidableEq, Repr

/-- What an engine, the scheduler or the part itself has in hand when it acts: the operand fields of the command, the
packet or the entry it has taken, or of the event that happens. A strand instruction carries its fields itself.
Lean's runtime gives no more than 245 constructors fields of their own, and the table has 389 rows: so the
operands of the rows that no strand fetches stand here, and `Instr` names which row they belong to (log 5). -/
structure Hand where
  cmd : EngineCmd := { wt := 0, sg := 0, opnd := 0, w1 := 0, w2 := 0, w3 := 0 }
  packet : Packet := { w0 := 0, w1 := 0, w2 := 0, w3 := 0, w4 := 0, w5 := 0, w6 := 0, w7 := 0 }
  entry : StreamEntry := { w0 := 0, w1 := 0 }
  ev : Ev := { die := 0, unit := 0, a := 0, b := 0, c := 0, d := 0 }
  deriving DecidableEq, Repr

/-- One constructor per row of spec/opcode_table.json. -/
inductive Instr where
  /-- Scalar add of two sources at the width of FMT, optionally saturated. (R85) -/
  | add (w : StrandWord)
  /-- Scalar subtract at the width of FMT, optionally saturated. (R85) -/
  | sub (w : StrandWord)
  /-- Scalar multiply, low part, optionally saturated. (R85) -/
  | mul (w : StrandWord)
  /-- Scalar multiply, high part floor(a*b/2^w). (R85) -/
  | mulh (w : StrandWord)
  /-- Scalar truncating division that never traps; division by zero gives all ones. (R86) -/
  | div (w : StrandWord)
  /-- Scalar remainder that never traps; remainder by zero gives the dividend. (R86) -/
  | rem (w : StrandWord)
  /-- Bitwise AND of two scalar sources. (R85) -/
  | and (w : StrandWord)
  /-- Bitwise OR of two scalar sources. (R85) -/
  | or (w : StrandWord)
  /-- Bitwise XOR of two scalar sources. (R85) -/
  | xor (w : StrandWord)
  /-- Bitwise a AND NOT b. (R85) -/
  | andn (w : StrandWord)
  /-- Bitwise a OR NOT b. (R85) -/
  | orn (w : StrandWord)
  /-- Shift left by zx(B,6), optionally saturated. (R85) -/
  | shl (w : StrandWord)
  /-- Logical shift right by zx(B,6). (R85) -/
  | shr (w : StrandWord)
  /-- Arithmetic shift right by zx(B,6). (R85) -/
  | sra (w : StrandWord)
  /-- Rotate the w-bit pattern left by k mod w. (R85) -/
  | rot (w : StrandWord)
  /-- Count leading zeros of the w-bit pattern. (R85) -/
  | clz (w : StrandWord)
  /-- Count trailing zeros of the w-bit pattern. (R85) -/
  | ctz (w : StrandWord)
  /-- Count ones in the w-bit pattern. (R85) -/
  | popc (w : StrandWord)
  /-- Reverse the bytes of the w-bit pattern. (R85) -/
  | bswap (w : StrandWord)
  /-- Lesser of two scalar sources. (R85) -/
  | min (w : StrandWord)
  /-- Greater of two scalar sources. (R85) -/
  | max (w : StrandWord)
  /-- Absolute value for signed formats, optionally saturated. (R85) -/
  | abs (w : StrandWord)
  /-- Select a or b according to a predicate selector. (R85) -/
  | sel (w : StrandWord)
  /-- Copy a scalar source to the destination. (R85) -/
  | mov (w : StrandWord)
  /-- Replace one 16-bit field of the old destination with the X literal. (R85) -/
  | movk (w : StrandWord)
  /-- Extract a bit field of A, sign- or zero-extended. (R87) -/
  | ext (w : StrandWord)
  /-- Deposit a field of A into the old destination. (R87) -/
  | dep (w : StrandWord)
  /-- Add a to b shifted left by zx(C,6). (R85) -/
  | addx (w : StrandWord)
  /-- Compare two scalars under a selected condition and write a predicate. (R88) -/
  | cmp (w : StrandWord)
  /-- Combine two predicates through a 4-bit truth table. (R88) -/
  | plog (w : StrandWord)
  /-- Set a predicate to whether a scalar source is nonzero. (R88) -/
  | pmovToPred (w : StrandWord)
  /-- Copy a predicate into a scalar register as 0 or 1. (R88) -/
  | pmovToScalar (w : StrandWord)
  /-- Clamp a scalar between b and c. (R85) -/
  | clamp (w : StrandWord)
  /-- No operation; occupies its issue cycle. (R90) -/
  | nop (w : StrandWord)
  /-- Relative branch by a signed 16-bit word offset when the guard holds. (R90) -/
  | br (w : StrandWord)
  /-- Relative jump by a register offset in words. (R90) -/
  | jl (w : StrandWord)
  /-- Absolute jump to a register address. (R90) -/
  | jmp (w : StrandWord)
  /-- Relative call writing the link to s30. (R90) -/
  | call (w : StrandWord)
  /-- Indirect call through a register, writing the link to s30. (R90) -/
  | callr (w : StrandWord)
  /-- Return to the address in s30. (R90) -/
  | ret (w : StrandWord)
  /-- Repeat the following n units a counted number of times. (R92) -/
  | rpt (w : StrandWord)
  /-- Separate the lock-step E strands into apart state at per-strand targets. (R93) -/
  | fork (w : StrandWord)
  /-- Mark arrival at a sync bit and block until all four E strands rejoin in lock-step. (R95) -/
  | rejoin (w : StrandWord)
  /-- Set a sync bit at the end of the issue cycle. (R94) -/
  | sbset (w : StrandWord)
  /-- Clear a sync bit at the end of the issue cycle. (R94) -/
  | sbclr (w : StrandWord)
  /-- Issue only when a sync bit holds the requested value. (R94) -/
  | sbwait (w : StrandWord)
  /-- Open a segment of declared cost and start its accounting. (R100) -/
  | seg (w : StrandWord)
  /-- Close the open segment, naming the live-set descriptor. (R101) -/
  | segend (w : StrandWord)
  /-- End the strand's part of the iteration and wait for the next iteration record. (R103) -/
  | done (w : StrandWord)
  /-- Vector floating-point add per lane. (R115) -/
  | vadd (w : StrandWord)
  /-- Vector floating-point subtract. (R115) -/
  | vsub (w : StrandWord)
  /-- Vector floating-point multiply. (R115) -/
  | vmul (w : StrandWord)
  /-- Vector fused multiply-add, rounded once. (R115) -/
  | vfma (w : StrandWord)
  /-- Vector fused multiply-subtract, rounded once. (R115) -/
  | vfms (w : StrandWord)
  /-- Vector negated fused multiply-add, rounded once. (R115) -/
  | vfnma (w : StrandWord)
  /-- Vector floating-point minimum with -0 < +0. (R115) -/
  | vmin (w : StrandWord)
  /-- Vector floating-point maximum with -0 < +0. (R115) -/
  | vmax (w : StrandWord)
  /-- Vector absolute value, exact. (R115) -/
  | vabs (w : StrandWord)
  /-- Vector negation, exact. (R115) -/
  | vneg (w : StrandWord)
  /-- Vector maximum of absolute values. (R115) -/
  | vamax (w : StrandWord)
  /-- Vector clamp of a between b and c. (R115) -/
  | vclamp (w : StrandWord)
  /-- Vector correctly rounded reciprocal. (R116) -/
  | vrcp (w : StrandWord)
  /-- Vector correctly rounded reciprocal square root. (R116) -/
  | vrsq (w : StrandWord)
  /-- Vector correctly rounded square root. (R116) -/
  | vsqrt (w : StrandWord)
  /-- Vector correctly rounded 2^a. (R116) -/
  | vexp2 (w : StrandWord)
  /-- Vector correctly rounded log2 a. (R116) -/
  | vlog2 (w : StrandWord)
  /-- Vector correctly rounded tanh. (R116) -/
  | vtanh (w : StrandWord)
  /-- Vector correctly rounded logistic sigmoid. (R116) -/
  | vsigm (w : StrandWord)
  /-- Vector correctly rounded error function. (R116) -/
  | verf (w : StrandWord)
  /-- Vector correctly rounded sin(2*pi*a). (R116) -/
  | vsin2 (w : StrandWord)
  /-- Vector compare under a selected condition writing a mask register. (R117) -/
  | vcmp (w : StrandWord)
  /-- Per-lane select of a or b by a mask. (R118) -/
  | vsel (w : StrandWord)
  /-- Vector bitwise AND. (R118) -/
  | vand (w : StrandWord)
  /-- Vector bitwise OR. (R118) -/
  | vor (w : StrandWord)
  /-- Vector bitwise XOR. (R118) -/
  | vxor (w : StrandWord)
  /-- Vector integer shift left, optionally saturated. (R119) -/
  | vshl (w : StrandWord)
  /-- Vector logical shift right. (R119) -/
  | vshr (w : StrandWord)
  /-- Vector arithmetic shift right. (R119) -/
  | vsra (w : StrandWord)
  /-- Vector integer add. (R119) -/
  | viadd (w : StrandWord)
  /-- Vector integer subtract. (R119) -/
  | visub (w : StrandWord)
  /-- Vector integer multiply. (R119) -/
  | vimul (w : StrandWord)
  /-- Vector integer multiply-add, exact before wrap. (R119) -/
  | vimad (w : StrandWord)
  /-- Vector integer minimum. (R119) -/
  | vimin (w : StrandWord)
  /-- Vector integer maximum. (R119) -/
  | vimax (w : StrandWord)
  /-- Per-lane dot product of four 8-bit element pairs added to C. (R120) -/
  | vdot4 (w : StrandWord)
  /-- Fixed-tree reduction of active lanes landed in all lanes. (R122) -/
  | vred (w : StrandWord)
  /-- Prefix scan over active lanes by the fixed tree. (R122) -/
  | vscan (w : StrandWord)
  /-- Per-lane permutation of A by lane indices in B. (R123) -/
  | vperm (w : StrandWord)
  /-- Fixed shuffle pattern of A and B. (R123) -/
  | vshuf (w : StrandWord)
  /-- Broadcast one lane of A to all lanes. (R118) -/
  | vbcast (w : StrandWord)
  /-- Extract one lane of A into a scalar register. (R118) -/
  | vext (w : StrandWord)
  /-- Insert a scalar into one lane of the old destination vector. (R118) -/
  | vins (w : StrandWord)
  /-- Vector register move. (R118) -/
  | vmov (w : StrandWord)
  /-- Round each lane to an integral value in its own format. (R118) -/
  | vround (w : StrandWord)
  /-- Classify each f32 lane into a one-hot class word. (R118) -/
  | vclass (w : StrandWord)
  /-- Write scalar plus lane index in each lane. (R118) -/
  | vlane (w : StrandWord)
  /-- Combine two masks bitwise through a truth table. (R121) -/
  | mopTable (w : StrandWord)
  /-- Load a mask from the low 32 bits of a scalar source. (R121) -/
  | mopMove (w : StrandWord)
  /-- Count or copy a mask into a scalar register. (R121) -/
  | mpop (w : StrandWord)
  /-- Convert each active lane between formats under the rounding mode. (R124) -/
  | vcvt (w : StrandWord)
  /-- Pack the low bits of two vectors into consecutive narrow elements. (R126) -/
  | vpack (w : StrandWord)
  /-- Unpack one part of packed narrow elements to lanes. (R126) -/
  | vunpk (w : StrandWord)
  /-- Quantise 96 f32 values into one block-scaled block with its scale word. (R128) -/
  | vqnt (w : StrandWord)
  /-- Dequantise one block into three f32 registers. (R129) -/
  | vdqnt (w : StrandWord)
  /-- Scale each lane by 2^n and round. (R127) -/
  | vscal (w : StrandWord)
  /-- Exact integer lattice products of code amplitudes added to an i32 accumulator. (R130) -/
  | vlat (w : StrandWord)
  /-- An E-strand result in flight lands in its register or queue entry at the end of cycle c+L-1 and sets its FSR flags. (R46) -/
  | resultLanding
  /-- Scalar load of w bits from A+B. (R159) -/
  | ld (w : StrandWord)
  /-- Scalar store of w bits to A+B. (R159) -/
  | st (w : StrandWord)
  /-- Contiguous vector load of 32 lanes. (R160) -/
  | ldv (w : StrandWord)
  /-- Contiguous vector store of 32 lanes. (R160) -/
  | stv (w : StrandWord)
  /-- Strided vector load. (R160) -/
  | ldvs (w : StrandWord)
  /-- Strided vector store. (R160) -/
  | stvs (w : StrandWord)
  /-- Gather 32 indexed elements into a vector queue entry. (R162) -/
  | gath (w : StrandWord)
  /-- Scatter 32 lanes to indexed addresses. (R162) -/
  | scat (w : StrandWord)
  /-- Per-lane load from the strand's own lane slices. (R161) -/
  | ldl (w : StrandWord)
  /-- Per-lane store to the strand's own lane slices. (R161) -/
  | stl (w : StrandWord)
  /-- Prefetch a line into L1 or its L2 home; never faults. (R164) -/
  | pref (w : StrandWord)
  /-- Wait until earlier writes of the strand to a line are acknowledged. (R164) -/
  | wbl (w : StrandWord)
  /-- Remove the core's L1 copy of a line. (R164) -/
  | invl (w : StrandWord)
  /-- Load 128 bytes of a tile into a vector queue entry as a reader. (R165) -/
  | tld (w : StrandWord)
  /-- Store one popped vector entry into a tile. (R165) -/
  | tst (w : StrandWord)
  /-- Define an unowned tile's format, shape and base for the context. (R166) -/
  | tsetDef (w : StrandWord)
  /-- Move an empty owned tile to ready. (R166) -/
  | tsetOpen (w : StrandWord)
  /-- Move a ready tile to draining. (R166) -/
  | tsetRel (w : StrandWord)
  /-- Return a snapshot of a tile entry. (R166) -/
  | tqry (w : StrandWord)
  /-- Load 512 bytes into a constant bank, replacing it whole in one cycle. (R167) -/
  | ldcb (w : StrandWord)
  /-- Zero-fill a range, allocating L2 lines as zero. (R168) -/
  | zfill (w : StrandWord)
  /-- Atomic add at the home, returning the old value unless posted. (R172) -/
  | aadd (w : StrandWord)
  /-- Atomic minimum at the home. (R172) -/
  | amin (w : StrandWord)
  /-- Atomic maximum at the home. (R172) -/
  | amax (w : StrandWord)
  /-- Atomic bitwise AND at the home. (R172) -/
  | aand (w : StrandWord)
  /-- Atomic bitwise OR at the home. (R172) -/
  | aor (w : StrandWord)
  /-- Atomic bitwise XOR at the home. (R172) -/
  | axor (w : StrandWord)
  /-- Atomic exchange at the home. (R172) -/
  | axch (w : StrandWord)
  /-- Atomic compare-and-swap at the home. (R173) -/
  | acas (w : StrandWord)
  /-- Atomic floating-point add rounded to nearest even. (R174) -/
  | afadd (w : StrandWord)
  /-- Atomic floating-point maximum. (R174) -/
  | afmax (w : StrandWord)
  /-- Claim n queue slots through a claim word. (R176) -/
  | aclm (w : StrandWord)
  /-- Load with acquire ordering. (R177) -/
  | ldacq (w : StrandWord)
  /-- Store with release ordering. (R177) -/
  | strel (w : StrandWord)
  /-- Acquire fence completing when earlier reads have returned. (R178) -/
  | fenceAcq (w : StrandWord)
  /-- Release fence for every later write. (R178) -/
  | fenceRel (w : StrandWord)
  /-- Acquire and release fence. (R178) -/
  | fenceAr (w : StrandWord)
  /-- Sequentially consistent fence in the total order S. (R178) -/
  | fenceSc (w : StrandWord)
  /-- A write held 512 core cycles in the source combining buffer leaves for its home. (R187) -/
  | combiningBufferTimeout
  /-- A page-table walk completes, setting AC or DT or raising a translation fault. (R138) -/
  | xlateWalk
  /-- An access waiting on MV re-walks when MV reads 0. (R141) -/
  | movingPageRewalk
  /-- Push one word to a command ring's tail. (R206) -/
  | enq (w : StrandWord)
  /-- Push n contiguous words to a command ring's tail in one instant. (R206) -/
  | enqn (w : StrandWord)
  /-- Pop one report or fault record from a result ring. (R207) -/
  | deq (w : StrandWord)
  /-- Snapshot a command ring's status for a command index. (R208) -/
  | engst (w : StrandWord)
  /-- Wait until a flag reaches n, then consume n and acquire. (R209) -/
  | flw (w : StrandWord)
  /-- Increment a flag by k as a release. (R209) -/
  | fls (w : StrandWord)
  /-- Read a flag's value and SATF as a snapshot. (R209) -/
  | flr (w : StrandWord)
  /-- Read a flag and zero it, acquiring its increments. (R209) -/
  | flrZ (w : StrandWord)
  /-- Resolve a guard slot to a predicate's value. (R210) -/
  | gset (w : StrandWord)
  /-- Return a guard slot to unresolved. (R210) -/
  | gsetClr (w : StrandWord)
  /-- Snapshot a guard slot's state. (R210) -/
  | gqry (w : StrandWord)
  /-- Submit a linear copy packet to the core port, counting a token. (R235) -/
  | cpy (w : StrandWord)
  /-- Submit a tensor-window copy packet built from two TLRs. (R235) -/
  | cpyt (w : StrandWord)
  /-- Submit a 64-byte packet from memory to the core port. (R235) -/
  | cpyx (w : StrandWord)
  /-- Place a packet in a user-mode copy queue slot. (R236) -/
  | cpyq (w : StrandWord)
  /-- Wait until named tokens reach zero and acquire their copies. (R237) -/
  | twait (w : StrandWord)
  /-- Snapshot a token's count and fault state. (R238) -/
  | tstat (w : StrandWord)
  /-- Cancel every copy counted by a token and clear it. (R239) -/
  | tkill (w : StrandWord)
  /-- Reset the local walk and restore permits to PCNT. (R317) -/
  | nest (w : StrandWord)
  /-- Advance to the next local point, consuming a permit. (R318) -/
  | iter (w : StrandWord)
  /-- Wait until permits reach n without consuming. (R317) -/
  | pwait (w : StrandWord)
  /-- Return n permits. (R317) -/
  | pret (w : StrandWord)
  /-- Read a loop counter or level extent. (R317) -/
  | lcnt (w : StrandWord)
  /-- Select the format-table index from a loop counter or a literal. (R317) -/
  | fsel (w : StrandWord)
  /-- Append a launch packet to a launch queue. (R320) -/
  | launch (w : StrandWord)
  /-- Set a named event as a release. (R319) -/
  | evsig (w : StrandWord)
  /-- Wait until a named event is set, then acquire. (R319) -/
  | evwait (w : StrandWord)
  /-- Test a named event's set state into a predicate. (R319) -/
  | evwaitT (w : StrandWord)
  /-- Clear a named event. (R319) -/
  | evclr (w : StrandWord)
  /-- Join a team at its descriptor home, taking the next rank. (R324) -/
  | join (w : StrandWord)
  /-- Leave a team, arriving for the current generation. (R324) -/
  | leave (w : StrandWord)
  /-- Arrive at the team barrier and wait for the generation to complete. (R325) -/
  | tbar (w : StrandWord)
  /-- Read a team slot's rank, size, generation or descriptor. (R323) -/
  | tinfo (w : StrandWord)
  /-- Remote scalar load through a window handle. (R334) -/
  | rld (w : StrandWord)
  /-- Remote scalar store through a window handle. (R334) -/
  | rst (w : StrandWord)
  /-- Remote 128-byte vector load into a queue. (R334) -/
  | rldv (w : StrandWord)
  /-- Remote 128-byte vector store from a queue. (R334) -/
  | rstv (w : StrandWord)
  /-- Remote atomic of a selected operation at the target home. (R334) -/
  | ratom (w : StrandWord)
  /-- Remote compare-and-swap at the target home. (R334) -/
  | rcas (w : StrandWord)
  /-- Wait until earlier remote writes are acknowledged. (R335) -/
  | rflush (w : StrandWord)
  /-- Read a word of a window-table entry with the key hidden. (R335) -/
  | winq (w : StrandWord)
  /-- Send a message to a team rank, completing when the target accepts the header. (R346) -/
  | msend (w : StrandWord)
  /-- Post a receive to the RXE. (R347) -/
  | mpost (w : StrandWord)
  /-- Probe the unexpected queue for a matching message. (R347) -/
  | mprobe (w : StrandWord)
  /-- Cancel an active post. (R347) -/
  | mcancel (w : StrandWord)
  /-- Pop a completion record, waiting unless non-blocking. (R347) -/
  | mcomp (w : StrandWord)
  /-- Snapshot one of four RXE counts of the context. (R347) -/
  | mqry (w : StrandWord)
  /-- Request a reduction slot at a station and receive its handle or a failure code. (R355) -/
  | cslot (w : StrandWord)
  /-- Contribute data to a reduction slot. (R356) -/
  | cred (w : StrandWord)
  /-- Contribute to a broadcast slot. (R356) -/
  | cbcast (w : StrandWord)
  /-- Contribute to a barrier slot. (R356) -/
  | cbar (w : StrandWord)
  /-- Record at the station that an index is finished with the slot. (R362) -/
  | cfree (w : StrandWord)
  /-- Snapshot a collective slot's state, mask or deadline. (R363) -/
  | cqry (w : StrandWord)
  /-- Raise SOFTWARE_TRAP with an information word. (R370) -/
  | trap (w : StrandWord)
  /-- Resume the core from its trap frame, re-injecting replay entries. (R371) -/
  | rett (w : StrandWord)
  /-- Read a trap-frame word in handler mode. (R370) -/
  | rpli (w : StrandWord)
  /-- Write an editable trap-frame word in handler mode. (R370) -/
  | rplr (w : StrandWord)
  /-- Read a system register. (R373) -/
  | mfsr (w : StrandWord)
  /-- Write a system register. (R373) -/
  | mtsr (w : StrandWord)
  /-- Discard every cached translation of the selected context. (R387) -/
  | tlbiAll (w : StrandWord)
  /-- Discard cached translations of one page. (R387) -/
  | tlbiVa (w : StrandWord)
  /-- Discard a window entry's cached copy and matching check-cache entries. (R387) -/
  | tlbiWin (w : StrandWord)
  /-- Resume a stopped context save from its offset. (R386) -/
  | sve (w : StrandWord)
  /-- Migrate a page to a new leaf, marking it moving and invalidating. (R388) -/
  | pgmig (w : StrandWord)
  /-- Once no line of the page is pinned, old homes refuse further accesses and the page is copied and the new leaf written. (R388) -/
  | pgmigCopyPoint
  /-- Perform and then trap with BREAKPOINT at the next cycle. (R395) -/
  | brk (w : StrandWord)
  /-- Stop the core and launch the fallow wave of the job. (R409) -/
  | fallow (w : StrandWord)
  /-- Snapshot an event counter. (R412) -/
  | cntrd (w : StrandWord)
  /-- Configure an event counter. (R410) -/
  | cntsel (w : StrandWord)
  /-- Read a wait-for log record or its status word. (R415) -/
  | wfgrd (w : StrandWord)
  /-- Write a trace record when trace is enabled. (R414) -/
  | trmark (w : StrandWord)
  /-- Read field time in ns. (R426) -/
  | timrd (w : StrandWord)
  /-- Read the task, context or die energy counter. (R426) -/
  | enrd (w : StrandWord)
  /-- Request a core-clock grant to finish work by a deadline. (R426) -/
  | pace (w : StrandWord)
  /-- Read cap, draw, die draw or current clock. (R426) -/
  | pwrq (w : StrandWord)
  /-- The core takes a trap in cycle t, stopping each strand at its stop unit and filling the frame. (R365) -/
  | trapEntry
  /-- A line fill loads break bits from the bitmap beside each word. (R391) -/
  | breakBitLoad
  /-- After 256 event-free cycles with all strands blocked or finished, the core traps. (R99) -/
  | queueDeadlock
  /-- A segment reaching twice its cost increments OVR2 and continues. (R383) -/
  | segmentOverrunTwice
  /-- A segment reaching eight times its cost increments OVR8 and forces pre-emption. (R383) -/
  | segmentOverrun
  /-- A rotation group's time ends; switches become pending and ROTE writes take effect. (R316) -/
  | rotationGroupEnd
  /-- When all six strands are parked and landings done, the core switches context keeping the live set. (R102) -/
  | rotationSwitch
  /-- The walker places the next point on a free core, preloading registers and entering the entry points. (R314) -/
  | iterationStart
  /-- A pending SCR/CPL split takes effect when no iteration is on the cluster, zeroing its SRAM. (R135) -/
  | clcfgApply
  /-- Write a ring's configuration; enabling resets indices, disabling discards commands. (R195) -/
  | rcfgWrite
  /-- A host store to TAIL pushes every word up to the new tail. (R197) -/
  | hostTailStore
  /-- ACT 1 to RSTAT resumes a stopped ring at HEAD. (R199) -/
  | ringRestartRetry
  /-- ACT 2 to RSTAT discards the command at HEAD and resumes. (R199) -/
  | ringRestartDiscard
  /-- A held command is taken or discarded in the first cycle its guard is found resolved. (R198) -/
  | commandGuardDecided
  /-- A held command's flag wait is satisfied, the flag decremented and the command taken. (R198) -/
  | commandFlagSatisfied
  /-- A ring head word with reserved EOP or SG is rejected and the ring stopped. (R79) -/
  | drillCommandReject
  /-- Drill no-op applying only wait and signal. (R273) -/
  | dnop
  /-- Open the ring's symbol session, optionally at a field-time instant. (R274) -/
  | symOpen
  /-- The session opens and sym retires once lasers are lit and the instant reached. (R274) -/
  | sessionOpened
  /-- Close the session after earlier commands retire. (R274) -/
  | symClose
  /-- Set the ring's window length and converter mode. (R275) -/
  | win
  /-- Set the converter gain. (R275) -/
  | crng
  /-- Set the gain and trim all 16 converter banks. (R275) -/
  | crngTrim
  /-- Set the activation source to local, package broadcast or fibre group. (R261) -/
  | asrc
  /-- Open a broadcast session as producer. (R287) -/
  | bcst
  /-- End producer membership after the last session window. (R287) -/
  | bcstEnd
  /-- Join a broadcast session as consumer. (R287) -/
  | bjoin
  /-- End consumer membership after the last session window. (R287) -/
  | bjoinEnd
  /-- Set single or split pass mapping of each side. (R245) -/
  | pass
  /-- Set add or fresh accumulator mode. (R277) -/
  | accMode
  /-- Clear a region of the allotment after earlier windows accumulate. (R277) -/
  | accClr
  /-- Write accumulator values and optional status plane to tiles. (R290) -/
  | drain
  /-- Set the report policy, condition mask and action. (R278) -/
  | rpol
  /-- Run a full calibration occupying the die. (R279) -/
  | calFull
  /-- Run a converter calibration. (R279) -/
  | calConv
  /-- Run a modulator calibration. (R279) -/
  | calMod
  /-- Measure and trim array skew. (R279) -/
  | skewArray
  /-- Re-measure the broadcast path delay. (R279) -/
  | skewPath
  /-- Set the ring's laser power threshold. (R275) -/
  | lzr
  /-- Hold later takes until earlier commands retire. (R280) -/
  | dfence
  /-- Repeat the preceding ring words a counted number of times. (R281) -/
  | dloop
  /-- Matrix command of shape 64 by 128. (R285) -/
  | mxM64n128
  /-- Matrix command of shape 64 by 256. (R285) -/
  | mxM64n256
  /-- Matrix command of shape 64 by 512. (R285) -/
  | mxM64n512
  /-- Matrix command of shape 128 by 128. (R285) -/
  | mxM128n128
  /-- Matrix command of shape 128 by 256. (R285) -/
  | mxM128n256
  /-- Matrix command of shape 128 by 512. (R285) -/
  | mxM128n512
  /-- Matrix command of shape 256 by 128. (R285) -/
  | mxM256n128
  /-- Matrix command of shape 256 by 256. (R285) -/
  | mxM256n256
  /-- Matrix command of shape 256 by 512. (R285) -/
  | mxM256n512
  /-- Resume a suspended matrix command from its progress record. (R296) -/
  | mxr
  /-- The TFU completes fetching and pinning a window's operands. (R254) -/
  | tfuFetch
  /-- At each slot boundary the drill arbitrates among eligible rings and starts at most one window. (R265) -/
  | slotBoundary
  /-- A window's conditions are judged, its value rescaled and added, and its report appended. (R251) -/
  | windowAccumulate
  /-- A converter bank's trim deadline takes an idle or stolen slot. (R257) -/
  | converterTrimDue
  /-- A modulator group's bias deadline takes a slot. (R257) -/
  | modulatorBiasDue
  /-- The array skew trim deadline takes two slots. (R257) -/
  | skewTrimDue
  /-- 100 us after the last session closes the laser module goes to standby. (R258) -/
  | laserStandby
  /-- Relight completes after 50 us and full calibration follows. (R258) -/
  | laserRelightDone
  /-- Laser power on a bus waveguide falls below a ring threshold, flagging DIM. (R258) -/
  | laserDip
  /-- Power below threshold for 1,000 slots notifies the supervisor. (R258) -/
  | laserLossSustained
  /-- The symbol clock loses lock; windows meet LOCK and none start. (R259) -/
  | symbolLockLoss
  /-- 1,024 slots after lock returns, windows may start again. (R259) -/
  | symbolLockSettled
  /-- Write OME sharing weights and accumulator allotments. (R264) -/
  | omeshrWrite
  /-- A no-op packet retires applying its completion. (R221) -/
  | copyNoop
  /-- A linear copy packet is taken and runs in beats, optionally converting. (R227) -/
  | copyLinear
  /-- A linear packet with FL fills the destination with an 8-byte pattern. (R227) -/
  | copyFill
  /-- A linear packet with IS writes a core's instruction store. (R231) -/
  | copyToInstructionStore
  /-- A linear packet with CS pushes its words to an engine command ring. (R232) -/
  | copyToCommandRing
  /-- A tensor-window to tensor packet is taken and runs. (R227) -/
  | copyTensor
  /-- A tensor-window to tile packet fills tile rows. (R233) -/
  | copyTensorToTile
  /-- A tile to tensor-window packet reads a tile as a reader. (R233) -/
  | copyTileToTensor
  /-- One 256-byte beat of a copy lands at its homes. (R227) -/
  | copyBeat
  /-- A copy retires, pushing its follow-on, decrementing its token and signalling CFLAG. (R229) -/
  | copyRetire
  /-- A claimed slot invalid for CQTMO cycles sets ST 2 and notifies the supervisor. (R217) -/
  | queueStall
  /-- ACT 1 retakes the stopped queue slot. (R220) -/
  | copyQueueActRetry
  /-- ACT 2 retires the stopped queue slot without effect. (R220) -/
  | copyQueueActSkip
  /-- Configure a copy queue; enabling initialises the header, disabling discards packets. (R214) -/
  | cqcfgWrite
  /-- Configure a launch queue; enabling initialises the header. (R297) -/
  | lqcfgWrite
  /-- The scheduler takes a no-op launch packet and retires it. (R300) -/
  | launchPacketNoop
  /-- The scheduler takes a task packet, checks its LNR, writes status and enters the task. (R300) -/
  | launchPacketTask
  /-- The scheduler takes a packet starting a command-list stream. (R300) -/
  | launchPacketStream
  /-- Stream entry end makes the stream idle. (R302) -/
  | streamEnd
  /-- Stream entry loads a packet and handles it as a queue take. (R302) -/
  | streamLaunch
  /-- Stream entry waits until an event is set. (R302) -/
  | streamWait
  /-- Stream entry sets an event. (R302) -/
  | streamSig
  /-- Stream entry loads a value and skips the next entry on a condition. (R302) -/
  | streamSkip
  /-- Stream entry continues at an address. (R302) -/
  | streamJump
  /-- Stream entry pushes the return address and continues. (R302) -/
  | streamCall
  /-- Stream entry pops the return stack. (R302) -/
  | streamRet
  /-- Stream entry waits until every task it launched has completed. (R302) -/
  | streamFence
  /-- A ring slot arrives at its destination station and is applied in per-source order or refused. (R328) -/
  | slotArrival
  /-- A twice-refused slot returns to its source, which schedules a retry. (R329) -/
  | slotReturn
  /-- The backoff expires and the source reissues the slot. (R329) -/
  | slotRetry
  /-- A link frame failing correction is replayed. (R24) -/
  | linkFrameReplay
  /-- A remote access is checked and performed at the target die. (R332) -/
  | remoteAccessAtTarget
  /-- A response, check result or acknowledgement returns to the source, filling the check cache. (R333) -/
  | remoteResponse
  /-- A returned moved access is re-translated and reissued to the new home. (R190) -/
  | movedReissue
  /-- The RXE matches an arriving header against active posts or queues it as unexpected. (R339) -/
  | messageHeaderArrival
  /-- The RXE pulls a long message's payload from the sender and completes the post. (R340) -/
  | rendezvousPull
  /-- Configure the RXE for a context; clearing EN discards posts and the unexpected queue. (R337) -/
  | rxcfgWrite
  /-- RXE control no-op applying wait and signal. (R348) -/
  | xnop
  /-- Post a receive from a control ring, storing its identity. (R348) -/
  | xpost
  /-- Cancel a post from a control ring. (R348) -/
  | xcancel
  /-- A station allocates or attaches a reduction slot and replies. (R355) -/
  | cslotAtStation
  /-- A station judges and stores a contribution, finishing the slot when full. (R357) -/
  | contributionArrival
  /-- Field time reaches DL and an open slot finishes partially. (R357) -/
  | slotDeadline
  /-- A done slot frees at deadline plus 1,000,000 ns. (R350) -/
  | slotFreeTimeout
  /-- The station records an index's cfree and frees the slot when all have. (R362) -/
  | cfreeAtStation
  /-- Result bytes, status and flag increment reach a contributor. (R360) -/
  | collectiveDelivery
  /-- A watchpoint stop slot reaches the source A strand, which traps imprecisely. (R398) -/
  | watchStopSlot
  /-- Start pre-emption of a running context. (R380) -/
  | ctxctlPreempt
  /-- Pre-empt, save the whole context and free the slot. (R377) -/
  | ctxctlEvict
  /-- Resume a pre-empted context. (R382) -/
  | ctxctlResume
  /-- Restore a save record into an empty slot. (R385) -/
  | ctxctlRestore
  /-- Tear down a context, refusing launches and discarding work. (R321) -/
  | ctxctlTeardown
  /-- Create a context of a job with fixed privilege. (R379) -/
  | ctxctlCreate
  /-- The collector holds every acknowledgement and the save engine starts. (R380) -/
  | preemptComplete
  /-- The context-save engine finishes or stops writing the record. (R385) -/
  | saveComplete
  /-- A saved core section returns to its free core and its strands resume. (R382) -/
  | coreSectionReload
  /-- Write the page-table root, discarding cached translations. (R375) -/
  | ptbaseWrite
  /-- Install or remove a home-map entry on every die. (R376) -/
  | hmentWrite
  /-- Write a system register that has no behaviour of its own. (R373) -/
  | registerWrite
  /-- Reload the break bits of every word of the context. (R391) -/
  | brksyncWrite
  /-- Supervisor launches the fallow wave. (R400) -/
  | fwctlLaunch
  /-- Step a frozen core by one cycle. (R407) -/
  | fwctlStepCycle
  /-- Step one strand of a frozen core by one unit. (R407) -/
  | fwctlStepInstruction
  /-- Step one window of a drill ring. (R407) -/
  | fwctlStepWindow
  /-- Schedule resume of the frozen job at FWTIME. (R408) -/
  | fwctlResume
  /-- A step that cannot issue within 4,096 cycles ends with SERR. (R407) -/
  | stepTimeout
  /-- The wave's stop reaches a die, which stops the job's cores and engines. (R401) -/
  | fallowStopArrival
  /-- A die has no traffic of the job left and reports to the controller. (R402) -/
  | fallowPhaseTwoDone
  /-- The controller's frozen broadcast arrives and FST becomes 3. (R402) -/
  | fallowFrozen
  /-- A cause record arrives and is sorted into the job's entries. (R406) -/
  | causeRecordArrival
  /-- Field time reaches the resume instant and the job's engines and strands resume. (R408) -/
  | fallowResumeInstant
  /-- Start a core dump of a context. (R416) -/
  | dumpctlStart
  /-- The dump finishes writing or stops on a fault. (R417) -/
  | dumpComplete
  /-- Empty the wait-for log and zero its lost counter. (R415) -/
  | wfctlWrite
  /-- Configure the trace buffer; enabling zeroes TRIDX. (R413) -/
  | trcfgWrite
  /-- A management-port request stops every clock of one die for destructive read-out. (R420) -/
  | clockFreeze
  /-- Write the package cap, clamped to 1,600 to 4,000 W. (R422) -/
  | pwrcapWrite
  /-- Send power tokens to another package. (R423) -/
  | tokxferWrite
  /-- The recipient raises its cap and returns any remainder. (R423) -/
  | tokenArrival
  /-- Returned tokens arrive and the donor adds them to its cap. (R423) -/
  | tokenReturn
  /-- The recipient's acknowledgement settles OUT. (R423) -/
  | tokenAck
  /-- At each 10 us boundary the governor sheds or restores power. (R424) -/
  | governorInterval
  /-- A pace grant lapses at its deadline. (R426) -/
  | paceGrantExpiry
  /-- A die loses its reference, enters holdover and notifies the supervisor. (R427) -/
  | referenceLoss
  /-- Lock returns and slewing begins. (R427) -/
  | referenceLock
  /-- Field time's correction changes by 1 ns, at most once per us. (R242) -/
  | slewStep
  /-- At the end of slewing a gap realigns slot boundaries to even ns. (R242) -/
  | realignmentGap
  /-- The root module's field-reset input is asserted and the reset instant sent. (R435) -/
  | fieldResetRequest
  /-- At the instant every unfenced die sets field time to 0. (R435) -/
  | fieldResetInstant
  /-- The module reset input starts boot of every die. (R434) -/
  | moduleReset
  /-- A die verifies firmware, authenticates neighbours, trains HBM4 and joins map planning. (R429) -/
  | dieBoot
  /-- A die not answering within 1 s is fenced. (R429) -/
  | bootAnswerTimeout
  /-- Configure the notification ring; enabling zeroes its indices. (R432) -/
  | notcfgWrite
  /-- A host PCIe read through a BAR window. (R431) -/
  | hostRead
  /-- A host PCIe posted write through a BAR window. (R431) -/
  | hostWrite
  /-- A host PCIe atomic on a claim word, acting as aclm. (R191) -/
  | hostAtomic
  /-- An SMBus/MCTP read of PWRST, CLKST or BOOTRPT images. (R434) -/
  | boardManagementRead
  /-- A stored SRAM or HBM4 word takes a single-bit or uncorrectable error of itself. (R170) -/
  | memorySoftError
  /-- The symbol clock regains lock, starting the 1,024-slot settling count. (R259) -/
  | symbolLockRegained
  /-- A context in STATE 7 finishes tearing down, once its running copies and engines have stopped, and its slot becomes empty. (R378) -/
  | teardownComplete
  /-- The context-save engine finishes, or refuses, restoring a save record, leaving STATE 6 and sending the kind 4 notification. (R385) -/
  | restoreComplete
  /-- The 1 us per-vector MSI-X hold-off ends and any merged events are signalled in one message. (R431) -/
  | interruptHoldoffExpiry
  deriving DecidableEq, Repr

end Sys2Proof
end

