-- ==== Sys2Proof/Machine/Operands.lean ====
section
/-!
DEFINITION. Operand forms: which fields of a word an instruction's entry allows, how a literal becomes an operand
value, and the captured operands and result of an instruction (02 R35 to R41, 04 R83, 05 R109 to R111).
-/

namespace Sys2Proof.Machine

/-- What a source field carries (02 R35, 04 R83, 05 R111). -/
inductive SForm where
  | none                        -- the field is not used and must be zero
  | s                           -- a scalar source: scalar register or pop, constant bank, literal (04 R85 "S")
  | sf                          -- a scalar source read as floating point (02 R36)
  | sNoX                        -- a scalar source that may not be the X literal
  | immX                        -- literal 48 or 49 only
  | v                           -- a vector value source of any kind, read as integers (05 R111)
  | vf                          -- a vector value source of any kind, read as floating point (05 R111)
  | vreg (hi : Nat)             -- a vector register v0 to v<hi>
  | vq                          -- a vector kind: register or pop
  | sel (hi : Nat)              -- a selector: a plain number 0 to hi (04 R83)
  | selPred                     -- a selector naming a predicate
  | selMask                     -- a selector naming a mask register
  | cbank                       -- a constant-bank entry, named but read by the instruction itself
  deriving DecidableEq, Repr

/-- What a destination may be (02 R38). -/
inductive DForm where
  | none
  | scal                        -- s0 to s31, or push q8 to q15
  | sreg                        -- s0 to s31 only
  | vec                         -- v0 to v31, or push q0 to q7
  | vreg (hi : Nat)             -- v0 to v<hi> only
  | pred                        -- p0 to p7
  | mask                        -- m0 to m7
  deriving DecidableEq, Repr

/-- The strand classes an opcode is allowed on (03 R65). -/
structure Strands where
  h : Bool
  a : Bool
  e : Bool
  deriving DecidableEq, Repr

/-- Every strand. -/
def onHAE : Strands := { h := true, a := true, e := true }
/-- H and A. -/
def onHA : Strands := { h := true, a := true, e := false }
/-- A only. -/
def onA : Strands := { h := false, a := true, e := false }
/-- H only. -/
def onH : Strands := { h := true, a := false, e := false }
/-- E strands only. -/
def onE : Strands := { h := false, a := false, e := true }
/-- A and E. -/
def onAE : Strands := { h := false, a := true, e := true }

/-- Whether strand number 0 (H), 1 (A) or 2 to 5 (E0 to E3) is of an allowed class. -/
def Strands.allows (t : Strands) (strand : Nat) : Bool :=
  if strand = 0 then t.h else if strand = 1 then t.a else t.e

/-- Which layout the extension field has: scalar (04 R82), vector (05 R109), lattice (05 R130) or the entry's own. -/
inductive Lay where
  | int | vec | lat | raw
  deriving DecidableEq, Repr

/-- The form of an instruction: what its entry allows in each field (02 R39 step 2). `x` is the entry's own check of
the extension field as the strand of a given number may carry it; `xdef` is what the field counts as when a source
names the X literal (02 R37); `accept` names the format codes of the layout. -/
structure Form where
  strands : Strands
  dst : List DForm
  a : SForm := .none
  b : SForm := .none
  c : SForm := .none
  lay : Lay := .raw
  accept : Nat → Bool := fun c => c = 0
  satOk : Bool := false
  x : Nat → BitVec 16 → Bool := fun _ v => v = 0#16
  w : StrandWord → Bool := fun _ => true   -- a check that joins fields
  xdef : BitVec 16 := 0#16
  branch : Bool := false
  unguarded : Bool := false     -- a nonzero guard field is illegal (04 R93, R95, R100, R103)
  sup : Bool := false           -- supervisor-only in every use (03 R66)

/-- Whether a source field names the X literal (02 R37). -/
def Src.isX (s : Src) : Bool := decide (s.kind = .lit) && (s.idx = 48#6 || s.idx = 49#6)

/-- A source field of all zero bits. -/
def Src.zero (s : Src) : Bool := decide (s.kind = .vec) && s.idx = 0#6

/-- Whether a scalar-class source field is not marked Illegal (02 R35). -/
def Src.scalarOk (s : Src) : Bool :=
  match s.kind with
  | .vec => false
  | .scal => decide (s.idx.toNat ≤ 31) || (decide (40 ≤ s.idx.toNat) && decide (s.idx.toNat ≤ 47))
  | .cb => true
  | .lit => decide (s.idx.toNat ≤ 49)

/-- Whether a vector-kind source field is not marked Illegal (02 R35); H and A hold no vector registers (02 R39). -/
def Src.vectorOk (s : Src) (strand : Nat) : Bool :=
  decide (s.kind = .vec) &&
    (if strand < 2 then decide (32 ≤ s.idx.toNat) && decide (s.idx.toNat ≤ 39) else decide (s.idx.toNat ≤ 39))

/-- Whether a source field is one the form allows (02 R39). -/
def SForm.ok (f : SForm) (strand : Nat) (s : Src) : Bool :=
  match f with
  | .none => Src.zero s
  | .s | .sf => Src.scalarOk s
  | .sNoX => Src.scalarOk s && !Src.isX s
  | .immX => Src.isX s
  | .v => Src.scalarOk s || Src.vectorOk s strand
  | .vf => Src.scalarOk s || Src.vectorOk s strand
  | .vreg hi => decide (s.kind = .vec) && decide (s.idx.toNat ≤ hi) && decide (2 ≤ strand)
  | .vq => Src.vectorOk s strand
  | .sel hi => decide (s.kind = .vec) && decide (s.idx.toNat ≤ hi)
  | .selPred => decide (s.kind = .vec) && decide (s.idx.toNat ≤ 7)
  | .selMask => decide (s.kind = .vec) && decide (s.idx.toNat ≤ 7)
  | .cbank => decide (s.kind = .cb)

/-- Whether a destination field is one the form allows (02 R38, R39). -/
def DForm.ok (f : DForm) (strand : Nat) (dk : DKind) (d : BitVec 6) : Bool :=
  let n := d.toNat
  match f with
  | .none => decide (dk = .none) && decide (n = 0)
  | .scal => decide (dk = .scal) && (decide (n ≤ 31) || (decide (40 ≤ n) && decide (n ≤ 47)))
  | .sreg => decide (dk = .scal) && decide (n ≤ 31)
  | .vec => decide (dk = .vec) && (if strand < 2 then decide (32 ≤ n) && decide (n ≤ 39) else decide (n ≤ 39))
  | .vreg hi => decide (dk = .vec) && decide (n ≤ hi) && decide (2 ≤ strand)
  | .pred => decide (dk = .pred) && decide (n ≤ 7)
  | .mask => decide (dk = .pred) && decide (n ≤ 7) && decide (2 ≤ strand)

/-- How many sources name the X literal (02 R39). -/
def xCount (w : StrandWord) : Nat := b2n (Src.isX w.a) + b2n (Src.isX w.b) + b2n (Src.isX w.c)

/-- The extension field as the instruction reads it (02 R37). -/
def Form.effX (f : Form) (w : StrandWord) : BitVec 16 := if xCount w = 0 then w.x else f.xdef

/-- A rounding field of an extension field is not 5 or 6 (02 R39). -/
def rmOk (x : BitVec 16) : Bool := fld x 0 3 ≠ 5 && fld x 0 3 ≠ 6

/-- The checks of the extension field by its layout (02 R39, R41; 04 R82; 05 R109, R130). -/
def Form.xOk (f : Form) (strand : Nat) (x : BitVec 16) : Bool :=
  (match f.lay with
    | .int => fld x 4 4 = 0 && rmOk x && f.accept (fld x 8 8) && (f.satOk || !bit x 3)
    | .vec => rmOk x && (f.accept (fld x 8 8) || fld x 8 8 = 63) && (f.satOk || !bit x 3)
    | .lat => rmOk x && (f.accept (fld x 8 8) || fld x 8 8 = 63)
    | .raw => true) && f.x strand x

/-- The checks of 02 R39 step 2 that depend on the word and the executing strand alone. -/
def Form.legal (f : Form) (strand : Nat) (w : StrandWord) : Bool :=
  (f.branch || w.bh = 0#2) && f.dst.any (fun d => d.ok strand w.dk w.d) && f.a.ok strand w.a && f.b.ok strand w.b &&
    f.c.ok strand w.c && decide (xCount w ≤ 1) && f.xOk strand (f.effX w) &&
    f.w w && (!f.unguarded || (w.pn = false && w.pg = 0#3))

/-- The entry puts no check of its own on the extension field. -/
def anyX : Nat → BitVec 16 → Bool := fun _ _ => true

/-- An integer literal's value (02 R35). -/
def litInt (idx : BitVec 6) (x : BitVec 16) : Int :=
  if idx = 48#6 then x.toInt else if idx = 49#6 then x.toNat else (idx.toNat : Int) - 16

/-- A floating literal's pattern in a format: small literals convert exactly, literals 48 and 49 are a bf16 pattern
(02 R36), a signalling NaN among them staying one where the format holds its payload whole; a source format of `vcvt` that
cannot hold the value rounds it under `rne`. -/
def litFloat (f : FFmt) (idx : BitVec 6) (x : BitVec 16) : Nat :=
  if idx = 48#6 ∨ idx = 49#6 then
    if bf16.isNan x.toNat ∧ bf16.frac ≤ f.frac then
      f.infBits (bf16.neg x.toNat) + x.toNat % 2 ^ bf16.frac * 2 ^ (f.frac - bf16.frac)
    else (cvtFF bf16 f 0 false x.toNat).bits
  else (f.roundDyad 0 false { n := litInt idx 0, e := 0 } false).bits

/-- A 32-bit value in every lane (05 R111). -/
def splat (v : Lane) : Vec := mkVec fun _ => v

/-- The floating literal as a vector operand under a format code (05 R111): `bf16x2` fills both halves. -/
def litVecF (fmt : Nat) (idx : BitVec 6) (x : BitVec 16) : Vec :=
  if fmt = 6 then
    let h := litFloat bf16 idx x
    splat (BitVec.ofNat 32 (h + h * 65536))
  else
    match fmtOfCode fmt with
    | some f => splat (BitVec.ofNat 32 (litFloat f idx x))
    | none => splat (BitVec.ofNat 32 (litFloat f32 idx x))

/-- The floating literal as a scalar operand: its pattern in the low 32 bits, in both halves under `bf16x2` (02 R36; log 3). -/
def litWordF (fmt : Nat) (idx : BitVec 6) (x : BitVec 16) : Word := (lane (litVecF fmt idx x) 0).setWidth 64

/-- The integer literal as a vector operand (02 R36). -/
def litVecI (idx : BitVec 6) (x : BitVec 16) : Vec := splat (BitVec.ofInt 32 (litInt idx x))

/-- Operands captured at issue (15 R369): the three sources and the old destination, a scalar in the low 64 bits, a
predicate or mask selector as its value; the active lanes; the extension field, format code and rounding mode as
resolved at issue. -/
structure Caps where
  a : Vec := 0
  b : Vec := 0
  c : Vec := 0
  d : Vec := 0
  mask : Lane := BitVec.allOnes 32
  x : BitVec 16 := 0
  fmt : Nat := 0
  rm : Nat := 0
  deriving DecidableEq, Repr

/-- A result: its value (with the two further registers of `vdqnt`), whether a `0b10` destination is a mask, the lanes that land, whether the other lanes of
a register are zeroed, and the flags raised (05 R110). -/
structure Res where
  val : Vec
  v1 : Vec := 0
  v2 : Vec := 0
  three : Bool := false
  toMask : Bool := false
  lanes : Lane := BitVec.allOnes 32
  zero : Bool := false
  fl : FFlags := 0
  deriving DecidableEq, Repr

/-- A captured scalar operand. -/
def lo64 (v : Vec) : Word := v.setWidth 64

/-- A scalar as a captured operand or result. -/
def ofWord (v : Word) : Vec := v.setWidth 1024

/-- A scalar result. -/
def resWord (v : Word) : Res := { val := ofWord v }

/-- A predicate result. -/
def resBool (b : Bool) : Res := { val := if b then 1 else 0 }

/-- Saturation bit of a modifier layout (02 R41). -/
def Caps.sat (k : Caps) : Bool := bit k.x 3

end Sys2Proof.Machine
end

