-- ==== Sys2Proof/Machine/ScalarArith.lean ====
section
/-! DEFINITION. What each scalar opcode computes from its captured operands (04 R84 to R88). -/

namespace Sys2Proof.Machine

/-- Signedness and width of an integer format code; 0 is `i64` (02 R49, 04 R82). -/
def intFmt (c : Nat) : Bool × Nat :=
  match c with
  | 8 => (true, 8) | 9 => (false, 8) | 10 => (true, 16) | 11 => (false, 16) | 12 => (true, 32) | 13 => (false, 32)
  | 15 => (false, 64) | _ => (true, 64)

/-- `ext(v)` of a 64-bit value under a format code (04 R84). -/
def extInt (fmt : Nat) (v : Word) : Int := wrapInt (intFmt fmt).1 (intFmt fmt).2 v.toNat

/-- The w-bit pattern of a 64-bit value under a format code. -/
def patOf (fmt : Nat) (v : Word) : Nat := v.toNat % 2 ^ (intFmt fmt).2

/-- The landed result of an exact r (04 R84). -/
def landInt (k : Caps) (r : Int) : Res :=
  let (sg, w) := intFmt k.fmt
  let r' := if k.sat then clampInt sg w r else r
  resWord (BitVec.ofInt 64 (wrapInt sg w r'))

/-- Operand A as `ext` reads it. -/
def Caps.ia (k : Caps) : Int := extInt k.fmt (lo64 k.a)
/-- Operand B as `ext` reads it. -/
def Caps.ib (k : Caps) : Int := extInt k.fmt (lo64 k.b)
/-- Operand C as `ext` reads it. -/
def Caps.ic (k : Caps) : Int := extInt k.fmt (lo64 k.c)
/-- Operand A's w-bit pattern. -/
def Caps.pa (k : Caps) : Nat := patOf k.fmt (lo64 k.a)
/-- Operand B's w-bit pattern. -/
def Caps.pb (k : Caps) : Nat := patOf k.fmt (lo64 k.b)
/-- The shift count zx(B, 6). -/
def Caps.sh (k : Caps) : Nat := fld (lo64 k.b) 0 6
/-- The width of the format. -/
def Caps.wd (k : Caps) : Nat := (intFmt k.fmt).2

/-- `add`: a + b (04 R85). -/
def resAdd (_ : StrandWord) (k : Caps) : Res := landInt k (k.ia + k.ib)
/-- `sub`: a - b (04 R85). -/
def resSub (_ : StrandWord) (k : Caps) : Res := landInt k (k.ia - k.ib)
/-- `mul`: a * b (04 R85). -/
def resMul (_ : StrandWord) (k : Caps) : Res := landInt k (k.ia * k.ib)
/-- `mulh`: floor(a * b / 2^w) (04 R85). -/
def resMulh (_ : StrandWord) (k : Caps) : Res := landInt k (k.ia * k.ib / (2 ^ k.wd : Int))
/-- `div` (04 R85, R86): a zero divisor gives all ones. -/
def resDiv (_ : StrandWord) (k : Caps) : Res := landInt k (if k.ib = 0 then -1 else k.ia.tdiv k.ib)
/-- `rem` (04 R85, R86): by zero it gives the dividend. -/
def resRem (_ : StrandWord) (k : Caps) : Res := landInt k (if k.ib = 0 then k.ia else k.ia.tmod k.ib)
/-- `and` (04 R85). -/
def resAnd (_ : StrandWord) (k : Caps) : Res := landInt k (k.pa &&& k.pb : Nat)
/-- `or` (04 R85). -/
def resOr (_ : StrandWord) (k : Caps) : Res := landInt k (k.pa ||| k.pb : Nat)
/-- `xor` (04 R85). -/
def resXor (_ : StrandWord) (k : Caps) : Res := landInt k (k.pa ^^^ k.pb : Nat)
/-- `andn`: a AND NOT b (04 R85). -/
def resAndn (_ : StrandWord) (k : Caps) : Res := landInt k (k.pa &&& (2 ^ k.wd - 1 - k.pb) : Nat)
/-- `orn`: a OR NOT b (04 R85). -/
def resOrn (_ : StrandWord) (k : Caps) : Res := landInt k (k.pa ||| (2 ^ k.wd - 1 - k.pb) : Nat)
/-- `shl`: a * 2^k (04 R85). -/
def resShl (_ : StrandWord) (k : Caps) : Res := landInt k (k.ia * 2 ^ k.sh)
/-- `shr`: floor(zx(A, w) / 2^k) (04 R85). -/
def resShr (_ : StrandWord) (k : Caps) : Res := landInt k (k.pa / 2 ^ k.sh : Nat)
/-- `sra`: floor(sx(A, w) / 2^k) (04 R85). -/
def resSra (_ : StrandWord) (k : Caps) : Res := landInt k (wrapInt true k.wd k.pa / (2 ^ k.sh : Int))
/-- `rot`: rotate left by k mod w (04 R85). -/
def resRot (_ : StrandWord) (k : Caps) : Res :=
  let n := k.sh % k.wd
  landInt k (k.pa * 2 ^ n % 2 ^ k.wd + k.pa / 2 ^ (k.wd - n) : Nat)
/-- `clz` (04 R85). -/
def resClz (_ : StrandWord) (k : Caps) : Res := landInt k (k.wd - bitLen k.pa : Nat)
/-- The number of trailing zeros below bit n, looking from bit i up. -/
def trailing (v : Nat) : Nat → Nat → Nat
  | 0, _ => 0
  | n + 1, i => if v / 2 ^ i % 2 = 1 then 0 else 1 + trailing v n (i + 1)
/-- `ctz` (04 R85). -/
def resCtz (_ : StrandWord) (k : Caps) : Res := landInt k (trailing k.pa k.wd 0 : Nat)
/-- `popc` (04 R85). -/
def resPopc (_ : StrandWord) (k : Caps) : Res := landInt k (countOnes (BitVec.ofNat 64 k.pa) 64 : Nat)
/-- `bswap` (04 R85). -/
def resBswap (_ : StrandWord) (k : Caps) : Res := landInt k (ofBytes (toBytes (k.wd / 8) k.pa).reverse : Nat)
/-- `min` (04 R85). -/
def resMin (_ : StrandWord) (k : Caps) : Res := landInt k (if k.ia ≤ k.ib then k.ia else k.ib)
/-- `max` (04 R85). -/
def resMax (_ : StrandWord) (k : Caps) : Res := landInt k (if k.ia ≤ k.ib then k.ib else k.ia)
/-- `abs` (04 R85). -/
def resAbs (_ : StrandWord) (k : Caps) : Res := landInt k (if (intFmt k.fmt).1 then k.ia.natAbs else k.ia)
/-- `sel`: a when the predicate is 1, else b (04 R85); operand C is the predicate's captured value. -/
def resSel (_ : StrandWord) (k : Caps) : Res := landInt k (if bit k.c 0 then k.ia else k.ib)
/-- `mov` (04 R85). -/
def resMov (_ : StrandWord) (k : Caps) : Res := landInt k k.ia
/-- `movk`: 16 bits of the old destination replaced (04 R85). -/
def resMovk (w : StrandWord) (k : Caps) : Res := resWord (setFld (lo64 k.d) (16 * w.c.idx.toNat) 16 (zx (lo64 k.a) 16))
/-- Length of the field of `ext` and `dep` (04 R87). -/
def fieldLen (k : Caps) : Nat := min (fld (lo64 k.c) 0 7) (64 - k.sh)
/-- `ext`: a bit field of A (04 R87). -/
def resExt (_ : StrandWord) (k : Caps) : Res :=
  let n := fieldLen k
  let f := (lo64 k.a).toNat / 2 ^ k.sh % 2 ^ n
  resWord (BitVec.ofInt 64 (if n = 0 then 0 else wrapInt (k.fmt ≠ 15) n f))
/-- `dep`: a field of the old destination from A (04 R87). -/
def resDep (_ : StrandWord) (k : Caps) : Res :=
  resWord (setFld (lo64 k.d) k.sh (fieldLen k) ((lo64 k.a).toNat % 2 ^ fieldLen k))
/-- `addx`: a + b * 2^j (04 R85). -/
def resAddx (_ : StrandWord) (k : Caps) : Res := landInt k (k.ia + k.ib * 2 ^ fld (lo64 k.c) 0 6)
/-- The condition a selector names on two integers and their patterns (04 R88). -/
def condHolds (c : Nat) (a b : Int) (pa pb : Nat) : Bool :=
  match c with
  | 0 => a = b | 1 => a ≠ b | 2 => a < b | 3 => a ≤ b | 4 => b < a | 5 => b ≤ a
  | 6 => pa &&& pb ≠ 0 | _ => pa &&& pb = 0
/-- `cmp` (04 R88). -/
def resCmp (w : StrandWord) (k : Caps) : Res := resBool (condHolds w.c.idx.toNat k.ia k.ib k.pa k.pb)
/-- `plog`: a bit of the truth table C (04 R88); A and B are the predicates' captured values. -/
def resPlog (w : StrandWord) (k : Caps) : Res := resBool (bit w.c.idx (2 * b2n (bit k.a 0) + b2n (bit k.b 0)))
/-- `pmov pD, sA` (04 R88). -/
def resPmovToPred (_ : StrandWord) (k : Caps) : Res := resBool (lo64 k.a ≠ 0)
/-- `pmov sD, pA` (04 R88). -/
def resPmovToScalar (_ : StrandWord) (k : Caps) : Res := resWord (if bit k.a 0 then 1 else 0)
/-- `clamp`: min(max(a, b), c), and c when b > c (04 R85). -/
def resClamp (_ : StrandWord) (k : Caps) : Res :=
  let m := if k.ia ≤ k.ib then k.ib else k.ia
  landInt k (if k.ic < k.ib then k.ic else if k.ic < m then k.ic else m)

end Sys2Proof.Machine
end

