-- ==== Sys2Proof/Machine/VectorArith.lean ====
section
/-! DEFINITION. What each vector and mask opcode computes from its captured operands (05 R110 to R123). -/

namespace Sys2Proof.Machine

/-- A lane's result with its flags. -/
abbrev LaneRes := Lane × FFlags

/-- Flags of the active lanes among lanes 0 to n-1 (05 R110). -/
def laneFlags (mask : Lane) (f : Nat → LaneRes) : Nat → FFlags
  | 0 => fNone
  | n + 1 => laneFlags mask f n ||| flagIf (bit mask n) (f n).2

/-- A vector result computed lane by lane under the mask (05 R110). -/
def vecRes (k : Caps) (f : Nat → LaneRes) : Res :=
  { val := mkVec fun L => (f L).1, lanes := k.mask, zero := bit k.x 7, fl := laneFlags k.mask f 32 }

/-- A vector result without flags. -/
def vecPure (k : Caps) (f : Nat → Lane) : Res := vecRes k fun L => (f L, fNone)

/-- A lane of a floating operation: one `f32`, or two `bf16` halves, low half first (05 R112). -/
def fpLane (fmt : Nat) (g : FFmt → Nat → Nat → Nat → FRes) (a b c : Lane) : LaneRes :=
  if fmt = 6 then
    let lo := g bf16 (a.toNat % 65536) (b.toNat % 65536) (c.toNat % 65536)
    let hi := g bf16 (a.toNat / 65536) (b.toNat / 65536) (c.toNat / 65536)
    (BitVec.ofNat 32 (lo.bits + hi.bits * 65536), lo.fl ||| hi.fl)
  else
    let r := g f32 a.toNat b.toNat c.toNat
    (BitVec.ofNat 32 r.bits, r.fl)

/-- A floating vector operation (05 R112). -/
def vecF (k : Caps) (g : FFmt → Nat → Nat → Nat → FRes) : Res :=
  vecRes k fun L => fpLane k.fmt g (lane k.a L) (lane k.b L) (lane k.c L)

/-- `vadd` (05 R115). -/
def resVadd (_ : StrandWord) (k : Caps) : Res := vecF k fun f a b _ => f.add k.rm k.sat false a b
/-- `vsub` (05 R115). -/
def resVsub (_ : StrandWord) (k : Caps) : Res := vecF k fun f a b _ => f.add k.rm k.sat true a b
/-- `vmul` (05 R115). -/
def resVmul (_ : StrandWord) (k : Caps) : Res := vecF k fun f a b _ => f.mul k.rm k.sat a b
/-- `vfma` (05 R115). -/
def resVfma (_ : StrandWord) (k : Caps) : Res := vecF k fun f a b c => f.fma k.rm k.sat false false a b c
/-- `vfms` (05 R115). -/
def resVfms (_ : StrandWord) (k : Caps) : Res := vecF k fun f a b c => f.fma k.rm k.sat false true a b c
/-- `vfnma` (05 R115). -/
def resVfnma (_ : StrandWord) (k : Caps) : Res := vecF k fun f a b c => f.fma k.rm k.sat true false a b c
/-- `vmin` (05 R115). -/
def resVmin (_ : StrandWord) (k : Caps) : Res := vecF k fun f a b _ => f.min k.sat a b
/-- `vmax` (05 R115). -/
def resVmax (_ : StrandWord) (k : Caps) : Res := vecF k fun f a b _ => f.max k.sat a b
/-- `vabs` (05 R115). -/
def resVabs (_ : StrandWord) (k : Caps) : Res := vecF k fun f a _ _ => f.abs k.sat a
/-- `vneg` (05 R115). -/
def resVneg (_ : StrandWord) (k : Caps) : Res := vecF k fun f a _ _ => f.negate k.sat a
/-- `vamax` (05 R115). -/
def resVamax (_ : StrandWord) (k : Caps) : Res := vecF k fun f a b _ => f.amax k.sat a b
/-- `vclamp` (05 R115). -/
def resVclamp (_ : StrandWord) (k : Caps) : Res := vecF k fun f a b c => f.clamp k.sat a b c
/-- `vrcp` (05 R116). -/
def resVrcp (_ : StrandWord) (k : Caps) : Res := vecF k fun f a _ _ => f.rcp k.rm k.sat a
/-- `vrsq` (05 R116). -/
def resVrsq (_ : StrandWord) (k : Caps) : Res := vecF k fun f a _ _ => f.rsq k.rm k.sat a
/-- `vsqrt` (05 R116). -/
def resVsqrt (_ : StrandWord) (k : Caps) : Res := vecF k fun f a _ _ => f.sqrt k.rm k.sat a
/-- `vexp2` (05 R116). -/
def resVexp2 (_ : StrandWord) (k : Caps) : Res := vecF k fun f a _ _ => f.exp2 k.rm k.sat a
/-- `vlog2` (05 R116). -/
def resVlog2 (_ : StrandWord) (k : Caps) : Res := vecF k fun f a _ _ => f.log2 k.rm k.sat a
/-- `vtanh` (05 R116). -/
def resVtanh (_ : StrandWord) (k : Caps) : Res := vecF k fun f a _ _ => f.tanh k.rm k.sat a
/-- `vsigm` (05 R116). -/
def resVsigm (_ : StrandWord) (k : Caps) : Res := vecF k fun f a _ _ => f.sigm k.rm k.sat a
/-- `verf` (05 R116). -/
def resVerf (_ : StrandWord) (k : Caps) : Res := vecF k fun f a _ _ => f.erf k.rm k.sat a
/-- `vsin2` (05 R116). -/
def resVsin2 (_ : StrandWord) (k : Caps) : Res := vecF k fun f a _ _ => f.sin2 k.rm k.sat a

/-- A floating condition with its flags (05 R117). -/
def fpCond (c : Nat) (a b : Nat) : Bool × FFlags :=
  let un := f32.isNan a || f32.isNan b
  let sn := flagIf (f32.isSnan a || f32.isSnan b) fNV
  let lt := f32.below a b && !f32.same a b
  let gt := f32.below b a && !f32.same a b
  match c with
  | 0 => (!un && f32.same a b, sn)
  | 1 => (un || !f32.same a b, sn)
  | 2 => (!un && lt, flagIf un fNV)
  | 3 => (!un && !gt, flagIf un fNV)
  | 4 => (!un && gt, flagIf un fNV)
  | 5 => (!un && !lt, flagIf un fNV)
  | 6 => (un, sn)
  | _ => (!un, sn)

/-- A lane read as `ext` reads it under a vector integer format, 0 being `i32` (05 R119). -/
def laneInt (fmt : Nat) (v : Lane) : Int :=
  let (sg, w) := if fmt = 0 then (true, 32) else intFmt fmt
  wrapInt sg w v.toNat

/-- A lane's w-bit pattern. -/
def lanePat (fmt : Nat) (v : Lane) : Nat := v.toNat % 2 ^ (if fmt = 0 then 32 else (intFmt fmt).2)

/-- `vcmp`: a mask, bit L from lane L (05 R117). -/
def resVcmp (w : StrandWord) (k : Caps) : Res :=
  let f : Nat → Bool × FFlags := fun L =>
    let a := lane k.a L
    let b := lane k.b L
    if 8 ≤ k.fmt then
      (condHolds w.c.idx.toNat (laneInt k.fmt a) (laneInt k.fmt b) (lanePat k.fmt a) (lanePat k.fmt b), fNone)
    else fpCond w.c.idx.toNat a.toNat b.toNat
  { val := (mkMask fun L => (f L).1).setWidth 1024, toMask := true, lanes := k.mask, zero := bit k.x 7,
    fl := laneFlags k.mask (fun L => (0, (f L).2)) 32 }

/-- `vsel`: operand C is the mask's captured value (05 R118). -/
def resVsel (_ : StrandWord) (k : Caps) : Res := vecPure k fun L => if bit k.c L then lane k.a L else lane k.b L
/-- `vand` (05 R118). -/
def resVand (_ : StrandWord) (k : Caps) : Res := vecPure k fun L => lane k.a L &&& lane k.b L
/-- `vor` (05 R118). -/
def resVor (_ : StrandWord) (k : Caps) : Res := vecPure k fun L => lane k.a L ||| lane k.b L
/-- `vxor` (05 R118). -/
def resVxor (_ : StrandWord) (k : Caps) : Res := vecPure k fun L => lane k.a L ^^^ lane k.b L
/-- `vbcast` (05 R118). -/
def resVbcast (_ : StrandWord) (k : Caps) : Res := vecPure k fun _ => lane k.a (fld (lo64 k.b) 0 5)
/-- `vext` (05 R118). -/
def resVext (_ : StrandWord) (k : Caps) : Res := resWord ((lane k.a (fld (lo64 k.b) 0 5)).setWidth 64)
/-- `vins` (05 R118). -/
def resVins (_ : StrandWord) (k : Caps) : Res :=
  vecPure k fun L => if L = fld (lo64 k.b) 0 5 then lane k.a 0 else lane k.d L
/-- `vmov` (05 R118). -/
def resVmov (_ : StrandWord) (k : Caps) : Res := vecPure k fun L => lane k.a L
/-- `vround` (05 R118). -/
def resVround (_ : StrandWord) (k : Caps) : Res := vecF k fun f a _ _ => f.toIntegral k.rm a
/-- `vclass` (05 R118). -/
def resVclass (_ : StrandWord) (k : Caps) : Res := vecPure k fun L => BitVec.ofNat 32 (f32.classify (lane k.a L).toNat)
/-- `vlane` (05 R118). -/
def resVlane (_ : StrandWord) (k : Caps) : Res := vecPure k fun L => lane k.a 0 + BitVec.ofNat 32 L

/-- A lane of an integer operation (05 R119): the exact r saturated or wrapped, then extended. -/
def intLane (k : Caps) (r : Int) : Lane :=
  let (sg, w) := if k.fmt = 0 then (true, 32) else intFmt k.fmt
  BitVec.ofInt 32 (wrapInt sg w (if k.sat then clampInt sg w r else r))

/-- An integer vector operation (05 R119). -/
def vecI (k : Caps) (g : Int → Int → Int → Int) : Res :=
  vecPure k fun L => intLane k (g (laneInt k.fmt (lane k.a L)) (laneInt k.fmt (lane k.b L)) (laneInt k.fmt (lane k.c L)))

/-- Shift count of a lane. -/
def laneSh (k : Caps) (L : Nat) : Nat := fld (lane k.b L) 0 6

/-- `vshl` (05 R119). -/
def resVshl (_ : StrandWord) (k : Caps) : Res :=
  vecPure k fun L => intLane k (laneInt k.fmt (lane k.a L) * 2 ^ laneSh k L)
/-- `vshr` (05 R119). -/
def resVshr (_ : StrandWord) (k : Caps) : Res :=
  vecPure k fun L => intLane k (lanePat k.fmt (lane k.a L) / 2 ^ laneSh k L : Nat)
/-- `vsra` (05 R119). -/
def resVsra (_ : StrandWord) (k : Caps) : Res :=
  vecPure k fun L =>
    intLane k (wrapInt true (if k.fmt = 0 then 32 else (intFmt k.fmt).2) (lane k.a L).toNat / (2 ^ laneSh k L : Int))
/-- `viadd` (05 R119). -/
def resViadd (_ : StrandWord) (k : Caps) : Res := vecI k fun a b _ => a + b
/-- `visub` (05 R119). -/
def resVisub (_ : StrandWord) (k : Caps) : Res := vecI k fun a b _ => a - b
/-- `vimul` (05 R119). -/
def resVimul (_ : StrandWord) (k : Caps) : Res := vecI k fun a b _ => a * b
/-- `vimad` (05 R119). -/
def resVimad (_ : StrandWord) (k : Caps) : Res := vecI k fun a b c => a * b + c
/-- `vimin` (05 R119). -/
def resVimin (_ : StrandWord) (k : Caps) : Res := vecI k fun a b _ => if a ≤ b then a else b
/-- `vimax` (05 R119). -/
def resVimax (_ : StrandWord) (k : Caps) : Res := vecI k fun a b _ => if a ≤ b then b else a

/-- Element j of width w of a lane, as an integer. -/
def elemInt (signed : Bool) (w : Nat) (v : Lane) (j : Nat) : Int := wrapInt signed w (v.toNat / 2 ^ (w * j))

/-- A 32-bit accumulator sum, saturated or wrapped (05 R120, R130). -/
def accLane (sat : Bool) (r : Int) : Lane := BitVec.ofInt 32 (if sat then clampInt true 32 r else r)

/-- `vdot4` (05 R120). -/
def resVdot4 (_ : StrandWord) (k : Caps) : Res :=
  let sg := k.fmt ≠ 9
  vecPure k fun L =>
    let a := lane k.a L
    let b := lane k.b L
    accLane k.sat ((lane k.c L).toInt + elemInt sg 8 a 0 * elemInt sg 8 b 0 + elemInt sg 8 a 1 * elemInt sg 8 b 1 +
      elemInt sg 8 a 2 * elemInt sg 8 b 2 + elemInt sg 8 a 3 * elemInt sg 8 b 3)

/-- `mop mD, mA, mB, #tt`: operands A and B are the masks' captured values (05 R121). -/
def resMopTable (w : StrandWord) (k : Caps) : Res :=
  { val := (mkMask fun L => bit w.c.idx (2 * b2n (bit k.a L) + b2n (bit k.b L))).setWidth 1024, toMask := true }
/-- `mop mD, sA` (05 R121). -/
def resMopMove (_ : StrandWord) (k : Caps) : Res := { val := (lane k.a 0).setWidth 1024, toMask := true }
/-- `mpop` (05 R121): operand A is the mask's captured value. -/
def resMpop (_ : StrandWord) (k : Caps) : Res :=
  resWord (if bit k.x 0 then (lane k.a 0).setWidth 64 else BitVec.ofNat 64 (countOnes (lane k.a 0) 32))

/-! ### Reductions and scans (05 R122) -/

/-- One step's operation on two present values; `SAT` acts at each step (05 R122; log 3). -/
def redOp (k : Caps) (c : Nat) (f : Option FFmt) (x y : Nat) : FRes :=
  match f with
  | some f =>
    match c with
    | 0 => f.add k.rm k.sat false x y
    | 1 => f.min k.sat x y
    | 2 => f.max k.sat x y
    | _ => f.amax k.sat x y
  | none =>
    let a := laneInt k.fmt (BitVec.ofNat 32 x)
    let b := laneInt k.fmt (BitVec.ofNat 32 y)
    let r := match c with
      | 0 => a + b
      | 1 => if a ≤ b then a else b
      | _ => if a ≤ b then b else a
    { bits := (intLane k r).toNat, fl := fNone }

/-- The first s entries of the tree combined with the next s; flags gathered. -/
def treeStep (op : Nat → Nat → FRes) : Nat → List (Option Nat) → List (Option Nat) → List (Option Nat) × FFlags
  | 0, _, _ => ([], fNone)
  | n + 1, t, u =>
    let (rest, fl) := treeStep op n t.tail u.tail
    match t.headD none, u.headD none with
    | some x, some y => (some (op x y).bits :: rest, (op x y).fl ||| fl)
    | some x, none => (some x :: rest, fl)
    | none, y => (y :: rest, fl)

/-- The fixed tree over 32 entries: steps of 16, 8, 4, 2 and 1 (05 R122). -/
def treeRun (op : Nat → Nat → FRes) : List Nat → List (Option Nat) → FFlags → Option Nat × FFlags
  | [], t, fl => (t.headD none, fl)
  | s :: ss, t, fl =>
    let (t', fl') := treeStep op s t (t.drop s)
    treeRun op ss t' (fl ||| fl')

/-- What lands of a tree's value: `SAT` makes an infinity that no step has met finite too (05 R114). -/
def treeSat (k : Caps) (f : Option FFmt) (x : Nat) : Nat :=
  match f with
  | some f => if f.isNan x then x else (f.pick k.sat x).bits
  | none => x

/-- The tree over the lanes that are active and at most `upto`, of one element picked from each lane. -/
def reduceTree (k : Caps) (c : Nat) (f : Option FFmt) (pick : Lane → Nat) (upto : Nat) : Option Nat × FFlags :=
  let elem : Nat → Nat := fun L =>
    let v := pick (lane k.a L)
    match f with
    | some f => if c = 3 ∧ f.isNan v = false then f.mag v else v
    | none => v
  let (r, fl) := treeRun (redOp k c f) [16, 8, 4, 2, 1]
    ((List.range 32).map fun L => if bit k.mask L && decide (L ≤ upto) then some (elem L) else none) fNone
  (r.map (treeSat k f), fl)

/-- What a reduction of no lane gives (05 R122). -/
def redIdentity (k : Caps) (c : Nat) (f : Option FFmt) : Nat :=
  match f with
  | some f => if c = 1 then f.infBits false else if c = 2 then f.infBits true else 0
  | none =>
    let sg := (intFmt (if k.fmt = 0 then 12 else k.fmt)).1
    if c = 1 then (clampInt sg 32 (2 ^ 40)).toNat
    else if c = 2 then (BitVec.ofInt 32 (clampInt sg 32 (-(2 ^ 40)))).toNat else 0

/-- The reduced lane over lanes at most `upto`: one value, or two halves reduced each on its own. Format code 0 is `f32`
(log 3). -/
def reduceLane (k : Caps) (c : Nat) (upto : Nat) : LaneRes :=
  if k.fmt = 6 then
    let (lo, f1) := reduceTree k c (some bf16) (fun v => v.toNat % 65536) upto
    let (hi, f2) := reduceTree k c (some bf16) (fun v => v.toNat / 65536) upto
    let d := redIdentity k c (some bf16)
    (BitVec.ofNat 32 (lo.getD d + hi.getD d * 65536), f1 ||| f2)
  else
    let f := if k.fmt = 12 ∨ k.fmt = 13 then none else some f32
    let (r, fl) := reduceTree k c f (fun v => v.toNat) upto
    (BitVec.ofNat 32 (r.getD (redIdentity k c f)), fl)

/-- `vred`: the tree's value in all 32 lanes (05 R122). -/
def resVred (w : StrandWord) (k : Caps) : Res :=
  let (v, fl) := reduceLane k w.c.idx.toNat 31
  { val := splat v, fl }

/-- `vscan`: in lane j the tree's value over lanes up to j (05 R122). -/
def resVscan (w : StrandWord) (k : Caps) : Res := vecRes k fun j => reduceLane k w.c.idx.toNat j

/-- `vperm` (05 R123). -/
def resVperm (_ : StrandWord) (k : Caps) : Res := vecPure k fun L => lane k.a (fld (lane k.b L) 0 5)

/-- `vshuf` (05 R123). -/
def resVshuf (w : StrandWord) (k : Caps) : Res :=
  vecPure k fun L =>
    match w.c.idx.toNat with
    | 0 => if L % 2 = 0 then lane k.a (L / 2) else lane k.b (L / 2)
    | 1 => if L % 2 = 0 then lane k.a (16 + L / 2) else lane k.b (16 + L / 2)
    | 2 => if L < 16 then lane k.a (2 * L) else lane k.b (2 * (L - 16))
    | 3 => if L < 16 then lane k.a (2 * L + 1) else lane k.b (2 * (L - 16) + 1)
    | 4 => if L < 16 then lane k.a L else lane k.b (L - 16)
    | _ => if L < 16 then lane k.a (16 + L) else lane k.b L

end Sys2Proof.Machine
end

