-- ==== Sys2Proof/Machine/ConvertArith.lean ====
section
/-!
DEFINITION. What each conversion opcode computes from its captured operands, and the same conversions for the copy
engines and the drill (05 R106 to R108, R124 to R130).
-/

namespace Sys2Proof.Machine

/-- The element width in bits of a scalar format code (02 R49). -/
def elemBits (c : Nat) : Nat :=
  match c with
  | 1 => 32 | 2 => 16 | 3 => 16 | 4 => 8 | 5 => 8 | 6 => 32 | 8 => 8 | 9 => 8 | 10 => 16 | 11 => 16 | 12 => 32
  | 13 => 32 | 14 => 64 | 15 => 64 | 16 => 4 | 17 => 4 | 18 => 4 | 19 => 4 | 20 => 8 | _ => 0

/-- Whether a format code is assigned (02 R49); 0x3F reads the format table. -/
def fmtAssigned (c : Nat) : Bool := (decide (1 ≤ c) && decide (c ≤ 6)) || (decide (8 ≤ c) && decide (c ≤ 20))

/-- Whether a code is one `vcvt` converts: 0x01 to 0x05 or 0x08 to 0x0D (05 R124). -/
def cvtFmt (c : Nat) : Bool := (decide (1 ≤ c) && decide (c ≤ 5)) || (decide (8 ≤ c) && decide (c ≤ 13))

/-- Convert one element's pattern between scalar formats (05 R124, R125). The result is the element's pattern, an
integer extended to 32 bits as a lane holds it. -/
def convertElem (src dst mode : Nat) (sat : Bool) (v : Nat) : FRes :=
  let sv := v % 2 ^ elemBits src
  match fmtOfCode src, fmtOfCode dst with
  | some f, some g => cvtFF f g mode sat sv
  | some f, none =>
    let (sg, w) := intFmt dst
    let (r, fl) := cvtFI f sg w mode sv
    { bits := (BitVec.ofInt 32 r).toNat, fl }
  | none, some g =>
    let (sg, w) := intFmt src
    cvtIF g mode sat (wrapInt sg w sv)
  | none, none =>
    let (sg, w) := intFmt src
    let (dg, dw) := intFmt dst
    let r := wrapInt sg w sv
    { bits := (BitVec.ofInt 32 (wrapInt dg dw (if sat then clampInt dg dw r else r))).toNat, fl := fNone }

/-- `vcvt`: operand C is the resolved source code (05 R124). -/
def resVcvt (_ : StrandWord) (k : Caps) : Res :=
  vecRes k fun L =>
    let r := convertElem (fld (lo64 k.c) 0 8) k.fmt k.rm k.sat (lane k.a L).toNat
    (BitVec.ofNat 32 r.bits, r.fl)

/-- `vpack` (05 R126). -/
def resVpack (_ : StrandWord) (k : Caps) : Res :=
  let w := elemBits k.fmt
  let elem : Nat → Nat := fun i => (if i < 32 then lane k.a i else lane k.b (i - 32)).toNat % 2 ^ w
  vecPure k fun L =>
    if w = 16 then BitVec.ofNat 32 (elem (2 * L) + elem (2 * L + 1) * 2 ^ 16)
    else if L < 16 then
      BitVec.ofNat 32 (elem (4 * L) + elem (4 * L + 1) * 2 ^ 8 + elem (4 * L + 2) * 2 ^ 16 + elem (4 * L + 3) * 2 ^ 24)
    else 0

/-- `vunpk` (05 R126). -/
def resVunpk (w : StrandWord) (k : Caps) : Res :=
  let n := elemBits k.fmt
  let signed := k.fmt = 8 ∨ k.fmt = 10
  vecPure k fun L =>
    let i := 32 * w.c.idx.toNat + L
    let v := k.a.toNat / 2 ^ (n * i) % 2 ^ n
    BitVec.ofInt 32 (wrapInt signed n v)

/-- `vscal` (05 R127): B is read as an integer. -/
def resVscal (_ : StrandWord) (k : Caps) : Res :=
  vecRes k fun L => fpLane k.fmt (fun f a _ _ => f.scaleBy k.rm k.sat a (lane k.b L).toInt) (lane k.a L) 0 0

/-! ### Block-scaled formats -/

/-- The reciprocal of a 4-bit type's unit: its code values are the amplitudes divided by this (05 R107, R130). -/
def unitInv (t : Nat) : Nat := match t with | 1 => 2 | 2 => 8 | _ => 1

/-- The amplitude of a magnitude index 0 to 7 of a 4-bit type (05 R107, R130). -/
def magAmp (t k : Nat) : Nat :=
  match t with
  | 1 => [0, 1, 2, 3, 4, 6, 8, 12].getD k 0
  | 2 => if k = 0 then 0 else 2 ^ (k - 1)
  | 3 => [0, 1, 2, 3, 4, 5, 8, 16].getD k 0
  | _ => k

/-- The integer amplitude of a 4-bit code of a type (05 R107, R130); -0 gives 0. -/
def amp4 (t code : Nat) : Int :=
  if t = 0 then wrapInt true 4 code
  else if code / 8 % 2 = 1 then -(magAmp t (code % 8) : Int) else magAmp t (code % 8)

/-- The integer amplitude of a `b8` code. -/
def amp8 (code : Nat) : Int := wrapInt true 8 code

/-- `T`, `E` and `M` of a scale word (05 R106). -/
def scaleT (sw : Nat) : Nat := sw / 2 ^ 14 % 4
/-- Exponent of a scale word. -/
def scaleE (sw : Nat) : Nat := sw / 2 ^ 6 % 256
/-- Mantissa of a scale word. -/
def scaleM (sw : Nat) : Nat := sw % 64

/-- The exact scale of a scale word with E from 1 to 254 (05 R106). -/
def scaleVal (sw : Nat) : Dyad := { n := 64 + scaleM sw, e := (scaleE sw : Int) - 133 }

/-- Dequantise one element to `f32` (05 R106, R108, R129). A `b8` scale word whose `T` is not 0 gives the NaN with `NV`
whatever its `E` (log 3). -/
def dequantElem (isB8 : Bool) (sw code mode : Nat) (sat : Bool) : FRes :=
  let t := scaleT sw
  if isB8 && t ≠ 0 then { bits := f32.qnan, fl := fNV }
  else if scaleE sw = 255 then { bits := f32.qnan, fl := fNone }
  else
    let signed := !isB8 && t ≠ 0
    let negCode := signed && code / 8 % 2 = 1
    if scaleE sw = 0 then { bits := f32.signBits negCode, fl := fNone }
    else
      let u := if isB8 then amp8 code else amp4 t code
      let unitE : Int := if isB8 then 0 else if t = 1 then -1 else if t = 2 then -3 else 0
      f32.roundDyad mode sat ((scaleVal sw).mul { n := u, e := unitE }) negCode

/-- Code value of element e of a block held in a vector (05 R107, R128). -/
def blockCode (isB8 : Bool) (v : Vec) (e : Nat) : Nat :=
  if isB8 then v.toNat / 2 ^ (8 * e) % 256 else v.toNat / 2 ^ (4 * e) % 16

/-- The scale word of a block held in a vector: lane 12, or lane 24 for `b8` (05 R128). -/
def blockScale (isB8 : Bool) (v : Vec) : Nat := (lane v (if isB8 then 24 else 12)).toNat % 65536

/-- Flags of the first n results. -/
def gatherFlags (f : Nat → FRes) : Nat → FFlags
  | 0 => fNone
  | n + 1 => gatherFlags f n ||| (f n).fl

/-- `vdqnt`: three registers (05 R129). -/
def resVdqnt (_ : StrandWord) (k : Caps) : Res :=
  let b8 := k.fmt = 20
  let f : Nat → FRes := fun e => dequantElem b8 (blockScale b8 k.a) (blockCode b8 k.a e) k.rm k.sat
  { val := mkVec fun L => BitVec.ofNat 32 (f L).bits
    v1 := mkVec fun L => BitVec.ofNat 32 (f (32 + L)).bits
    v2 := mkVec fun L => BitVec.ofNat 32 (f (64 + L)).bits
    three := true
    fl := gatherFlags f 96 }

/-- Q of a block format code 0x10 to 0x14 (05 R128). -/
def quantQ (fmt : Nat) : Nat := match fmt with | 16 => 7 | 17 => 6 | 18 => 8 | 19 => 16 | _ => 127

/-- Ceiling division. -/
def ceilDiv (a b : Nat) : Nat := (a + b - 1) / b

/-- The least E from `e` on, with fuel, for which the mantissa fits: ceil(num / (den * 2^E)) at most 127. -/
def leastE (num den : Nat) : Nat → Nat → Nat
  | 0, e => e
  | fuel + 1, e => if ceilDiv num (den * 2 ^ e) ≤ 127 then e else leastE num den fuel (e + 1)

/-- The least scale at or above amax / Q, as E and M (05 R128). The magnitude is m * 2^ex. -/
def leastScale (m : Nat) (ex : Int) (q : Nat) : Nat × Nat :=
  -- (64 + M) * 2^(E - 133) * Q >= m * 2^ex, both sides times 2^160
  let num := m * 2 ^ (ex + 160).toNat
  let den := q * 2 ^ 27
  let e := leastE num den 254 1
  let k := ceilDiv num (den * 2 ^ e)
  (e, if k ≤ 64 then 0 else k - 64)

/-- The finite magnitude and sign of an `f32` element, an infinity taken as the greatest finite value (05 R128). -/
def quantIn (b : Nat) : Bool × Nat × Int :=
  match f32.decode b with
  | .fin neg m e => (neg, m, e)
  | .inf neg => (neg, 2 ^ 24 - 1, 104)
  | .nan _ => (false, 0, 0)

/-- The magnitude index nearest |x| / s, ties to the even code, among indices 0 to n (05 R128). `x` is m * 2^ex; the
candidate of index i is amp i * s / unit. -/
def nearestIdx (x : Dyad) (cand : Nat → Dyad) : Nat → Nat
  | 0 => 0
  | n + 1 =>
    let best := nearestIdx x cand n
    let dist : Nat → Dyad := fun i =>
      let d := x.add { (cand i) with n := -(cand i).n }
      { d with n := d.n.natAbs }
    let a := dist (n + 1)
    let b := dist best
    if a.lt b || (!b.lt a && (n + 1) % 2 = 0) then n + 1 else best

/-- A quantised block: 96 codes, the scale word and the flags (05 R128). The element type is the format's. -/
structure QBlock where
  codes : List Nat
  scale : Nat
  fl : FFlags
  deriving DecidableEq, Repr

/-- The greatest of a list of magnitudes m * 2^e. -/
def maxMagOf : List (Bool × Nat × Int) → Dyad
  | [] => { n := 0, e := 0 }
  | (_, m, e) :: rest =>
    let r := maxMagOf rest
    if r.lt { n := m, e } then { n := m, e } else r

/-- Quantise one element under a scale: its code and whether it is exact. `b8` magnitudes are searched near |x| / s. -/
def quantElem (fmt : Nat) (sw : Nat) (x : Bool × Nat × Int) : Nat × Bool :=
  let (neg, m, e) := x
  let t := fmt - 16
  let s := scaleVal sw
  let xd : Dyad := { n := m, e }
  if fmt = 20 then
    -- floor of |x| / s, then the nearer of it and the next, ties to the even code
    let num := m * 2 ^ (e + 160).toNat
    let den := (s.n.natAbs) * 2 ^ (s.e + 160).toNat
    let fl := num / den
    let r := num % den
    let q := if 2 * r < den then fl else if den < 2 * r then fl + 1 else if fl % 2 = 0 then fl else fl + 1
    (if neg then (256 - q) % 256 else q, r = 0)
  else
    let unitE : Int := if t = 1 then -1 else if t = 2 then -3 else 0
    let cand : Nat → Dyad := fun i => s.mul { n := magAmp t i, e := unitE }
    let i := nearestIdx xd cand 7
    let d := xd.add { (cand i) with n := -(cand i).n }
    (if t = 0 then (if neg then (16 - i) % 16 else i) else i + 8 * b2n neg, d.n = 0)

/-- Quantise 96 finite values, each a sign and a magnitude m * 2^e, into one block: `bad` says that one of them was no
number (or an infinity without `SAT`), `infs` that an infinity was taken as the greatest finite value (05 R128). -/
def quantVals (fmt : Nat) (bad infs : Bool) (vs : List (Bool × Nat × Int)) : QBlock :=
  let t := if fmt = 20 then 0 else fmt - 16
  if bad then { codes := vs.map fun _ => 0, scale := t * 2 ^ 14 + 255 * 2 ^ 6, fl := fNV }
  else
    let am := maxMagOf vs
    if am.n = 0 then
      { codes := vs.map fun (neg, _, _) => if (t = 0) then 0 else 8 * b2n neg, scale := t * 2 ^ 14, fl := fNone }
    else
      let (e, mm) := leastScale am.n.natAbs am.e (quantQ fmt)
      let sw := t * 2 ^ 14 + e * 2 ^ 6 + mm
      let qs := vs.map (quantElem fmt sw)
      { codes := qs.map Prod.fst, scale := sw, fl := flagIf (infs || qs.any fun q => !q.2) fNX }

/-- Quantise 96 `f32` patterns into one block (05 R128). -/
def quantBlock (fmt : Nat) (sat : Bool) (xs : List Nat) : QBlock :=
  let infs := xs.any fun b => f32.mag b = f32.expMax * 2 ^ f32.frac
  quantVals fmt (xs.any f32.isNan || (!sat && infs)) infs (xs.map quantIn)

/-- A list of codes of w bits packed from bit 0. -/
def packCodes (w : Nat) : List Nat → Nat
  | [] => 0
  | c :: cs => c % 2 ^ w + 2 ^ w * packCodes w cs

/-- `vqnt`: operands A, B and C are the three captured registers (05 R128). -/
def resVqnt (_ : StrandWord) (k : Caps) : Res :=
  let xs := ((List.range 32).map fun L => (lane k.a L).toNat) ++ ((List.range 32).map fun L => (lane k.b L).toNat) ++
    ((List.range 32).map fun L => (lane k.c L).toNat)
  let q := quantBlock k.fmt k.sat xs
  let w := if k.fmt = 20 then 8 else 4
  { val := BitVec.ofNat 1024 (packCodes w q.codes + q.scale * 2 ^ (w * 96)), fl := q.fl }

/-- The integer amplitude of a code of an activation or weight format (05 R130). -/
def ampOf (isB8 : Bool) (t code : Nat) : Int := if isB8 then amp8 code else amp4 t code

/-- The sum of products of the first n codes of two lanes (05 R130). -/
def latSum (isB8 : Bool) (ta tw : Nat) (a b : Lane) : Nat → Int
  | 0 => 0
  | n + 1 =>
    let w := if isB8 then 8 else 4
    latSum isB8 ta tw a b n +
      ampOf isB8 ta (a.toNat / 2 ^ (w * n) % 2 ^ w) * ampOf isB8 tw (b.toNat / 2 ^ (w * n) % 2 ^ w)

/-- `vlat` (05 R130). -/
def resVlat (_ : StrandWord) (k : Caps) : Res :=
  let b8 := k.fmt = 20
  { val := mkVec fun L =>
      accLane k.sat ((lane k.c L).toInt +
        latSum b8 (k.fmt - 16) (fld k.x 6 2) (lane k.a L) (lane k.b L) (if b8 then 4 else 8)) }

end Sys2Proof.Machine
end

