-- ==== Sys2Proof/Machine/Forms.lean ====
section
/-!
DEFINITION. The form of each arithmetic and conversion instruction: destination kinds, source kinds and extension
field (04 R82, R83, R85, R88; 05 R109 to R130).
-/

namespace Sys2Proof.Machine.Forms

/-- Integer format codes of the scalar opcodes (04 R82). -/
def intCode (c : Nat) : Bool := c = 0 || (decide (8 ≤ c) && decide (c ≤ 15))

/-- A scalar opcode (04 R82, R85). -/
def scalar (d : DForm) (a b c : SForm) (sat : Bool) (acc : Nat → Bool := intCode) : Form :=
  { strands := onHAE, dst := [d], a, b, c, lay := .int, accept := acc, satOk := sat, x := anyX, xdef := 7#16 }

/-- Codes 0, 0x0E and 0x0F (04 R85). -/
def code64 (c : Nat) : Bool := c = 0 || c = 14 || c = 15


/-- `add` (04 R85). -/
def add : Form := scalar .scal .s .s .none true

/-- `sub` (04 R85). -/
def sub : Form := scalar .scal .s .s .none true

/-- `mul` (04 R85). -/
def mul : Form := scalar .scal .s .s .none true

/-- `mulh` (04 R85). -/
def mulh : Form := scalar .scal .s .s .none false

/-- `div` (04 R85). -/
def div : Form := scalar .scal .s .s .none false

/-- `rem` (04 R85). -/
def rem : Form := scalar .scal .s .s .none false

/-- `and` (04 R85). -/
def and : Form := scalar .scal .s .s .none false

/-- `or` (04 R85). -/
def or : Form := scalar .scal .s .s .none false

/-- `xor` (04 R85). -/
def xor : Form := scalar .scal .s .s .none false

/-- `andn` (04 R85). -/
def andn : Form := scalar .scal .s .s .none false

/-- `orn` (04 R85). -/
def orn : Form := scalar .scal .s .s .none false

/-- `shl` (04 R85). -/
def shl : Form := scalar .scal .s .s .none true

/-- `shr` (04 R85). -/
def shr : Form := scalar .scal .s .s .none false

/-- `sra` (04 R85). -/
def sra : Form := scalar .scal .s .s .none false

/-- `rot` (04 R85). -/
def rot : Form := scalar .scal .s .s .none false

/-- `clz` (04 R85). -/
def clz : Form := scalar .scal .s .none .none false

/-- `ctz` (04 R85). -/
def ctz : Form := scalar .scal .s .none .none false

/-- `popc` (04 R85). -/
def popc : Form := scalar .scal .s .none .none false

/-- `bswap` (04 R85). -/
def bswap : Form := scalar .scal .s .none .none false

/-- `min` (04 R85). -/
def min : Form := scalar .scal .s .s .none false

/-- `max` (04 R85). -/
def max : Form := scalar .scal .s .s .none false

/-- `abs` (04 R85). -/
def abs : Form := scalar .scal .s .none .none true

/-- `sel` (04 R85). -/
def sel : Form := scalar .scal .s .s .selPred false

/-- `mov` (04 R85). -/
def mov : Form := scalar .scal .s .none .none false

/-- `movk` (04 R85). -/
def movk : Form := scalar .sreg .immX .none (.sel 3) false code64

/-- `ext` (04 R85). -/
def ext : Form := scalar .scal .s .s .s false code64

/-- `dep` (04 R85). -/
def dep : Form := scalar .sreg .s .s .s false code64

/-- `addx` (04 R85). -/
def addx : Form := scalar .scal .s .s .s true

/-- `cmp` (04 R85). -/
def cmp : Form := scalar .pred .s .s (.sel 7) false

/-- `plog` (04 R85). -/
def plog : Form := scalar .pred .selPred .selPred (.sel 15) false

/-- `pmov pD, sA` (04 R88). -/
def pmovToPred : Form := scalar .pred .s .none .none false

/-- `pmov sD, pA` (04 R88). -/
def pmovToScalar : Form := scalar .scal .selPred .none .none false

/-- `clamp` (04 R85). -/
def clamp : Form := scalar .scal .s .s .s false

/-- `f32` (the default) and `bf16x2` (05 R112). -/
def fpCode (c : Nat) : Bool := c = 0 || c = 1 || c = 6

/-- The default `i32` and codes 0x08 to 0x0D (05 R119). -/
def viCode (c : Nat) : Bool := c = 0 || (decide (8 ≤ c) && decide (c ≤ 13))

/-- Codes 0x10 to 0x14 (05 R128). -/
def blockCode (c : Nat) : Bool := decide (16 ≤ c) && decide (c ≤ 20)

/-- A vector opcode (05 R109). -/
def vector (d : DForm) (a b c : SForm) (acc : Nat → Bool) (sat : Bool) (x : Nat → BitVec 16 → Bool := anyX) : Form :=
  { strands := onE, dst := [d], a, b, c, lay := .vec, accept := acc, satOk := sat, x, xdef := 7#16 }

/-- `FMT` 0x00 and `RM` 7 (05 R118). -/
def rawX (_ : Nat) (x : BitVec 16) : Bool := fld x 8 8 = 0 && fld x 0 3 = 7

/-- `FMT` 0x00 (05 R123). -/
def fmt0X (_ : Nat) (x : BitVec 16) : Bool := fld x 8 8 = 0

/-- No mask and no zeroing. -/
def noMask (_ : Nat) (x : BitVec 16) : Bool := fld x 4 4 = 0

/-- No zeroing. -/
def noZero (_ : Nat) (x : BitVec 16) : Bool := !bit x 7

/-- Only code 0. -/
def code0 (c : Nat) : Bool := c = 0

/-- `.amax` is floating only (05 R122). -/
def redOk (w : StrandWord) : Bool := !(w.c.idx = 3#6 && xCount w = 0 && (fld w.x 8 8 = 12 || fld w.x 8 8 = 13))

/-- `vadd` (05). -/
def vadd : Form := vector .vec .vf .vf .none fpCode true

/-- `vsub` (05). -/
def vsub : Form := vector .vec .vf .vf .none fpCode true

/-- `vmul` (05). -/
def vmul : Form := vector .vec .vf .vf .none fpCode true

/-- `vfma` (05). -/
def vfma : Form := vector .vec .vf .vf .vf fpCode true

/-- `vfms` (05). -/
def vfms : Form := vector .vec .vf .vf .vf fpCode true

/-- `vfnma` (05). -/
def vfnma : Form := vector .vec .vf .vf .vf fpCode true

/-- `vmin` (05). -/
def vmin : Form := vector .vec .vf .vf .none fpCode true

/-- `vmax` (05). -/
def vmax : Form := vector .vec .vf .vf .none fpCode true

/-- `vabs` (05). -/
def vabs : Form := vector .vec .vf .none .none fpCode true

/-- `vneg` (05). -/
def vneg : Form := vector .vec .vf .none .none fpCode true

/-- `vamax` (05). -/
def vamax : Form := vector .vec .vf .vf .none fpCode true

/-- `vrcp` (05). -/
def vrcp : Form := vector .vec .vf .none .none fpCode true

/-- `vrsq` (05). -/
def vrsq : Form := vector .vec .vf .none .none fpCode true

/-- `vsqrt` (05). -/
def vsqrt : Form := vector .vec .vf .none .none fpCode true

/-- `vexp2` (05). -/
def vexp2 : Form := vector .vec .vf .none .none fpCode true

/-- `vlog2` (05). -/
def vlog2 : Form := vector .vec .vf .none .none fpCode true

/-- `vtanh` (05). -/
def vtanh : Form := vector .vec .vf .none .none fpCode true

/-- `vsigm` (05). -/
def vsigm : Form := vector .vec .vf .none .none fpCode true

/-- `verf` (05). -/
def verf : Form := vector .vec .vf .none .none fpCode true

/-- `vsin2` (05). -/
def vsin2 : Form := vector .vec .vf .none .none fpCode true

/-- `vcmp` (05). -/
def vcmp : Form := vector .mask .vf .vf (.sel 7) (fun c => c = 1 || viCode c) false

/-- `vsel` (05). -/
def vsel : Form := vector .vec .v .v .selMask code0 false rawX

/-- `vand` (05). -/
def vand : Form := vector .vec .v .v .none code0 false rawX

/-- `vor` (05). -/
def vor : Form := vector .vec .v .v .none code0 false rawX

/-- `vxor` (05). -/
def vxor : Form := vector .vec .v .v .none code0 false rawX

/-- `vshl` (05). -/
def vshl : Form := vector .vec .v .v .none viCode true

/-- `vshr` (05). -/
def vshr : Form := vector .vec .v .v .none viCode false

/-- `vsra` (05). -/
def vsra : Form := vector .vec .v .v .none viCode false

/-- `viadd` (05). -/
def viadd : Form := vector .vec .v .v .none viCode true

/-- `visub` (05). -/
def visub : Form := vector .vec .v .v .none viCode true

/-- `vimul` (05). -/
def vimul : Form := vector .vec .v .v .none viCode true

/-- `vimad` (05). -/
def vimad : Form := vector .vec .v .v .v viCode true

/-- `vimin` (05). -/
def vimin : Form := vector .vec .v .v .none viCode false

/-- `vimax` (05). -/
def vimax : Form := vector .vec .v .v .none viCode false

/-- `vdot4` (05). -/
def vdot4 : Form := vector .vec .v .v .v (fun c => c = 0 || c = 8 || c = 9) true

/-- `vred` (05 R122): code 0 is `f32` (log 3). -/
def vred : Form := { vector .vec .vf .none (.sel 3) (fun c => fpCode c || c = 12 || c = 13) true noZero with w := redOk }

/-- `vscan` (05 R122): code 0 is `f32` (log 3). -/
def vscan : Form := { vector .vec .vf .none (.sel 3) (fun c => fpCode c || c = 12 || c = 13) true with w := redOk }

/-- `vperm` (05). -/
def vperm : Form := vector .vec .v .v .none code0 false fmt0X

/-- `vshuf` (05). -/
def vshuf : Form := vector .vec .v .v (.sel 5) code0 false fmt0X

/-- `vbcast` (05). -/
def vbcast : Form := vector .vec .v .s .none code0 false rawX

/-- `vext` (05). -/
def vext : Form := vector .scal .v .s .none code0 false (fun n x => rawX n x && noMask n x)

/-- `vins` (05). -/
def vins : Form := vector (.vreg 31) .s .s .none code0 false rawX

/-- `vmov` (05). -/
def vmov : Form := vector .vec .v .none .none code0 false rawX

/-- `vround` (05). -/
def vround : Form := vector .vec .vf .none .none fpCode false

/-- `vclass` (05). -/
def vclass : Form := vector .vec .vf .none .none (fun c => c = 0 || c = 1) false (fun _ x => fld x 0 3 = 7)

/-- `vlane` (05). -/
def vlane : Form := vector .vec .s .none .none code0 false rawX

/-- `mop mD, mA, mB, #tt` (05 R121). -/
def mopTable : Form := { strands := onE, dst := [.mask], a := .selMask, b := .selMask, c := .sel 15 }

/-- `mop mD, sA`: `X` is zero even where A names it (05 R121). -/
def mopMove : Form := { strands := onE, dst := [.mask], a := .s, w := fun w => w.x = 0 }

/-- `mpop` (05 R121). -/
def mpop : Form := { strands := onE, dst := [.scal], a := .selMask, x := fun _ x => fld x 1 15 = 0 }

/-- `vclamp` (05). -/
def vclamp : Form := vector .vec .vf .vf .vf fpCode true

/-- `vcvt`: the source code is selector C; 63 reads the format table (05 R124). -/
def vcvt : Form :=
  { vector .vec .vf .none (.sel 63) cvtFmt true with
    w := fun w => cvtFmt w.c.idx.toNat || w.c.idx = 63#6 }

/-- 8- and 16-bit codes (05 R126). -/
def packCode (c : Nat) : Bool := elemBits c = 8 && c ≠ 20 || elemBits c = 16

/-- `vpack` (05 R126). -/
def vpack : Form := vector .vec .v .v .none packCode false

/-- `vunpk`: 0 or 1 for 16-bit elements (05 R126). -/
def vunpk : Form :=
  { vector .vec .v .none (.sel 3) packCode false with
    w := fun w => fld w.x 8 8 = 63 || decide (w.c.idx.toNat < 32 / elemBits (fld w.x 8 8)) }

/-- `vqnt` (05 R128). -/
def vqnt : Form := vector .vec (.vreg 29) .none .none blockCode true (fun n x => noMask n x && fld x 0 3 = 7)

/-- `vdqnt` (05 R129). -/
def vdqnt : Form := vector (.vreg 29) .v .none .none blockCode true noMask

/-- `vscal` (05 R127). -/
def vscal : Form := vector .vec .vf .v .none fpCode true

/-- `vlat` (05 R130). -/
def vlat : Form :=
  { strands := onE, dst := [.vec], a := .v, b := .v, c := .v, lay := .lat, accept := blockCode,
    x := fun _ x => fld x 4 2 = 0 && !(fld x 8 8 = 20 && fld x 6 2 ≠ 0), xdef := 7#16 }


end Sys2Proof.Machine.Forms
end

