-- ==== Sys2Proof/Decode.lean ====
section
/-!
DEFINITION. The decoder, total on any words, and the encoder (02 R34, R52, R54; 03 R63 to R79; 08; 09 R221; 11 R273,
R282, R287, R296; 12 R298, R301; 13 R348). A word whose opcode is allocated always decodes; a field value that the
instruction's entry forbids is met at issue (02 R39 step 2). Events and register writes have no encoding in the spec:
their record is the model's own (log 5).
-/

namespace Sys2Proof

open Machine

/-- Why words name no instruction. Raised by the decoder; the step turns an unallocated opcode into the fault the
spec names (03 R64, R79; 09 R230), so it is safe. -/
inductive DecodeError where
  | unallocated (op : Nat)      -- a strand opcode or engine opcode the maps leave unallocated (03 R64, R79)
  | reservedKind (kind : Nat)   -- a packet kind or stream operation that is reserved (09 R221; 12 R298, R302)
  | unknownRecord               -- words that are no event record (log 5)
  deriving DecidableEq, Repr

/-- Destination kind of its two bits (02 R34). -/
def DKind.ofBits (v : BitVec 2) : DKind :=
  if v = 0#2 then .vec else if v = 1#2 then .scal else if v = 2#2 then .pred else .none

/-- The two bits of a destination kind (02 R34). -/
def DKind.toBits : DKind → BitVec 2
  | .vec => 0#2 | .scal => 1#2 | .pred => 2#2 | .none => 3#2

/-- Source kind of its two bits (02 R35). -/
def SKind.ofBits (v : BitVec 2) : SKind :=
  if v = 0#2 then .vec else if v = 1#2 then .scal else if v = 2#2 then .cb else .lit

/-- The two bits of a source kind (02 R35). -/
def SKind.toBits : SKind → BitVec 2
  | .vec => 0#2 | .scal => 1#2 | .cb => 2#2 | .lit => 3#2

/-- The opcode field of a strand word (02 R34). -/
def opField (v : Word) : Nat := fld v 52 9

/-- Every other field of a strand word (02 R34). -/
def wordFields (v : Word) : StrandWord :=
  { sy := v.getLsbD 63, bh := v.extractLsb' 61 2, pn := v.getLsbD 51, pg := v.extractLsb' 48 3,
    dk := DKind.ofBits (v.extractLsb' 46 2), d := v.extractLsb' 40 6,
    a := { kind := SKind.ofBits (v.extractLsb' 38 2), idx := v.extractLsb' 32 6 },
    b := { kind := SKind.ofBits (v.extractLsb' 30 2), idx := v.extractLsb' 24 6 },
    c := { kind := SKind.ofBits (v.extractLsb' 22 2), idx := v.extractLsb' 16 6 },
    x := v.extractLsb' 0 16 }

/-- The strand word of an opcode and the other fields (02 R34). -/
def strandWordBits (op : Nat) (w : StrandWord) : Word :=
  BitVec.ofBool w.sy ++ w.bh ++ BitVec.ofNat 9 op ++ BitVec.ofBool w.pn ++ w.pg ++ w.dk.toBits ++ w.d ++
    w.a.kind.toBits ++ w.a.idx ++ w.b.kind.toBits ++ w.b.idx ++ w.c.kind.toBits ++ w.c.idx ++ w.x

/-- Opcodes 0x000 to 0x01F of the opcode map (03 R67 to R77). -/
def decodeScalar (op : Nat) (w : StrandWord) : Option Instr :=
  match op - 0 with
  | 0 => some (.add w)
  | 1 => some (.sub w)
  | 2 => some (.mul w)
  | 3 => some (.mulh w)
  | 4 => some (.div w)
  | 5 => some (.rem w)
  | 6 => some (.and w)
  | 7 => some (.or w)
  | 8 => some (.xor w)
  | 9 => some (.andn w)
  | 10 => some (.orn w)
  | 11 => some (.shl w)
  | 12 => some (.shr w)
  | 13 => some (.sra w)
  | 14 => some (.rot w)
  | 15 => some (.clz w)
  | 16 => some (.ctz w)
  | 17 => some (.popc w)
  | 18 => some (.bswap w)
  | 19 => some (.min w)
  | 20 => some (.max w)
  | 21 => some (.abs w)
  | 22 => some (.sel w)
  | 23 => some (.mov w)
  | 24 => some (.movk w)
  | 25 => some (.ext w)
  | 26 => some (.dep w)
  | 27 => some (.addx w)
  | 28 => some (.cmp w)
  | 29 => some (.plog w)
  | 30 => some (if w.dk = .pred then .pmovToPred w else .pmovToScalar w)
  | 31 => some (.clamp w)
  | _ => none

/-- Opcodes 0x040 to 0x04F of the opcode map (03 R67 to R77). -/
def decodeControl (op : Nat) (w : StrandWord) : Option Instr :=
  match op - 64 with
  | 0 => some (.nop w)
  | 1 => some (.br w)
  | 2 => some (.jl w)
  | 3 => some (.jmp w)
  | 4 => some (.call w)
  | 5 => some (.callr w)
  | 6 => some (.ret w)
  | 7 => some (.rpt w)
  | 8 => some (.fork w)
  | 9 => some (.rejoin w)
  | 10 => some (.sbset w)
  | 11 => some (.sbclr w)
  | 12 => some (.sbwait w)
  | 13 => some (.seg w)
  | 14 => some (.segend w)
  | 15 => some (.done w)
  | _ => none

/-- Opcodes 0x060 to 0x07D of the opcode map (03 R67 to R77). -/
def decodeVectorA (op : Nat) (w : StrandWord) : Option Instr :=
  match op - 96 with
  | 0 => some (.vadd w)
  | 1 => some (.vsub w)
  | 2 => some (.vmul w)
  | 3 => some (.vfma w)
  | 4 => some (.vfms w)
  | 5 => some (.vfnma w)
  | 6 => some (.vmin w)
  | 7 => some (.vmax w)
  | 8 => some (.vabs w)
  | 9 => some (.vneg w)
  | 10 => some (.vamax w)
  | 11 => some (.vrcp w)
  | 12 => some (.vrsq w)
  | 13 => some (.vsqrt w)
  | 14 => some (.vexp2 w)
  | 15 => some (.vlog2 w)
  | 16 => some (.vtanh w)
  | 17 => some (.vsigm w)
  | 18 => some (.verf w)
  | 19 => some (.vsin2 w)
  | 20 => some (.vcmp w)
  | 21 => some (.vsel w)
  | 22 => some (.vand w)
  | 23 => some (.vor w)
  | 24 => some (.vxor w)
  | 25 => some (.vshl w)
  | 26 => some (.vshr w)
  | 27 => some (.vsra w)
  | 28 => some (.viadd w)
  | 29 => some (.visub w)
  | _ => none

/-- Opcodes 0x07E to 0x090 of the opcode map (03 R67 to R77). -/
def decodeVectorB (op : Nat) (w : StrandWord) : Option Instr :=
  match op - 126 with
  | 0 => some (.vimul w)
  | 1 => some (.vimad w)
  | 2 => some (.vimin w)
  | 3 => some (.vimax w)
  | 4 => some (.vdot4 w)
  | 5 => some (.vred w)
  | 6 => some (.vscan w)
  | 7 => some (.vperm w)
  | 8 => some (.vshuf w)
  | 9 => some (.vbcast w)
  | 10 => some (.vext w)
  | 11 => some (.vins w)
  | 12 => some (.vmov w)
  | 13 => some (.vround w)
  | 14 => some (.vclass w)
  | 15 => some (.vlane w)
  | 16 => some (if w.a.kind = .vec then .mopTable w else .mopMove w)
  | 17 => some (.mpop w)
  | 18 => some (.vclamp w)
  | _ => none

/-- Opcodes 0x0C0 to 0x0C6 of the opcode map (03 R67 to R77). -/
def decodeConvert (op : Nat) (w : StrandWord) : Option Instr :=
  match op - 192 with
  | 0 => some (.vcvt w)
  | 1 => some (.vpack w)
  | 2 => some (.vunpk w)
  | 3 => some (.vqnt w)
  | 4 => some (.vdqnt w)
  | 5 => some (.vscal w)
  | 6 => some (.vlat w)
  | _ => none

/-- Opcodes 0x0E0 to 0x0F2 of the opcode map (03 R67 to R77). -/
def decodeMemory (op : Nat) (w : StrandWord) : Option Instr :=
  match op - 224 with
  | 0 => some (.ld w)
  | 1 => some (.st w)
  | 2 => some (.ldv w)
  | 3 => some (.stv w)
  | 4 => some (.ldvs w)
  | 5 => some (.stvs w)
  | 6 => some (.gath w)
  | 7 => some (.scat w)
  | 8 => some (.ldl w)
  | 9 => some (.stl w)
  | 10 => some (.pref w)
  | 11 => some (.wbl w)
  | 12 => some (.invl w)
  | 13 => some (.tld w)
  | 14 => some (.tst w)
  | 15 => some (if w.c.idx = 1#6 then .tsetOpen w else if w.c.idx = 2#6 then .tsetRel w else .tsetDef w)
  | 16 => some (.tqry w)
  | 17 => some (.ldcb w)
  | 18 => some (.zfill w)
  | _ => none

/-- Opcodes 0x110 to 0x11D of the opcode map (03 R67 to R77). -/
def decodeAtomic (op : Nat) (w : StrandWord) : Option Instr :=
  match op - 272 with
  | 0 => some (.aadd w)
  | 1 => some (.amin w)
  | 2 => some (.amax w)
  | 3 => some (.aand w)
  | 4 => some (.aor w)
  | 5 => some (.axor w)
  | 6 => some (.axch w)
  | 7 => some (.acas w)
  | 8 => some (.afadd w)
  | 9 => some (.afmax w)
  | 10 => some (.ldacq w)
  | 11 => some (.strel w)
  | 12 => some (if fld w.x 0 2 = 0 then .fenceAcq w else if fld w.x 0 2 = 1 then .fenceRel w else if fld w.x 0 2 = 2 then .fenceAr w else .fenceSc w)
  | 13 => some (.aclm w)
  | _ => none

/-- Opcodes 0x130 to 0x138 of the opcode map (03 R67 to R77). -/
def decodeQueue (op : Nat) (w : StrandWord) : Option Instr :=
  match op - 304 with
  | 0 => some (.enq w)
  | 1 => some (.enqn w)
  | 2 => some (.deq w)
  | 3 => some (.engst w)
  | 4 => some (.flw w)
  | 5 => some (.fls w)
  | 6 => some (if bit w.x 7 then .flrZ w else .flr w)
  | 7 => some (if fld w.x 6 2 = 1 then .gsetClr w else .gset w)
  | 8 => some (.gqry w)
  | _ => none

/-- Opcodes 0x140 to 0x146 of the opcode map (03 R67 to R77). -/
def decodeCopy (op : Nat) (w : StrandWord) : Option Instr :=
  match op - 320 with
  | 0 => some (.cpy w)
  | 1 => some (.cpyt w)
  | 2 => some (.cpyx w)
  | 3 => some (.cpyq w)
  | 4 => some (.twait w)
  | 5 => some (.tstat w)
  | 6 => some (.tkill w)
  | _ => none

/-- Opcodes 0x150 to 0x15D of the opcode map (03 R67 to R77). -/
def decodeSched (op : Nat) (w : StrandWord) : Option Instr :=
  match op - 336 with
  | 0 => some (.nest w)
  | 1 => some (.iter w)
  | 2 => some (.pwait w)
  | 3 => some (.pret w)
  | 4 => some (.lcnt w)
  | 5 => some (.fsel w)
  | 6 => some (.launch w)
  | 7 => some (.evsig w)
  | 8 => some (if w.dk = .pred then .evwaitT w else .evwait w)
  | 9 => some (.evclr w)
  | 10 => some (.join w)
  | 11 => some (.leave w)
  | 12 => some (.tbar w)
  | 13 => some (.tinfo w)
  | _ => none

/-- Opcodes 0x170 to 0x177 of the opcode map (03 R67 to R77). -/
def decodeRemote (op : Nat) (w : StrandWord) : Option Instr :=
  match op - 368 with
  | 0 => some (.rld w)
  | 1 => some (.rst w)
  | 2 => some (.rldv w)
  | 3 => some (.rstv w)
  | 4 => some (.ratom w)
  | 5 => some (.rcas w)
  | 6 => some (.rflush w)
  | 7 => some (.winq w)
  | _ => none

/-- Opcodes 0x180 to 0x185 of the opcode map (03 R67 to R77). -/
def decodeMessage (op : Nat) (w : StrandWord) : Option Instr :=
  match op - 384 with
  | 0 => some (.msend w)
  | 1 => some (.mpost w)
  | 2 => some (.mprobe w)
  | 3 => some (.mcancel w)
  | 4 => some (.mcomp w)
  | 5 => some (.mqry w)
  | _ => none

/-- Opcodes 0x190 to 0x195 of the opcode map (03 R67 to R77). -/
def decodeCollective (op : Nat) (w : StrandWord) : Option Instr :=
  match op - 400 with
  | 0 => some (.cslot w)
  | 1 => some (.cred w)
  | 2 => some (.cbcast w)
  | 3 => some (.cbar w)
  | 4 => some (.cfree w)
  | 5 => some (.cqry w)
  | _ => none

/-- Opcodes 0x1A0 to 0x1A8 of the opcode map (03 R67 to R77). -/
def decodeSystem (op : Nat) (w : StrandWord) : Option Instr :=
  match op - 416 with
  | 0 => some (.trap w)
  | 1 => some (.rett w)
  | 2 => some (.rpli w)
  | 3 => some (.rplr w)
  | 4 => some (.mfsr w)
  | 5 => some (.mtsr w)
  | 6 => some (if w.c.idx = 1#6 then .tlbiVa w else if w.c.idx = 2#6 then .tlbiWin w else .tlbiAll w)
  | 7 => some (.sve w)
  | 8 => some (.pgmig w)
  | _ => none

/-- Opcodes 0x1B0 to 0x1B9 of the opcode map (03 R67 to R77). -/
def decodeDebug (op : Nat) (w : StrandWord) : Option Instr :=
  match op - 432 with
  | 0 => some (.brk w)
  | 1 => some (.fallow w)
  | 2 => some (.cntrd w)
  | 3 => some (.cntsel w)
  | 4 => some (.wfgrd w)
  | 5 => some (.trmark w)
  | 6 => some (.timrd w)
  | 7 => some (.enrd w)
  | 8 => some (.pace w)
  | 9 => some (.pwrq w)
  | _ => none

/-- The instruction of a strand opcode: every allocated value of the opcode map and no other (03 R63). -/
def decodeOp (op : Nat) (w : StrandWord) : Option Instr :=
  if 0 ≤ op ∧ op ≤ 31 then decodeScalar op w
  else if 64 ≤ op ∧ op ≤ 79 then decodeControl op w
  else if 96 ≤ op ∧ op ≤ 125 then decodeVectorA op w
  else if 126 ≤ op ∧ op ≤ 144 then decodeVectorB op w
  else if 192 ≤ op ∧ op ≤ 198 then decodeConvert op w
  else if 224 ≤ op ∧ op ≤ 242 then decodeMemory op w
  else if 272 ≤ op ∧ op ≤ 285 then decodeAtomic op w
  else if 304 ≤ op ∧ op ≤ 312 then decodeQueue op w
  else if 320 ≤ op ∧ op ≤ 326 then decodeCopy op w
  else if 336 ≤ op ∧ op ≤ 349 then decodeSched op w
  else if 368 ≤ op ∧ op ≤ 375 then decodeRemote op w
  else if 384 ≤ op ∧ op ≤ 389 then decodeMessage op w
  else if 400 ≤ op ∧ op ≤ 405 then decodeCollective op w
  else if 416 ≤ op ∧ op ≤ 424 then decodeSystem op w
  else if 432 ≤ op ∧ op ≤ 441 then decodeDebug op w
  else none

/-- Decode a strand instruction word (03 "Decoding a word"). -/
def decodeStrand (v : Word) : Except DecodeError Instr :=
  match decodeOp (opField v) (wordFields v) with
  | some i => .ok i
  | none => .error (.unallocated (opField v))

/-- The operand fields of an engine command (02 R52). -/
def cmdFields (v w1 w2 w3 : Word) : EngineCmd :=
  { wt := v.extractLsb' 56 8, sg := v.extractLsb' 48 8, opnd := v.extractLsb' 0 40, w1, w2, w3 }

/-- The first word of an engine command (02 R52). -/
def cmdWordBits (eop : Nat) (c : EngineCmd) : Word :=
  c.wt ++ c.sg ++ BitVec.ofNat 8 eop ++ c.opnd

/-- Engine opcode of a command's first word (02 R52). -/
def eopField (v : Word) : Nat := fld v 40 8

/-- How many words a drill command takes (03 R78); none for a reserved opcode (R79). -/
def drillLen (eop : Nat) : Option Nat :=
  if eop = 1 ∨ eop = 5 ∨ eop = 6 ∨ eop = 9 ∨ eop = 25 then some 2
  else if 16 ≤ eop ∧ eop ≤ 24 then some 4
  else if eop ≤ 15 then some 1
  else none

/-- How many words a receive-engine command takes (13 R348). -/
def rxeLen (eop : Nat) : Option Nat :=
  if eop = 0 ∨ eop = 2 then some 1 else if eop = 1 then some 4 else none

/-- The drill command of an engine opcode and its operand fields (03 R78, 11 R273). -/
def decodeDrillOp (eop : Nat) (c : EngineCmd) : Option Instr :=
  match eop with
  | 0 => some (.dnop)
  | 1 => some (if bit c.opnd 39 then .symClose else .symOpen)
  | 2 => some (.win)
  | 3 => some (if bit c.opnd 3 then .crngTrim else .crng)
  | 4 => some (.asrc)
  | 5 => some (if bit c.opnd 39 then .bcstEnd else .bcst)
  | 6 => some (if bit c.opnd 39 then .bjoinEnd else .bjoin)
  | 7 => some (.pass)
  | 8 => some (if fld c.opnd 38 2 = 1 then .accClr else .accMode)
  | 9 => some (.drain)
  | 10 => some (.rpol)
  | 11 => some (if fld c.opnd 0 2 = 1 then .calConv else if fld c.opnd 0 2 = 2 then .calMod else .calFull)
  | 12 => some (if fld c.opnd 0 2 = 1 then .skewPath else .skewArray)
  | 13 => some (.lzr)
  | 14 => some (.dfence)
  | 15 => some (.dloop)
  | 16 => some (.mxM64n128)
  | 17 => some (.mxM64n256)
  | 18 => some (.mxM64n512)
  | 19 => some (.mxM128n128)
  | 20 => some (.mxM128n256)
  | 21 => some (.mxM128n512)
  | 22 => some (.mxM256n128)
  | 23 => some (.mxM256n256)
  | 24 => some (.mxM256n512)
  | 25 => some (.mxr)
  | _ => none

/-- Decode a drill command of up to four words (03 R78, R79). -/
def decodeDrill (v w1 w2 w3 : Word) : Except DecodeError Instr :=
  match decodeDrillOp (eopField v) (cmdFields v w1 w2 w3) with
  | some i => .ok i
  | none => .error (.unallocated (eopField v))

/-- Decode a receive-engine command (13 R348). -/
def decodeRxe (v : Word) : Except DecodeError Instr :=
  match eopField v with
  | 0 => .ok .xnop
  | 1 => .ok .xpost
  | 2 => .ok .xcancel
  | n + 3 => .error (.unallocated (n + 3))

/-- Decode a copy packet (09 R221, 02 R54): `KIND` chooses the copy, and for a linear copy the flags `IS`, `CS` and
`FL`. Packets that break a rule of the format decode too and fault when taken (02 R56, 09 R230). -/
def decodeCopyPacket (p : Packet) : Except DecodeError Instr :=
  match fld p.w0 56 7 with
  | 0 => .ok .copyNoop
  | 1 => .ok (if bit p.w0 27 then .copyToInstructionStore else if bit p.w0 28 then .copyToCommandRing
              else if bit p.w0 26 then .copyFill else .copyLinear)
  | 2 => .ok .copyTensor
  | 3 => .ok .copyTensorToTile
  | 4 => .ok .copyTileToTensor
  | n + 5 => .error (.reservedKind (n + 5))

/-- Decode a launch packet (12 R298). -/
def decodeLaunchPacket (p : Packet) : Except DecodeError Instr :=
  match fld p.w0 60 3 with
  | 0 => .ok .launchPacketNoop
  | 1 => .ok .launchPacketTask
  | 2 => .ok .launchPacketStream
  | n + 3 => .error (.reservedKind (n + 3))

/-- Decode a command-list entry (12 R301, R302). -/
def decodeStreamEntry (e : StreamEntry) : Except DecodeError Instr :=
  match fld e.w0 60 4 with
  | 0 => .ok .streamEnd
  | 1 => .ok .streamLaunch
  | 2 => .ok .streamWait
  | 3 => .ok .streamSig
  | 4 => .ok .streamSkip
  | 5 => .ok .streamJump
  | 6 => .ok .streamCall
  | 7 => .ok .streamRet
  | 8 => .ok .streamFence
  | n + 9 => .error (.reservedKind (n + 9))

/-- Event numbers 0 to 29, in the order of the opcode table (log 5). -/
def decodeEvent0 (n : Nat) : Option Instr :=
  match n - 0 with
  | 0 => some .resultLanding
  | 1 => some .combiningBufferTimeout
  | 2 => some .xlateWalk
  | 3 => some .movingPageRewalk
  | 4 => some .pgmigCopyPoint
  | 5 => some .trapEntry
  | 6 => some .breakBitLoad
  | 7 => some .queueDeadlock
  | 8 => some .segmentOverrunTwice
  | 9 => some .segmentOverrun
  | 10 => some .rotationGroupEnd
  | 11 => some .rotationSwitch
  | 12 => some .iterationStart
  | 13 => some .clcfgApply
  | 14 => some .rcfgWrite
  | 15 => some .hostTailStore
  | 16 => some .ringRestartRetry
  | 17 => some .ringRestartDiscard
  | 18 => some .commandGuardDecided
  | 19 => some .commandFlagSatisfied
  | 20 => some .drillCommandReject
  | 21 => some .sessionOpened
  | 22 => some .tfuFetch
  | 23 => some .slotBoundary
  | 24 => some .windowAccumulate
  | 25 => some .converterTrimDue
  | 26 => some .modulatorBiasDue
  | 27 => some .skewTrimDue
  | 28 => some .laserStandby
  | 29 => some .laserRelightDone
  | _ => none

/-- Event numbers 30 to 59, in the order of the opcode table (log 5). -/
def decodeEvent1 (n : Nat) : Option Instr :=
  match n - 30 with
  | 0 => some .laserDip
  | 1 => some .laserLossSustained
  | 2 => some .symbolLockLoss
  | 3 => some .symbolLockSettled
  | 4 => some .omeshrWrite
  | 5 => some .copyBeat
  | 6 => some .copyRetire
  | 7 => some .queueStall
  | 8 => some .copyQueueActRetry
  | 9 => some .copyQueueActSkip
  | 10 => some .cqcfgWrite
  | 11 => some .lqcfgWrite
  | 12 => some .slotArrival
  | 13 => some .slotReturn
  | 14 => some .slotRetry
  | 15 => some .linkFrameReplay
  | 16 => some .remoteAccessAtTarget
  | 17 => some .remoteResponse
  | 18 => some .movedReissue
  | 19 => some .messageHeaderArrival
  | 20 => some .rendezvousPull
  | 21 => some .rxcfgWrite
  | 22 => some .cslotAtStation
  | 23 => some .contributionArrival
  | 24 => some .slotDeadline
  | 25 => some .slotFreeTimeout
  | 26 => some .cfreeAtStation
  | 27 => some .collectiveDelivery
  | 28 => some .watchStopSlot
  | 29 => some .ctxctlPreempt
  | _ => none

/-- Event numbers 60 to 89, in the order of the opcode table (log 5). -/
def decodeEvent2 (n : Nat) : Option Instr :=
  match n - 60 with
  | 0 => some .ctxctlEvict
  | 1 => some .ctxctlResume
  | 2 => some .ctxctlRestore
  | 3 => some .ctxctlTeardown
  | 4 => some .ctxctlCreate
  | 5 => some .preemptComplete
  | 6 => some .saveComplete
  | 7 => some .coreSectionReload
  | 8 => some .ptbaseWrite
  | 9 => some .hmentWrite
  | 10 => some .registerWrite
  | 11 => some .brksyncWrite
  | 12 => some .fwctlLaunch
  | 13 => some .fwctlStepCycle
  | 14 => some .fwctlStepInstruction
  | 15 => some .fwctlStepWindow
  | 16 => some .fwctlResume
  | 17 => some .stepTimeout
  | 18 => some .fallowStopArrival
  | 19 => some .fallowPhaseTwoDone
  | 20 => some .fallowFrozen
  | 21 => some .causeRecordArrival
  | 22 => some .fallowResumeInstant
  | 23 => some .dumpctlStart
  | 24 => some .dumpComplete
  | 25 => some .wfctlWrite
  | 26 => some .trcfgWrite
  | 27 => some .clockFreeze
  | 28 => some .pwrcapWrite
  | 29 => some .tokxferWrite
  | _ => none

/-- Event numbers 90 to 113, in the order of the opcode table (log 5). -/
def decodeEvent3 (n : Nat) : Option Instr :=
  match n - 90 with
  | 0 => some .tokenArrival
  | 1 => some .tokenReturn
  | 2 => some .tokenAck
  | 3 => some .governorInterval
  | 4 => some .paceGrantExpiry
  | 5 => some .referenceLoss
  | 6 => some .referenceLock
  | 7 => some .slewStep
  | 8 => some .realignmentGap
  | 9 => some .fieldResetRequest
  | 10 => some .fieldResetInstant
  | 11 => some .moduleReset
  | 12 => some .dieBoot
  | 13 => some .bootAnswerTimeout
  | 14 => some .notcfgWrite
  | 15 => some .hostRead
  | 16 => some .hostWrite
  | 17 => some .hostAtomic
  | 18 => some .boardManagementRead
  | 19 => some .memorySoftError
  | 20 => some .symbolLockRegained
  | 21 => some .teardownComplete
  | 22 => some .restoreComplete
  | 23 => some .interruptHoldoffExpiry
  | _ => none

/-- The event of a number (log 5). -/
def decodeEventOp (n : Nat) : Option Instr :=
  if 0 ≤ n ∧ n ≤ 29 then decodeEvent0 n
  else if 30 ≤ n ∧ n ≤ 59 then decodeEvent1 n
  else if 60 ≤ n ∧ n ≤ 89 then decodeEvent2 n
  else if 90 ≤ n ∧ n ≤ 113 then decodeEvent3 n
  else none

/-- The fields of an event record's header word and its four words (log 5). -/
def evFields (h a b c d : Word) : Ev := { die := h.extractLsb' 32 3, unit := h.extractLsb' 40 16, a, b, c, d }

/-- The header word of an event record: 0xEE, unit, die and event number (log 5). -/
def evHeader (n : Nat) (e : Ev) : Word := 0xEE#8 ++ e.unit ++ 0#5 ++ e.die ++ 0#16 ++ BitVec.ofNat 16 n

/-- Decode an event record (log 5). -/
def decodeEvent (h : Word) : Except DecodeError Instr :=
  if fld h 56 8 = 0xEE ∧ fld h 35 5 = 0 ∧ fld h 16 16 = 0 then
    match decodeEventOp (fld h 0 16) with
    | some i => .ok i
    | none => .error .unknownRecord
  else .error .unknownRecord

/-- The number that stands first in a tagged record and says what follows: 0 a strand word, 1 a drill command, 2 a
receive-engine command, 3 a copy packet, 4 a launch packet, 5 a stream entry, 6 an event record (log 5). -/
inductive Space where
  | strand | drill | rxe | copy | launch | stream | event
  deriving DecidableEq, Repr

/-- The tag word of a space (log 5). -/
def Space.tag : Space → Word
  | .strand => 0 | .drill => 1 | .rxe => 2 | .copy => 3 | .launch => 4 | .stream => 5 | .event => 6

/-- The eight words of a packet. -/
def Packet.words (p : Packet) : List Word := [p.w0, p.w1, p.w2, p.w3, p.w4, p.w5, p.w6, p.w7]

/-- The words of a tagged record past those it has are zero. -/
def wordAt (ws : List Word) (n : Nat) : Word := ws.getD n 0

/-- Decode a tagged record, total on any words: a space's tag and the words of that space give the instruction and,
for a row no strand fetches, its operand fields (log 5). -/
def decode (ws : List Word) : Except DecodeError (Instr × Hand) :=
  let v := wordAt ws 1
  let cmd := cmdFields v (wordAt ws 2) (wordAt ws 3) (wordAt ws 4)
  let packet : Packet :=
    { w0 := v, w1 := wordAt ws 2, w2 := wordAt ws 3, w3 := wordAt ws 4, w4 := wordAt ws 5, w5 := wordAt ws 6,
      w6 := wordAt ws 7, w7 := wordAt ws 8 }
  let entry : StreamEntry := { w0 := v, w1 := wordAt ws 2 }
  let ev := evFields v (wordAt ws 2) (wordAt ws 3) (wordAt ws 4) (wordAt ws 5)
  let tag := wordAt ws 0
  if tag = 0 then (decodeStrand v).map fun i => (i, ({} : Hand))
  else if tag = 1 then (decodeDrill v (wordAt ws 2) (wordAt ws 3) (wordAt ws 4)).map fun i => (i, { cmd := cmd })
  else if tag = 2 then (decodeRxe v).map fun i => (i, { cmd := cmd })
  else if tag = 3 then (decodeCopyPacket packet).map fun i => (i, { packet := packet })
  else if tag = 4 then (decodeLaunchPacket packet).map fun i => (i, { packet := packet })
  else if tag = 5 then (decodeStreamEntry entry).map fun i => (i, { entry := entry })
  else if tag = 6 then (decodeEvent v).map fun i => (i, { ev := ev })
  else .error .unknownRecord

/-- The record of a strand instruction. -/
def encStrand (op : Nat) (w : StrandWord) : List Word := [Space.strand.tag, strandWordBits op w]

/-- The record of an engine command. -/
def encCmd (sp : Space) (eop : Nat) (c : EngineCmd) : List Word := [sp.tag, cmdWordBits eop c, c.w1, c.w2, c.w3]

/-- The record of a packet. -/
def encPacket (sp : Space) (p : Packet) : List Word := sp.tag :: p.words

/-- The record of a command-list entry. -/
def encStream (e : StreamEntry) : List Word := [Space.stream.tag, e.w0, e.w1]

/-- The record of an event. -/
def encEvent (n : Nat) (e : Ev) : List Word := [Space.event.tag, evHeader n e, e.a, e.b, e.c, e.d]

/-- The words of a well-formed instruction, its space's tag first (the encoding tables cited at the decoders). -/
def encode (i : Instr) (h : Hand) : List Word :=
  match i with
  | .add w => encStrand 0 w
  | .sub w => encStrand 1 w
  | .mul w => encStrand 2 w
  | .mulh w => encStrand 3 w
  | .div w => encStrand 4 w
  | .rem w => encStrand 5 w
  | .and w => encStrand 6 w
  | .or w => encStrand 7 w
  | .xor w => encStrand 8 w
  | .andn w => encStrand 9 w
  | .orn w => encStrand 10 w
  | .shl w => encStrand 11 w
  | .shr w => encStrand 12 w
  | .sra w => encStrand 13 w
  | .rot w => encStrand 14 w
  | .clz w => encStrand 15 w
  | .ctz w => encStrand 16 w
  | .popc w => encStrand 17 w
  | .bswap w => encStrand 18 w
  | .min w => encStrand 19 w
  | .max w => encStrand 20 w
  | .abs w => encStrand 21 w
  | .sel w => encStrand 22 w
  | .mov w => encStrand 23 w
  | .movk w => encStrand 24 w
  | .ext w => encStrand 25 w
  | .dep w => encStrand 26 w
  | .addx w => encStrand 27 w
  | .cmp w => encStrand 28 w
  | .plog w => encStrand 29 w
  | .pmovToPred w => encStrand 30 w
  | .pmovToScalar w => encStrand 30 w
  | .clamp w => encStrand 31 w
  | .nop w => encStrand 64 w
  | .br w => encStrand 65 w
  | .jl w => encStrand 66 w
  | .jmp w => encStrand 67 w
  | .call w => encStrand 68 w
  | .callr w => encStrand 69 w
  | .ret w => encStrand 70 w
  | .rpt w => encStrand 71 w
  | .fork w => encStrand 72 w
  | .rejoin w => encStrand 73 w
  | .sbset w => encStrand 74 w
  | .sbclr w => encStrand 75 w
  | .sbwait w => encStrand 76 w
  | .seg w => encStrand 77 w
  | .segend w => encStrand 78 w
  | .done w => encStrand 79 w
  | .vadd w => encStrand 96 w
  | .vsub w => encStrand 97 w
  | .vmul w => encStrand 98 w
  | .vfma w => encStrand 99 w
  | .vfms w => encStrand 100 w
  | .vfnma w => encStrand 101 w
  | .vmin w => encStrand 102 w
  | .vmax w => encStrand 103 w
  | .vabs w => encStrand 104 w
  | .vneg w => encStrand 105 w
  | .vamax w => encStrand 106 w
  | .vclamp w => encStrand 144 w
  | .vrcp w => encStrand 107 w
  | .vrsq w => encStrand 108 w
  | .vsqrt w => encStrand 109 w
  | .vexp2 w => encStrand 110 w
  | .vlog2 w => encStrand 111 w
  | .vtanh w => encStrand 112 w
  | .vsigm w => encStrand 113 w
  | .verf w => encStrand 114 w
  | .vsin2 w => encStrand 115 w
  | .vcmp w => encStrand 116 w
  | .vsel w => encStrand 117 w
  | .vand w => encStrand 118 w
  | .vor w => encStrand 119 w
  | .vxor w => encStrand 120 w
  | .vshl w => encStrand 121 w
  | .vshr w => encStrand 122 w
  | .vsra w => encStrand 123 w
  | .viadd w => encStrand 124 w
  | .visub w => encStrand 125 w
  | .vimul w => encStrand 126 w
  | .vimad w => encStrand 127 w
  | .vimin w => encStrand 128 w
  | .vimax w => encStrand 129 w
  | .vdot4 w => encStrand 130 w
  | .vred w => encStrand 131 w
  | .vscan w => encStrand 132 w
  | .vperm w => encStrand 133 w
  | .vshuf w => encStrand 134 w
  | .vbcast w => encStrand 135 w
  | .vext w => encStrand 136 w
  | .vins w => encStrand 137 w
  | .vmov w => encStrand 138 w
  | .vround w => encStrand 139 w
  | .vclass w => encStrand 140 w
  | .vlane w => encStrand 141 w
  | .mopTable w => encStrand 142 w
  | .mopMove w => encStrand 142 w
  | .mpop w => encStrand 143 w
  | .vcvt w => encStrand 192 w
  | .vpack w => encStrand 193 w
  | .vunpk w => encStrand 194 w
  | .vqnt w => encStrand 195 w
  | .vdqnt w => encStrand 196 w
  | .vscal w => encStrand 197 w
  | .vlat w => encStrand 198 w
  | .resultLanding => encEvent 0 h.ev
  | .ld w => encStrand 224 w
  | .st w => encStrand 225 w
  | .ldv w => encStrand 226 w
  | .stv w => encStrand 227 w
  | .ldvs w => encStrand 228 w
  | .stvs w => encStrand 229 w
  | .gath w => encStrand 230 w
  | .scat w => encStrand 231 w
  | .ldl w => encStrand 232 w
  | .stl w => encStrand 233 w
  | .pref w => encStrand 234 w
  | .wbl w => encStrand 235 w
  | .invl w => encStrand 236 w
  | .tld w => encStrand 237 w
  | .tst w => encStrand 238 w
  | .tsetDef w => encStrand 239 w
  | .tsetOpen w => encStrand 239 w
  | .tsetRel w => encStrand 239 w
  | .tqry w => encStrand 240 w
  | .ldcb w => encStrand 241 w
  | .zfill w => encStrand 242 w
  | .aadd w => encStrand 272 w
  | .amin w => encStrand 273 w
  | .amax w => encStrand 274 w
  | .aand w => encStrand 275 w
  | .aor w => encStrand 276 w
  | .axor w => encStrand 277 w
  | .axch w => encStrand 278 w
  | .acas w => encStrand 279 w
  | .afadd w => encStrand 280 w
  | .afmax w => encStrand 281 w
  | .aclm w => encStrand 285 w
  | .ldacq w => encStrand 282 w
  | .strel w => encStrand 283 w
  | .fenceAcq w => encStrand 284 w
  | .fenceRel w => encStrand 284 w
  | .fenceAr w => encStrand 284 w
  | .fenceSc w => encStrand 284 w
  | .combiningBufferTimeout => encEvent 1 h.ev
  | .xlateWalk => encEvent 2 h.ev
  | .movingPageRewalk => encEvent 3 h.ev
  | .enq w => encStrand 304 w
  | .enqn w => encStrand 305 w
  | .deq w => encStrand 306 w
  | .engst w => encStrand 307 w
  | .flw w => encStrand 308 w
  | .fls w => encStrand 309 w
  | .flr w => encStrand 310 w
  | .flrZ w => encStrand 310 w
  | .gset w => encStrand 311 w
  | .gsetClr w => encStrand 311 w
  | .gqry w => encStrand 312 w
  | .cpy w => encStrand 320 w
  | .cpyt w => encStrand 321 w
  | .cpyx w => encStrand 322 w
  | .cpyq w => encStrand 323 w
  | .twait w => encStrand 324 w
  | .tstat w => encStrand 325 w
  | .tkill w => encStrand 326 w
  | .nest w => encStrand 336 w
  | .iter w => encStrand 337 w
  | .pwait w => encStrand 338 w
  | .pret w => encStrand 339 w
  | .lcnt w => encStrand 340 w
  | .fsel w => encStrand 341 w
  | .launch w => encStrand 342 w
  | .evsig w => encStrand 343 w
  | .evwait w => encStrand 344 w
  | .evwaitT w => encStrand 344 w
  | .evclr w => encStrand 345 w
  | .join w => encStrand 346 w
  | .leave w => encStrand 347 w
  | .tbar w => encStrand 348 w
  | .tinfo w => encStrand 349 w
  | .rld w => encStrand 368 w
  | .rst w => encStrand 369 w
  | .rldv w => encStrand 370 w
  | .rstv w => encStrand 371 w
  | .ratom w => encStrand 372 w
  | .rcas w => encStrand 373 w
  | .rflush w => encStrand 374 w
  | .winq w => encStrand 375 w
  | .msend w => encStrand 384 w
  | .mpost w => encStrand 385 w
  | .mprobe w => encStrand 386 w
  | .mcancel w => encStrand 387 w
  | .mcomp w => encStrand 388 w
  | .mqry w => encStrand 389 w
  | .cslot w => encStrand 400 w
  | .cred w => encStrand 401 w
  | .cbcast w => encStrand 402 w
  | .cbar w => encStrand 403 w
  | .cfree w => encStrand 404 w
  | .cqry w => encStrand 405 w
  | .trap w => encStrand 416 w
  | .rett w => encStrand 417 w
  | .rpli w => encStrand 418 w
  | .rplr w => encStrand 419 w
  | .mfsr w => encStrand 420 w
  | .mtsr w => encStrand 421 w
  | .tlbiAll w => encStrand 422 w
  | .tlbiVa w => encStrand 422 w
  | .tlbiWin w => encStrand 422 w
  | .sve w => encStrand 423 w
  | .pgmig w => encStrand 424 w
  | .pgmigCopyPoint => encEvent 4 h.ev
  | .brk w => encStrand 432 w
  | .fallow w => encStrand 433 w
  | .cntrd w => encStrand 434 w
  | .cntsel w => encStrand 435 w
  | .wfgrd w => encStrand 436 w
  | .trmark w => encStrand 437 w
  | .timrd w => encStrand 438 w
  | .enrd w => encStrand 439 w
  | .pace w => encStrand 440 w
  | .pwrq w => encStrand 441 w
  | .trapEntry => encEvent 5 h.ev
  | .breakBitLoad => encEvent 6 h.ev
  | .queueDeadlock => encEvent 7 h.ev
  | .segmentOverrunTwice => encEvent 8 h.ev
  | .segmentOverrun => encEvent 9 h.ev
  | .rotationGroupEnd => encEvent 10 h.ev
  | .rotationSwitch => encEvent 11 h.ev
  | .iterationStart => encEvent 12 h.ev
  | .clcfgApply => encEvent 13 h.ev
  | .rcfgWrite => encEvent 14 h.ev
  | .hostTailStore => encEvent 15 h.ev
  | .ringRestartRetry => encEvent 16 h.ev
  | .ringRestartDiscard => encEvent 17 h.ev
  | .commandGuardDecided => encEvent 18 h.ev
  | .commandFlagSatisfied => encEvent 19 h.ev
  | .drillCommandReject => encEvent 20 h.ev
  | .dnop => encCmd .drill 0 h.cmd
  | .symOpen => encCmd .drill 1 h.cmd
  | .sessionOpened => encEvent 21 h.ev
  | .symClose => encCmd .drill 1 h.cmd
  | .win => encCmd .drill 2 h.cmd
  | .crng => encCmd .drill 3 h.cmd
  | .crngTrim => encCmd .drill 3 h.cmd
  | .asrc => encCmd .drill 4 h.cmd
  | .bcst => encCmd .drill 5 h.cmd
  | .bcstEnd => encCmd .drill 5 h.cmd
  | .bjoin => encCmd .drill 6 h.cmd
  | .bjoinEnd => encCmd .drill 6 h.cmd
  | .pass => encCmd .drill 7 h.cmd
  | .accMode => encCmd .drill 8 h.cmd
  | .accClr => encCmd .drill 8 h.cmd
  | .drain => encCmd .drill 9 h.cmd
  | .rpol => encCmd .drill 10 h.cmd
  | .calFull => encCmd .drill 11 h.cmd
  | .calConv => encCmd .drill 11 h.cmd
  | .calMod => encCmd .drill 11 h.cmd
  | .skewArray => encCmd .drill 12 h.cmd
  | .skewPath => encCmd .drill 12 h.cmd
  | .lzr => encCmd .drill 13 h.cmd
  | .dfence => encCmd .drill 14 h.cmd
  | .dloop => encCmd .drill 15 h.cmd
  | .mxM64n128 => encCmd .drill 16 h.cmd
  | .mxM64n256 => encCmd .drill 17 h.cmd
  | .mxM64n512 => encCmd .drill 18 h.cmd
  | .mxM128n128 => encCmd .drill 19 h.cmd
  | .mxM128n256 => encCmd .drill 20 h.cmd
  | .mxM128n512 => encCmd .drill 21 h.cmd
  | .mxM256n128 => encCmd .drill 22 h.cmd
  | .mxM256n256 => encCmd .drill 23 h.cmd
  | .mxM256n512 => encCmd .drill 24 h.cmd
  | .mxr => encCmd .drill 25 h.cmd
  | .tfuFetch => encEvent 22 h.ev
  | .slotBoundary => encEvent 23 h.ev
  | .windowAccumulate => encEvent 24 h.ev
  | .converterTrimDue => encEvent 25 h.ev
  | .modulatorBiasDue => encEvent 26 h.ev
  | .skewTrimDue => encEvent 27 h.ev
  | .laserStandby => encEvent 28 h.ev
  | .laserRelightDone => encEvent 29 h.ev
  | .laserDip => encEvent 30 h.ev
  | .laserLossSustained => encEvent 31 h.ev
  | .symbolLockLoss => encEvent 32 h.ev
  | .symbolLockSettled => encEvent 33 h.ev
  | .omeshrWrite => encEvent 34 h.ev
  | .copyNoop => encPacket .copy h.packet
  | .copyLinear => encPacket .copy h.packet
  | .copyFill => encPacket .copy h.packet
  | .copyToInstructionStore => encPacket .copy h.packet
  | .copyToCommandRing => encPacket .copy h.packet
  | .copyTensor => encPacket .copy h.packet
  | .copyTensorToTile => encPacket .copy h.packet
  | .copyTileToTensor => encPacket .copy h.packet
  | .copyBeat => encEvent 35 h.ev
  | .copyRetire => encEvent 36 h.ev
  | .queueStall => encEvent 37 h.ev
  | .copyQueueActRetry => encEvent 38 h.ev
  | .copyQueueActSkip => encEvent 39 h.ev
  | .cqcfgWrite => encEvent 40 h.ev
  | .lqcfgWrite => encEvent 41 h.ev
  | .launchPacketNoop => encPacket .launch h.packet
  | .launchPacketTask => encPacket .launch h.packet
  | .launchPacketStream => encPacket .launch h.packet
  | .streamEnd => encStream h.entry
  | .streamLaunch => encStream h.entry
  | .streamWait => encStream h.entry
  | .streamSig => encStream h.entry
  | .streamSkip => encStream h.entry
  | .streamJump => encStream h.entry
  | .streamCall => encStream h.entry
  | .streamRet => encStream h.entry
  | .streamFence => encStream h.entry
  | .slotArrival => encEvent 42 h.ev
  | .slotReturn => encEvent 43 h.ev
  | .slotRetry => encEvent 44 h.ev
  | .linkFrameReplay => encEvent 45 h.ev
  | .remoteAccessAtTarget => encEvent 46 h.ev
  | .remoteResponse => encEvent 47 h.ev
  | .movedReissue => encEvent 48 h.ev
  | .messageHeaderArrival => encEvent 49 h.ev
  | .rendezvousPull => encEvent 50 h.ev
  | .rxcfgWrite => encEvent 51 h.ev
  | .xnop => encCmd .rxe 0 h.cmd
  | .xpost => encCmd .rxe 1 h.cmd
  | .xcancel => encCmd .rxe 2 h.cmd
  | .cslotAtStation => encEvent 52 h.ev
  | .contributionArrival => encEvent 53 h.ev
  | .slotDeadline => encEvent 54 h.ev
  | .slotFreeTimeout => encEvent 55 h.ev
  | .cfreeAtStation => encEvent 56 h.ev
  | .collectiveDelivery => encEvent 57 h.ev
  | .watchStopSlot => encEvent 58 h.ev
  | .ctxctlPreempt => encEvent 59 h.ev
  | .ctxctlEvict => encEvent 60 h.ev
  | .ctxctlResume => encEvent 61 h.ev
  | .ctxctlRestore => encEvent 62 h.ev
  | .ctxctlTeardown => encEvent 63 h.ev
  | .ctxctlCreate => encEvent 64 h.ev
  | .preemptComplete => encEvent 65 h.ev
  | .saveComplete => encEvent 66 h.ev
  | .coreSectionReload => encEvent 67 h.ev
  | .ptbaseWrite => encEvent 68 h.ev
  | .hmentWrite => encEvent 69 h.ev
  | .registerWrite => encEvent 70 h.ev
  | .brksyncWrite => encEvent 71 h.ev
  | .fwctlLaunch => encEvent 72 h.ev
  | .fwctlStepCycle => encEvent 73 h.ev
  | .fwctlStepInstruction => encEvent 74 h.ev
  | .fwctlStepWindow => encEvent 75 h.ev
  | .fwctlResume => encEvent 76 h.ev
  | .stepTimeout => encEvent 77 h.ev
  | .fallowStopArrival => encEvent 78 h.ev
  | .fallowPhaseTwoDone => encEvent 79 h.ev
  | .fallowFrozen => encEvent 80 h.ev
  | .causeRecordArrival => encEvent 81 h.ev
  | .fallowResumeInstant => encEvent 82 h.ev
  | .dumpctlStart => encEvent 83 h.ev
  | .dumpComplete => encEvent 84 h.ev
  | .wfctlWrite => encEvent 85 h.ev
  | .trcfgWrite => encEvent 86 h.ev
  | .clockFreeze => encEvent 87 h.ev
  | .pwrcapWrite => encEvent 88 h.ev
  | .tokxferWrite => encEvent 89 h.ev
  | .tokenArrival => encEvent 90 h.ev
  | .tokenReturn => encEvent 91 h.ev
  | .tokenAck => encEvent 92 h.ev
  | .governorInterval => encEvent 93 h.ev
  | .paceGrantExpiry => encEvent 94 h.ev
  | .referenceLoss => encEvent 95 h.ev
  | .referenceLock => encEvent 96 h.ev
  | .slewStep => encEvent 97 h.ev
  | .realignmentGap => encEvent 98 h.ev
  | .fieldResetRequest => encEvent 99 h.ev
  | .fieldResetInstant => encEvent 100 h.ev
  | .moduleReset => encEvent 101 h.ev
  | .dieBoot => encEvent 102 h.ev
  | .bootAnswerTimeout => encEvent 103 h.ev
  | .notcfgWrite => encEvent 104 h.ev
  | .hostRead => encEvent 105 h.ev
  | .hostWrite => encEvent 106 h.ev
  | .hostAtomic => encEvent 107 h.ev
  | .boardManagementRead => encEvent 108 h.ev
  | .memorySoftError => encEvent 109 h.ev
  | .symbolLockRegained => encEvent 110 h.ev
  | .teardownComplete => encEvent 111 h.ev
  | .restoreComplete => encEvent 112 h.ev
  | .interruptHoldoffExpiry => encEvent 113 h.ev

/-- Consecutive 64-bit words of a number, lowest first. -/
def wordsOf : Nat → Nat → List Word
  | 0, _ => []
  | n + 1, v => BitVec.ofNat 64 v :: wordsOf n (v / 2 ^ 64)

/-- The instruction an instruction's bits decode to: a strand word when the row has at most 64 bits, and else a
tagged record whose first word is the space's tag (log 5). -/
def decodeTableWord (nbits w : Nat) : Option Instr :=
  let ws := if nbits ≤ 64 then [Space.strand.tag, BitVec.ofNat 64 w] else wordsOf ((nbits + 63) / 64) w
  match decode ws with
  | .ok (i, _) => some i
  | .error _ => none

end Sys2Proof
end

