-- ==== Sys2Proof/Config.lean ====
section
/-!
DEFINITION. What an implementation fixes and the free values: every opaque constant here is a value the spec leaves
open, and nothing in Lean can evaluate it. The die count and the sizes are the spec's (01 R7, R12).
-/

namespace Sys2Proof

/-- Who acts in a step (INVENTORY.md, '## Agents'). `record` is an event record or a packet laid out by
`Sys2Proof.encode`; `cycle` ends one core cycle of a die (02 R46); `time` is one nanosecond of field time (17 R427). -/
inductive Action where
  | issue (die core strand : Nat)
  | ring (die ring : Nat)
  | copyTake (die cluster : Nat)
  | launchTake (die slot : Nat)
  | stream (die n : Nat)
  | record (words : List Word)
  | cycle (die : Nat)
  | time
  deriving DecidableEq, Repr

opaque Config.chooseImpl : Nat → Nat × Nat × Nat × List (BitVec 64)

/-- Which agent acts when the agenda is empty: the spec orders no two agents of the part except by its consistency
rules (07 R181). A free value of the step's counter (log 1). A record it names is an event's (log 5). -/
def Config.choose (n : Nat) : Action :=
  match Config.chooseImpl n with
  | (0, d, k, _) => .issue (d % 8) (k / 6 % 128) (k % 6)
  | (1, d, k, _) => .ring (d % 8) (k % 40)
  | (2, d, k, _) => .copyTake (d % 8) (k % 16)
  | (3, d, k, _) => .launchTake (d % 8) (k % 16)
  | (4, d, k, _) => .stream (d % 8) (k % 16)
  | (5, d, _, _) => .cycle (d % 8)
  | (6, _, _, _) => .time
  | (_, _, _, ws) => .record (6 :: ws)

/-- A free value of 64 bits: one for each count of the state's counter of free values (log 4). -/
opaque Config.freeValue : Nat → BitVec 64

/-- The package number of the module on its rack ring and its rack ring number, set at boot (01 R11). The spec gives
no value (log 6). -/
opaque Config.pkgNumber : BitVec 10

/-- Whether an identity names a die of the field, in service, in another package than this (01 R11, 13 R332; log 4). -/
opaque Config.fieldHas : Nat → Bool

/-- What booting leaves in the supervisor context of a die: system registers by selector, its launch queue's and event
area's registers among them, and the bytes its firmware puts in memory by key. The module flash holds it (17 R429; log 6). -/
opaque Config.bootRegs : Nat → List (Nat × BitVec 64)

/-- The firmware's bytes by key (17 R429; log 6). -/
opaque Config.bootImage : Nat → List (Nat × BitVec 8)

/-- The loop-nest record, format table and argument of the supervisor firmware's first task (15 R379; log 6). -/
opaque Config.bootTask : Nat → List (BitVec 64) × List (BitVec 8) × BitVec 64

end Sys2Proof
end

