-- ==== Sys2Proof/Machine/State.lean ====
section
/-!
DEFINITION. The state of the machine: everything the spec gives it, as plain data (INVENTORY.md, '## State'), the
reasons a step stops, and the state right after reset. Registers of one kind stand in a `Tab`, a table sorted by
number in which an unlisted number holds the kind's reset value.
-/

namespace Sys2Proof.Machine

/-- A table by number: sorted by key, one entry a key; an unlisted key holds a default the reader names. -/
abbrev Tab (α : Type) := List (Nat × α)

/-- The entry of a key, or the default. -/
def Tab.get {α : Type} (d : α) : Tab α → Nat → α
  | [], _ => d
  | (k, v) :: t, n => if k = n then v else Tab.get d t n

/-- The table with one key's entry replaced. -/
def Tab.put {α : Type} : Tab α → Nat → α → Tab α
  | [], n, x => [(n, x)]
  | (k, v) :: t, n, x => if n < k then (n, x) :: (k, v) :: t else if n = k then (n, x) :: t else (k, v) :: Tab.put t n x

/-- How a strand stands (15 R368 `TWAIT`; 04 R102, R103). -/
inductive Run where
  | idle                             -- no iteration record yet, or its core has none
  | running
  | blocked (kind num : Nat)         -- waits at its PC; kind and number as `TWAIT` codes them
  | parked                           -- parked for a rotation switch
  | done                             -- has executed `done`
  | stopped                          -- stopped by a trap, the wave or a pre-emption
  deriving DecidableEq, Repr

/-- An active repeat loop (04 R92, 15 R368 `TRPT`). -/
structure Rpt where
  active : Bool := false
  n : Nat := 0
  pos : Nat := 0
  left : Nat := 0
  deriving DecidableEq, Repr

/-- An open segment: declared cost, core cycles run, and the thresholds it has reached (04 R100, 15 R383). -/
structure Seg where
  cost : Nat
  ran : Nat := 0
  owed : Bool := false               -- it has run for twice its cost and that is not yet recorded
  lead : Bool := true                -- E1 to E3 of a lock-step segment leave the counting to E0
  deriving DecidableEq, Repr

/-- The live-set descriptor of the strand's last `segend` (04 R101). -/
structure LiveSet where
  s : BitVec 32 := 0
  p : BitVec 8 := 0
  m : BitVec 8 := 0
  v : BitVec 32 := 0
  deriving DecidableEq, Repr

/-- A copy token (09 R226). -/
structure Token where
  count : Nat := 0
  fault : Bool := false
  cause : BitVec 8 := 0
  seqs : List Nat := []              -- sequence numbers of the copies counted
  deriving DecidableEq, Repr

/-- A team slot (12 R322). -/
structure TeamSlot where
  valid : Bool := false
  desc : Word := 0
  rank : Nat := 0
  gen : BitVec 32 := 0
  arrived : Option (BitVec 32) := none -- the generation a waiting `tbar` has arrived in (12 R325)
  handle : Bool := false             -- joined through a window handle (12 R323)
  deriving DecidableEq, Repr

/-- One held write of a combining buffer: where it goes and its bytes with their enables (07 R187), the cycle it was
held from, and whether an acquire stands after it, so that no later write may merge into it (07 R189). -/
structure Held where
  key : Nat
  bytes : List (Option Byte)
  since : Nat := 0
  closed : Bool := false
  deriving DecidableEq, Repr

/-- A passed check of the remote check cache (13 R333): handle, 64 KiB range, right, and the die and context slot that passed
it. -/
structure Check where
  handle : Nat
  range : Nat
  right : Nat                        -- 0 loads, 1 stores, 2 atomics
  die : Nat := 0
  slot : Nat := 0
  deriving DecidableEq, Repr

/-- A request of an A strand to another die or to an engine that answers later: its number and words, the queue entry it has
reserved for its result (04 R96), and once it is answered the value or the cause. The instruction stays at its PC until
then (13 R332). -/
structure Pend where
  id : Nat
  dst : Nat := 0
  words : List Word := []            -- what was asked, as checked at the source then (13 R330)
  own : List (Option Byte) := []     -- bytes of the strand's posted writes outstanding to another package (07 R188)
  entry : Option (Nat × Nat) := none -- queue and entry number
  answered : Bool := false
  cause : BitVec 8 := 0
  info : Word := 0
  addr : Word := 0
  val : Vec := 0
  deriving DecidableEq, Repr

/-- The state of one strand (02 R42 to R44; 04; 09; 12; 13; 15). -/
structure Strand where
  regs : Tab Word := []
  preds : BitVec 8 := 0
  fsr : BitVec 16 := 0
  cbsel : BitVec 16 := 0
  ctxsel : Word := 0
  pc : Word := 0
  run : Run := .idle
  ready : Nat := 0                   -- earliest core cycle of the next issue (04 R91)
  rpt : Rpt := {}
  seg : Option Seg := none
  live : LiveSet := {}
  vregs : Tab Vec := []
  masks : Tab Lane := []
  sfuFree : Nat := 0                 -- earliest cycle of the next special function (05 R116)
  lc : Tab (BitVec 32) := []
  walk : Nat := 0                    -- 0 before the first point, 1 at a point, 2 exhausted (12 R317)
  permits : Nat := 0
  toks : Tab Token := []
  teams : Tab TeamSlot := []
  seqno : BitVec 32 := 0
  killed : List Nat := []            -- sequence numbers of the copies `tkill` cancelled that have not ended (09 R239)
  handler : Bool := false
  checks : List Check := []
  pend : Option Pend := none
  held : List Held := []             -- oldest first
  scLines : List Nat := []           -- lines written since the strand's last `fence.sc` (07 R178)
  kept : Option (List Byte) := none  -- what the waiting unit has loaded (08 R206, 09 R236, 12 R320)
  relAll : Bool := false             -- a `fence.rel`, `.ar` or `.sc` stands behind: every later write is a release (07 R178, R181)
  waitFrom : Nat := 0                -- cycle in which the present wait began (08 R211)
  tried : Nat := 0                   -- cycle in which the strand last found that it must wait (04 R99)
  deriving DecidableEq, Repr

/-- A queue entry: reserved under a number, and landed once its value stands (04 R96); `since` is the cycle it landed in. -/
structure QEnt where
  id : Nat := 0
  val : Option Vec := none
  since : Nat := 0
  deriving DecidableEq, Repr

/-- A queue, head first, and how many entries were popped in which cycle: they free space only from the next (04 R97). -/
structure Queue where
  ents : List QEnt := []
  nextId : Nat := 0
  popped : Nat := 0
  popCyc : Nat := 0
  deriving DecidableEq, Repr

/-- A result in flight on an E strand (02 R46): it lands at the end of cycle `due`; `rid` is the queue entry it
reserved when its destination is a queue. -/
structure Flight where
  due : Nat
  strand : Nat
  op : Nat
  w : StrandWord
  caps : Caps
  ipc : Word
  rid : Nat := 0
  iss : Nat := 0                     -- one above the cycle of its issue (15 R369)
  deriving DecidableEq, Repr

/-- An iteration on a core (01 R27, 12 R313). -/
structure Iter where
  slot : Nat
  task : Nat
  ordinal : Nat
  index : List Nat
  deriving DecidableEq, Repr

/-- The loop-nest record of a running task, words w0 to w15 (12 R311). -/
abbrev Lnr := List Word

/-- The trap frame words that stand nowhere else, and the replay entries (15 R368, R369). -/
structure Frame where
  cause : BitVec 8 := 0
  strd : Nat := 7
  prec : Bool := true
  info : Word := 0
  addr : Word := 0
  scnd : BitVec 8 := 0
  s28 : Word := 0
  s29 : Word := 0
  tpc : Tab Word := []
  lock : Bool := true
  wait : Tab Word := []
  rpt : Tab Word := []
  qocc : Word × Word := (0, 0)
  sb : Word × Word := (0, 0)
  teams : Tab Word := []
  replay : List Flight := []         -- `due` holds `RCYC`
  skip : Bool := false               -- its unit is resumed once without its own check (16 R393)
  since : Nat := 0                   -- trap cycle t
  upc : Word := 0                    -- the unit at which a strand trapped (16 R405)
  deriving DecidableEq, Repr

/-- A copy packet handed to the copy port or standing in a queue, with what its submission captured (09 R212, R223). -/
structure Submitted where
  packet : Packet
  slot : Nat                         -- context slot it acts for
  core : Nat                         -- submitting core, 127 for none
  queue : Option Nat := none         -- the queue it was taken from
  index : Nat := 0                   -- its index in that queue
  fmt3f : Nat := 0                   -- the format table entry captured; 0 when none was
  auto : Bool := false               -- formats are those of the two records (09 R235 `cpyt`)
  rm : Nat := 0                      -- the strand's rounding mode captured
  deriving DecidableEq, Repr

/-- A trap that is due: the strand, its cause and words, and the cycle it is taken in (15 R365). -/
structure TrapDue where
  stop : Bool := false               -- a stop from outside: the frame is filled and nothing else follows
  strd : Nat
  cause : BitVec 8
  prec : Bool := true
  info : Word := 0
  addr : Word := 0
  upc : Option Word := none
  t : Nat
  deriving DecidableEq, Repr

/-- A store of an E strand that lands at the end of its cycle (06 R158). -/
structure LateStore where
  strand : Nat
  key : Nat
  bytes : List (Option Byte)
  deriving DecidableEq, Repr

/-- An atomic on core scratch, performed in its strand's place at the end of its cycle (06 R158, 07 R175): its operation
number, bytes, width field and operands, and where the old value lands. -/
structure LateAtom where
  strand : Nat
  key : Nat
  op : Nat
  n : Nat
  wd : Nat
  b : Word
  c : Word
  opc : Nat
  w : StrandWord
  rid : Nat
  deriving DecidableEq, Repr

/-- The state of one core. -/
structure Core where
  iter : Option Iter := none
  freeFrom : Nat := 0                -- cycle from which the core may be given a point: the one after its last iteration's end (12 R313)
  incoming : Option Nat := none      -- rotation: the context a pending switch goes to (04 R102, 12 R316)
  home : Option Nat := none          -- the context whose registers and queues the core holds (12 R313)
  lastTask : Nat := 0                -- the task of its last iteration (12 R314)
  lock : Bool := true
  strands : Tab Strand := []
  queues : Tab Queue := []
  qmap : Tab (BitVec 8) := []
  sbVal : BitVec 16 := 0
  sbArr : Tab (BitVec 4) := []
  sbTgt : Tab Word := []             -- target of strand 2 to 5 waiting in `rejoin`
  sbSet : BitVec 16 := 0             -- sets and clears issued this cycle (04 R94)
  sbClr : BitVec 16 := 0
  gdSet : List (Nat × Nat × Nat) := [] -- guard changes issued this cycle: strand, guard, state (08 R203)
  late : List LateStore := []
  lateAtoms : List LateAtom := []
  banks : Tab Word := []             -- entry 64 b + n of the constant banks
  lateBanks : List (Nat × List Word) := [] -- banks replaced at the end of this cycle (06 R167)
  ftab : Tab (BitVec 8) := []
  ftix : Nat := 0
  ftixNew : Option Nat := none       -- `FTIX` from the end of this cycle (12 R317)
  pcnt : Nat := 0
  lnr : Lnr := []
  flights : List Flight := []        -- in issue order
  landed : Option Nat := none        -- the cycle whose end is being taken: nothing issues in it any more (02 R46)
  l1 : List (Nat × List Byte) := []  -- lines of pages wider than CORE, as last filled; youngest first (06 R164, 07 R184)
  l1c : List Nat := []               -- lines of CORE pages; youngest first (06 R164)
  ilines : List (Nat × Nat) := []    -- code lines held, with their break bits: context, address; youngest first (16 R391)
  brk : List (Nat × Nat) := []       -- code words whose break bit is set: context, address (16 R391)
  frame : Option Frame := none
  due : Option TrapDue := none       -- a trap this core takes at the start of a cycle to come (15 R365)
  hStopBy : Option Nat := none       -- H runs on until this cycle after a trap (15 R365)
  brkSkip : Option (Nat × Word) := none -- the strand and unit that issue once without their own check (16 R393)
  dlk : Nat := 0
  eIssued : Bool := false            -- an E unit has issued in this cycle (15 R365)
  moved : Bool := false              -- a unit or a landing of this cycle ends the deadlock rule's count (04 R99)
  port : List Submitted := []        -- copy port, oldest first (09 R212)
  grant : Option (Nat × Nat) := none -- pace grant: MHz and deadline (17 R426)
  stepCyc : Option (Nat × Nat) := none -- single step in progress: strand or 7, and its first cycle (16 R407)
  deriving DecidableEq, Repr

/-- A copy in progress (09 R227): the packet, the records it read at its take, destination bytes landed in whole beats
and in all, and the beats still to land after a watchpoint hit (16 R398). -/
structure CopyRun where
  sub : Submitted
  kind : Nat := 0                    -- 0 no-op, 1 linear, 2 fill, 3 instruction store, 4 command ring, 5 tensor, 6 to a tile, 7 from one
  sf : Nat := 0
  df : Nat := 0
  conv : Bool := false
  rm : Nat := 0
  sat : Bool := false
  src : List Word := []
  dst : List Word := []
  done : Nat := 0
  total : Nat := 0
  watch : Option (Nat × Word × Word) := none
  deriving DecidableEq, Repr

/-- A user-mode queue that is enabled: the key of its header, its size, and the words the engine keeps (09 R215; 12
R297). `stall` counts the cycles its next slot has stayed claimed and invalid (09 R217). -/
structure PktQueue where
  hdr : Nat
  log2n : Nat
  cluster : Nat := 0
  st : Nat := 0
  cause : BitVec 8 := 0
  rdix : Nat := 0
  act : Option Nat := none
  stall : Nat := 0
  fmts : Tab Nat := []               -- format entries `cpyq` captured, by slot index (09 R236)
  deriving DecidableEq, Repr

/-- The copy engine and configuration of one cluster. -/
structure Cluster where
  clcfg : Word := 8
  clNext : Option Word := none
  copies : Tab CopyRun := []         -- by source: core ports 0 to 7, then 8 + 64 * context + queue
  rr : Nat := 0
  base : Nat := 2400                 -- the governor's clock in MHz for the cluster without a pace grant (17 R424)
  limit : Nat := 2600                -- the most it lets a paced cluster run at
  deriving DecidableEq, Repr

/-- A posted receive (13 R338, R345): `st` is 0 active, 1 matched, 2 complete. -/
structure Post where
  id : Nat
  st : Nat := 0
  team : Word
  pat : Word
  wmask : Word
  tlr : List Word
  maxlen : Nat
  eoff : Nat
  flag : Nat
  deriving DecidableEq, Repr

/-- A message whose header was taken in (13 R338 to R340): what a match needs, an eager payload, and where a long one
is pulled from. -/
structure Msg where
  team : Word
  rank : Nat
  tag : Nat
  len : Nat
  data : List Byte := []
  srcDie : Nat
  srcSlot : Nat
  srcAddr : Word
  srcFlag : Nat
  deriving DecidableEq, Repr

/-- A completion record of a message (13 R343). -/
structure Comp where
  post : Nat
  w0 : Word
  w1 : Word
  deriving DecidableEq, Repr

/-- A core section of a save record that waits to be reloaded: the core, the offset of its body, its length in bytes (15
R382, R384). -/
structure Saved where
  core : Nat
  off : Nat
  len : Nat
  deriving DecidableEq, Repr

/-- One context slot of a die. -/
structure Ctx where
  state : Nat := 0
  frozen : Bool := false
  lcause : BitVec 8 := 0
  sup : Bool := false
  job : BitVec 16 := 0
  lcore : Nat := 0
  flags : Tab Nat := []
  satf : Tab Bool := []
  flagWho : Tab (BitVec 16) := []
  flagAdds : List (Nat × Nat × BitVec 16) := [] -- increments of this cycle: flag, amount, agent (08 R202)
  guards : Tab Nat := []             -- 0 unresolved, 1 true, 2 false
  evcfg : Word := 0x2000000000000000
  evWait : List (Nat × Nat × Nat) := []  -- waiters in arrival order: event, kind (0 task, 1 strand, 2 stream), number
  evRing : List (Nat × Nat × Nat) := []  -- waiters in the overflow ring, oldest first
  evSeen : List (Nat × Nat) := []    -- strands a set has released: event, 8 core + strand
  evSpill : List Nat := []
  evAllSpill : Bool := false
  evTail : Nat := 0                  -- records written to the overflow ring
  evStale : List Nat := []           -- 256-byte pieces of the bitmap not touched since the context was created (12 R305)
  regs : Tab Word := []              -- per-context system registers by selector (15 R374, R375)
  brkRegs : Tab Word := []           -- debug registers by selector (16 R390)
  lqcfg : Word := 0x1000000000000000
  lq : Option PktQueue := none
  rxcfg : Word := 0
  posts : List Post := []
  unexp : List Msg := []
  comps : List Comp := []            -- oldest first
  pulls : List (Nat × Msg) := []     -- matched long messages still to be pulled, by post (13 R340)
  pulling : List (Nat × Msg) := []   -- those whose pull is on the rings
  refused : Nat := 0
  saved : List Saved := []
  heldReplies : List (List Word × List Byte) := [] -- collective deliveries, oldest first (14 R364)
  energy : Word := 0
  omeFj : Nat := 0                   -- energy its windows used since the last governor interval, in fJ (10 R267)
  fwstat : Word := 0
  fwRecs : List (List Word) := []
  stopTime : Word := 0               -- field time of the stop that a save record carries (15 R384)
  evict : Bool := false              -- an eviction is under way, or has freed the slot (15 R380; 13 R341)
  deriving DecidableEq, Repr

/-- A command ring (08 R195, R196). -/
structure Ring where
  cfg : Word := 0x200000000
  head : Nat := 0
  tail : Nat := 0
  ret : Nat := 0
  state : Nat := 0                   -- RSTAT state
  cause : BitVec 8 := 0
  off : Nat := 0
  rep : Nat := 0                     -- next report slot
  repRead : Nat := 0
  lost : Nat := 0
  loop : Option (Nat × Nat × Nat) := none -- `dloop` taken: its index, where its body starts, passes left (11 R281)
  waitFrom : Nat := 0
  granted : Bool := false            -- the wait field of the command at `HEAD` is satisfied (08 R198)
  deriving DecidableEq, Repr

/-- What the setting commands of a drill ring set (11 R272). -/
structure DrillSet where
  win : Nat := 96
  range : Bool := false
  gain : Nat := 0
  src : Nat := 0                     -- 0 local, 1 package broadcast, 2 fibre group
  pdie : Nat := 0
  aspl : Bool := false
  wspl : Bool := false
  fresh : Bool := false
  rep : Nat := 0
  act : Nat := 0
  cmask : Nat := 127                 -- bit 6 `SAT` down to bit 0 `FETCH` (11 R278)
  thr : Nat := 70
  trims : Option Nat := none         -- free values from this one on: the bank trims `crng.trim` made (10 R263; log 12)
  deriving DecidableEq, Repr

/-- An operand of a matrix command: its kind, the record, handle or tile it reads, its first row (11 R283). -/
structure MxOpd where
  kind : Nat
  tlr : List Word := []
  handle : Nat := 0
  tile : Nat := 0
  fmt : Nat := 0
  row : Nat := 0
  deriving DecidableEq, Repr

/-- One side of a window as the TFU fetched it: for each lane or row its scale word and amplitudes, whether a block
breaks 10 R250, and what stays pinned (10 R254, R255). -/
structure WinSide where
  b8 : Bool := false
  lanes : List (Nat × List Int) := []
  bad : Bool := false
  pins : List Nat := []              -- keys of the 128-byte lines read
  tile : Option Nat := none
  bytes : Nat := 0                   -- bytes fetched for it (10 R267)
  own : Bool := true                 -- modulated on this die, and not light of a broadcast
  deriving DecidableEq, Repr

/-- A window of a matrix command (10 R243, R244): fetched, or started and not judged. `cond` has the bits of `CMASK`.
A session window is promised a slot to come: `ahead` counts its die's slots until then (10 R262). -/
structure Win where
  id : Nat                           -- the command it belongs to
  seq : Nat := 0
  pos : Nat                          -- its first symbol, from `KSTART`
  w : Nat
  act : WinSide
  wts : WinSide
  cond : Nat := 0
  last : Bool
  dead : Bool := false               -- started after a flagged window (11 R293)
  ahead : Nat := 0
  lit : Bool := false                -- it integrates in the present slot
  deriving DecidableEq, Repr

/-- A matrix command in progress (11 R282 to R286, R294). -/
structure MxRun where
  words : List Word                  -- as taken, or as recorded
  m : Nat
  n : Nat
  target : Nat                       -- accumulator index of its first element
  b8 : Bool
  act : MxOpd
  wts : MxOpd
  k0 : Nat                           -- `KSTART`
  total : Nat                        -- symbols of its K range
  pos : Nat                          -- symbols whose windows have started
  fresh : Bool                       -- the target is still to be set to +0 (11 R277)
  started : Bool := false
  session : Bool := false            -- its windows are session windows (11 R288)
  next : Option Win := none          -- the next window, fetched
  fault : Option (BitVec 8 × Word) := none -- the next window's operands cannot be read (10 R256)
  dead : Bool := false               -- no further window of it starts (11 R292)
  deriving DecidableEq, Repr

/-- Membership of a broadcast session (11 R287): `peers` is `CMASK` of a producer, `PDIE` of a consumer; `far` is `GRP`
or `HOP`; `path` counts the slots a consumer's path measurement still takes, `shift` and `trim` are what it gave: whole
slots, and quarter symbols (10 R260, R262). -/
structure Bcast where
  sid : Nat
  producer : Bool
  peers : Nat
  far : Nat
  at_ : Word
  path : Nat := 2
  formed : Bool := false
  shift : Nat := 0
  trim : Nat := 0
  deriving DecidableEq, Repr

/-- What a command that takes slots of its die does with them (11 R273, R279). -/
inductive SlotWork where
  | full | banks | groups | skew | path
  deriving DecidableEq, Repr

/-- What a taken drill command still has to do (11 R273 to R296). -/
inductive DrillJob where
  | ready                            -- nothing
  | opening (at_ : Option Word)      -- `sym`
  | closing                          -- `sym.close`
  | fence                            -- `dfence`, and `dloop` after its last pass
  | slots (n : Nat) (work : SlotWork) -- slots still to be taken
  | clear (off cnt : Nat)            -- `acc.clr`
  | drain (w0 w1 : Word)
  | forming (b : Bcast)              -- `bcst`, `bjoin`
  | leaving (sid : Nat) (producer : Bool)
  | mx (r : MxRun)
  deriving DecidableEq, Repr

/-- A drill command taken and not retired: where it stands in its ring, its signal, and the settings in force at its
take (11 R270). -/
structure TakenCmd where
  id : Nat
  idx : Nat
  len : Nat
  sg : Nat
  job : DrillJob
  set : DrillSet
  sess : Bool                        -- the symbol session as the earlier takes leave it (11 R274)
  bcIn : Bool                        -- membership of a broadcast session as the earlier takes leave it
  loop : Option (Nat × Nat × Nat)    -- the ring's `dloop` at its take
  deriving DecidableEq, Repr

/-- Engine state the drill keeps for a ring (11 R272, 10 R265). -/
structure Drill where
  set : DrillSet := {}
  sess : Bool := false               -- the session as the takes leave it
  session : Bool := false            -- the session has opened
  bc : Option Bcast := none
  bcIn : Bool := false
  seq : Nat := 0
  credit : Int := 0
  taken : List TakenCmd := []           -- in ring order
  wins : List Win := []              -- started and not judged, oldest first
  stash : List (Nat × Word) := []    -- reports still to be appended, with their command
  nextId : Nat := 0
  step : Nat := 0                    -- single step (16 R407): 1 a window is to start, 2 its report is awaited
  deriving DecidableEq, Repr

/-- A running or waiting task (12 R309 to R313). -/
structure Task where
  num : Nat
  slot : Nat
  lnr : Lnr
  ftab : List Byte
  arg : Word
  deps : List Nat
  ready : Option Nat := none
  started : Bool := false
  next : Nat := 0                    -- next ordinal to place
  total : Nat := 0
  ended : Nat := 0
  stream : Option Nat := none
  idx : Nat := 0                     -- `IDX` of its fault records (12 R304)
  unseen : List Nat := []            -- dependences still to be observed: no waiter of them has found room (12 R306)
  charge : Word := 0
  deriving DecidableEq, Repr

/-- A command-list stream (12 R301 to R303). -/
structure Stream where
  busy : Bool := false
  slot : Nat := 0
  next : Word := 0
  stack : List Word := []
  waitEv : Option Nat := none
  w0 : Word := 0                     -- w0 of the packet that started it (12 R304)
  deriving DecidableEq, Repr

/-- An in-time contribution of a reduction slot: its data, and where its result goes (14 R356, R360). -/
structure Contrib where
  die : Nat
  slot : Nat
  addr : Word
  flag : Nat
  handle : Word
  data : List Byte := []
  served : Bool := false
  deriving DecidableEq, Repr

/-- A watchpoint hit of this cycle that is still to be recorded: its place among them, and its fault record (16 R399). -/
structure WatchRec where
  rank : Nat
  slot : Nat
  agent : Nat
  addr : Word
  info : Word
  time : Word
  deriving DecidableEq, Repr

/-- A reduction slot of a station (14 R349 to R363): `state` is 0 free, 1 open, 2 done; `dl0` the deadline as allocated,
`dl` the one in force, `stopAt` the field time at which a fallow wave stopped it. -/
structure RSlot where
  state : Nat := 0
  ser : Nat := 0
  team : Word := 0
  key : Nat := 0
  job : BitVec 16 := 0
  cop : Nat := 0
  fsel : Nat := 0
  cntm1 : Nat := 0
  elm1 : Nat := 0
  dl0 : Nat := 0
  dl : Nat := 0
  stopAt : Option Nat := none
  contribs : Tab Contrib := []       -- by contributor index
  freed : List Nat := []
  partial_ : Bool := false
  nan : Bool := false
  ovf : Bool := false
  nanix : Nat := 255
  deriving DecidableEq, Repr

/-- What a ring slot carries (13 R326 to R343, 14 R349 to R362, 16 R398 to R408, 17 R423, R435). -/
inductive SlotKind where
  | access                           -- a remote read, write, atomic or check
  | reply                            -- its response or acknowledgement
  | header                           -- a message header
  | pull                             -- a rendezvous pull of a payload
  | pulled                           -- its completion at the sender
  | slotReq                          -- `cslot` at a station
  | contrib                          -- a contribution
  | free                             -- `cfree` at a station
  | deliver                          -- a collective result
  | watchStop                        -- the stop of a watched remote write's source
  | wave                             -- the fallow wave's stop
  | causeRec                         -- a cause record
  | phaseTwo                         -- a die's report that its traffic is delivered
  | frozen                           -- the controller's frozen broadcast
  | resume                           -- the resume of a frozen job
  | tokens                           -- power tokens
  | tokenBack                        -- power tokens returned
  | tokenAck                         -- the recipient's acknowledgement
  | team                             -- `join`, `leave`, `tbar` at the team's home
  deriving DecidableEq, Repr

/-- A slot on a ring: what it carries between dies (13 R326). -/
structure NetSlot where
  id : Nat
  kind : SlotKind
  src : Nat
  dst : Nat
  words : List Word
  data : List Byte := []
  refused : Nat := 0                 -- refusals since it was last issued (13 R329)
  moved : Bool := false              -- refused with "moved" (07 R190)
  more : Nat := 0                    -- slots of its payload that are still to come (01 R24, 13 R340)
  part : Option Nat := none          -- the slot whose payload this one goes on with
  returns : Nat := 0
  retryAt : Option Nat := none
  deriving DecidableEq, Repr

/-- An event counter (16 R410). -/
structure Counter where
  cfg : Word := 0
  count : Nat := 0
  ovf : Bool := false
  next : Option Word := none         -- a configuration that applies from the next cycle (16 R410)
  deriving DecidableEq, Repr

/-- A leaf as the translation cache holds it: the entry, the key it stands at, its level. -/
structure TlbLeaf where
  pte : Word
  key : Nat
  level : Nat
  deriving DecidableEq, Repr

/-- A cached translation of a die (15 R387). -/
structure TlbEntry where
  slot : Nat
  page : Nat
  leaf : TlbLeaf
  deriving DecidableEq, Repr

/-- The state of one die. -/
structure Die where
  booted : Bool := false
  fenced : Bool := false
  bootCause : Nat := 0
  frozenClk : Bool := false
  cyc : Nat := 0
  ftime : Word := 0
  clkst : Word := 0
  slew : Int := 0
  gap : Bool := false
  odd : Bool := false                -- slot boundaries fall on odd nanoseconds of field time as read: while slewing (10 R242)
  slotDue : Bool := false            -- a slot boundary has come and is still to be met
  holdFrom : Word := 0               -- field time at which the present holdover began (17 R428)
  slewAt : Word := 0                 -- field time of the last step of the correction (10 R242)
  skipNs : Bool := false             -- the next nanosecond is not counted: a step back of the correction (10 R242)
  cores : Tab Core := []
  parked : Tab Core := []            -- what a switch took off a core: key 16 * core + context (04 R102)
  clusters : Tab Cluster := []
  ctxs : Tab Ctx := []
  rings : Tab Ring := []
  drills : Tab Drill := []
  omeshr : Word := 0
  omestat : Word := 0
  lit : Bool := false
  locked : Bool := false
  settle : Nat := 0
  calLeft : Nat := 0                 -- slots left of the full calibration after a relight
  steal : List Nat := []             -- the units whose calibration is due, one for each slot it takes (10 R257)
  calAt : Tab Nat := []              -- when each unit was last calibrated: banks 0 to 15, groups 16 to 23, the skew 24
  skewHalf : Bool := false           -- the first slot of a skew trim is done
  delays : Option Nat := none        -- free values from this one on: the delay trims of the receiver groups (10 R260; log 12)
  dimFor : Tab Nat := []             -- by bus waveguide: slots its power has been too low for (10 R258)
  laserNs : Nat := 0                 -- of the present governor interval, the nanoseconds windows used the lasers (10 R267)
  omeSnap : Word := 0                -- `OMESTAT` at the last slot boundary (10 R268)
  acc : Tab (BitVec 32) := []
  accSt : Tab Nat := []
  tiles : Tab Word := []             -- die tiles 0 to 1,023; cluster c's tiles from 4,096 + 256 c
  tileOwned : Tab Bool := []
  cqsel : Word := 0
  cqcfg : Tab Word := []             -- key 64 * context + queue
  cqs : Tab PktQueue := []           -- the enabled copy queues, under the same key
  cqtmo : Word := 1048576
  wfthr : Word := 4096
  hmsel : Word := 0
  rote : Tab Word := []
  roteNew : Tab Word := []
  group : List Nat := []             -- the entries of the current group
  groupLeft : Nat := 0
  lqTurn : Nat := 0                  -- the context whose launch queue was served last (12 R300)
  streams : Tab Stream := []
  tasks : List Task := []
  nextTask : Nat := 1
  slots : Tab RSlot := []            -- package-ring station; the rack stile's from 1,024 on
  counters : Tab Counter := []
  wflog : List Word := []
  wflost : Nat := 0
  dbg : Tab Word := []               -- die debug and host registers by selector (16, 17)
  notHead : Nat := 0
  notLost : Nat := 0
  notAck : Nat := 0
  msixHold : Tab Nat := []
  msixMore : Tab Bool := []
  trTail : Nat := 0
  trLost : Nat := 0
  hits : List WatchRec := []         -- watchpoint hits of this cycle (16 R399)
  marks : List (Nat × Word × Word) := [] -- trace marks of this cycle: agent identity and the record (16 R414)
  dump : Option (Nat × Nat) := none
  inbox : List NetSlot := []
  retries : Nat := 0
  energy : Word := 0
  draw : Nat := 0
  fallow : Tab Word := []            -- by job: the wave as the die knows it (16 R402)
  resumes : Tab Word := []           -- by job: the resume instant, until its strands issue (16 R408)
  tlb : List TlbEntry := []
  served : Tab Nat := []             -- what this cycle has served of a thing that serves its agents in order, and whom last
  deriving DecidableEq, Repr

/-- Package state: power tokens, lasers, boot report (17). -/
structure Pkg where
  cap : Nat := 4000
  out : Nat := 0
  shed : Nat := 0
  draw : Nat := 0
  bootrpt : Word := 0
  ns : Nat := 0                      -- nanoseconds passed, which no correction of field time changes
  capHeld : Nat := 4000              -- the cap the governor last acted on (17 R424)
  govAt : Nat := 0                   -- when the last governor interval ended
  lasers : Tab Nat := []             -- by module: 0 off, 1 lit, 2 standby, 3 relighting
  lasersAt : Tab Nat := []           -- by module: when it last served an open session, or began to relight (10 R258)
  homes : Tab (List Word) := []      -- home map (06 R149): words of the installed record, then its job
  transfers : List (Nat × Nat) := [] -- tokens sent: number and amount, until acknowledged (17 R423)
  returns : List (Nat × Nat) := []   -- likewise, until some come back
  fieldReset : Option Word := none
  resetRefused : Bool := false       -- the last field-reset request was refused (17 R435)
  completion : Option (List Byte) := some [] -- what the last host access or board-management read returned; none for an abort (17 R431, R434)
  deriving DecidableEq, Repr

/-- Who executes: die, core, strand, and the unit number of an engine, ring or stream; the address of the word and
where the strand goes next; `bundle` says that the word is one of a lock-step bundle (02 R48). -/
structure Cur where
  die : Nat := 0
  core : Nat := 0
  strand : Nat := 0
  unit : Nat := 0
  pc : Word := 0
  npc : Word := 0
  gap : Nat := 1
  bundle : Bool := false
  after : Option (Nat × BitVec 8 × Word) := none -- strand, cause and word of a trap taken once the unit is performed
  taken : Bool := false              -- a control transfer was taken
  newRpt : Option Rpt := none        -- the repeat the unit opened
  ops : List Nat := []               -- opcodes of the bundle's four words
  whole : Bool := false              -- the unit set every strand's PC itself (`rett`)
  hold : Option (Nat × Nat) := none  -- the unit has acted in part and waits on at its PC: `TWAIT` kind and number
  sub : Option Submitted := none     -- the packet in hand, as it was submitted
  rel : Bool := false                -- the unit is a release (07 R186)
  entry : Option (Nat × Nat) := none -- queue and entry number that an answered request has reserved (04 R96)
  ord : Bool := false                -- the unit comes after the strand's earlier writes in its package (07 R181)
  deriving DecidableEq, Repr

/-- What the last unit did. -/
inductive Verdict where
  | idle
  | performed
  | trapped (cause : BitVec 8) (info addr : Word)
  | waited (kind num : Nat)
  deriving DecidableEq, Repr

/-- The state of the machine. -/
structure State where
  dies : Tab Die := []
  pkg : Pkg := {}
  mem : List Host.Cell := []         -- memory, sorted by key; an unlisted byte reads 0 (log 2)
  bad : List Nat := []               -- keys of words holding an uncorrectable error (06 R170)
  soft : List Nat := []              -- keys of words holding a single-bit error
  net : List NetSlot := []           -- slots on the rings
  nextReq : Nat := 0
  agenda : List Action := []
  hand : Hand := {}
  cur : Cur := {}
  verdict : Verdict := .idle
  free : Nat := 0
  deriving DecidableEq, Repr

/-- The reasons the machine stops. -/
inductive Fault where
  /-- Raised by an operation that reaches physical memory the part does not have (01 R19, 06 R136): the spec says no
  such address exists. Safe: the machine stops. -/
  | absentMemory
  deriving DecidableEq, Repr

/-- The reasons an instruction has no meaning. -/
inductive Refusal where
  /-- Raised by an arm of `exec` whose instruction has no meaning yet. Safe: the machine stops. -/
  | notModelled (mnemonic : String)
  deriving DecidableEq, Repr

/-- The machine right after reset: no die has booted, every register is at its reset value, memory lists nothing
(17 R429; logs 2 and 6). -/
def State.reset : State := {}

end Sys2Proof.Machine
end

