-- ==== Sys2Proof/Machine/Memory.lean ====
section
/-!
DEFINITION. Memory as one canonical list of key and byte pairs over the part's whole storage: physical memory, die
common, core scratch, lane slices, cluster pools and instruction stores (01 R17 to R19, 06 R132, R135, R136).
-/

namespace Sys2Proof.Machine

/-- What a byte that memory does not list reads as. DESIGN CHOICE (log 2). -/
def emptyByte : Byte := 0

/-- The byte at a key. -/
def memGet : List Host.Cell → Nat → Byte
  | [], _ => emptyByte
  | (k, v) :: m, n => if k = n then v else memGet m n

/-- Memory with one byte replaced: an entry equal to what an unlisted key reads as is not kept. -/
def memPut : List Host.Cell → Nat → Byte → List Host.Cell
  | [], n, b => if b = emptyByte then [] else [(n, b)]
  | (k, v) :: m, n, b =>
    if n < k then (if b = emptyByte then (k, v) :: m else (n, b) :: (k, v) :: m)
    else if n = k then (if b = emptyByte then m else (n, b) :: m)
    else (k, v) :: memPut m n b

/-- Every key of the list is above a bound, the keys rise strictly and no byte is the unlisted one. -/
def Memory.wfFrom : Option Nat → List Host.Cell → Bool
  | _, [] => true
  | lo, (k, v) :: m =>
    (match lo with
      | none => true
      | some b => decide (b < k)) && decide (v ≠ emptyByte) && Memory.wfFrom (some k) m

/-- The canonical form of memory. -/
def Memory.wf (m : List Host.Cell) : Bool := Memory.wfFrom none m

/-- Write bytes at consecutive keys; an absent byte leaves its key alone. -/
def memPutAll : List Host.Cell → Nat → List (Option Byte) → List Host.Cell
  | m, _, [] => m
  | m, k, none :: bs => memPutAll m (k + 1) bs
  | m, k, some b :: bs => memPutAll (memPut m k b) (k + 1) bs

/-- Read n bytes at consecutive keys. -/
def memGetAll (m : List Host.Cell) : Nat → Nat → List Byte
  | _, 0 => []
  | k, n + 1 => memGet m k :: memGetAll m (k + 1) n

/-- Key of a byte of physical memory: its 48-bit physical address, the die in bits [47:45] (06 R136). -/
def keyPhys (pa : Nat) : Nat := pa
/-- Key of a byte of a die's die common. -/
def keyDcm (die off : Nat) : Nat := 2 ^ 48 + die * 2 ^ 26 + off
/-- Key of a byte of a core's scratch. -/
def keyScr (die core off : Nat) : Nat := 2 ^ 49 + (die * 128 + core) * 2 ^ 20 + off
/-- Key of a byte of a cluster's pool. -/
def keyCpl (die cluster off : Nat) : Nat := 2 ^ 50 + (die * 16 + cluster) * 2 ^ 24 + off
/-- Key of a byte of a core's lane slices. -/
def keyLs (die core off : Nat) : Nat := 2 ^ 51 + (die * 128 + core) * 2 ^ 17 + off
/-- Key of a byte of a core's instruction store. -/
def keyIs (die core off : Nat) : Nat := 2 ^ 52 + (die * 128 + core) * 2 ^ 16 + off

/-- The bytes of physical memory one die has: two stacks of 64 GiB (01 R19). -/
def physPerDie : Nat := 2 ^ 37

/-- Whether a key is a byte the part has. -/
def keyExists (k : Nat) : Bool := decide (2 ^ 48 ≤ k) || decide (k % 2 ^ 45 < physPerDie)

/-- Read n bytes of the state's memory. -/
def State.bytes (s : State) (k n : Nat) : List Byte := memGetAll s.mem k n

/-- The number whose bytes stand at a key, least significant first (00 R2). -/
def State.num (s : State) (k n : Nat) : Nat := ofBytes (s.bytes k n)

/-- A 64-bit word of memory. -/
def State.word (s : State) (k : Nat) : Word := BitVec.ofNat 64 (s.num k 8)

/-- Write bytes; a word written whole again holds no uncorrectable or single-bit error (06 R170): an error mark names an
8-byte word, and a write of all its bytes makes new check bits. -/
def State.putRaw (s : State) (k : Nat) (bs : List (Option Byte)) : State :=
  let whole : Nat → Bool := fun w =>
    decide (k ≤ w) && decide (w + 8 ≤ k + bs.length) && ((bs.drop (w - k)).take 8).all Option.isSome
  { s with mem := memPutAll s.mem k bs, bad := s.bad.filter fun w => !whole w, soft := s.soft.filter fun w => !whole w }

/-- The bytes of a write that a queue's header lets through: its words from +8 on are the engine's (09 R215). -/
def PktQueue.mask (q : PktQueue) (k : Nat) (bs : List (Option Byte)) : List (Option Byte) :=
  if k < q.hdr + 64 ∧ q.hdr + 8 < k + bs.length then
    bs.zipIdx.map fun (b, i) => if q.hdr + 8 ≤ k + i ∧ k + i < q.hdr + 64 then none else b
  else bs

/-- The restart action a write stores: an aligned 8-byte store of `ACT` 1 or 2 to a stopped copy queue (09 R220). -/
def PktQueue.noteAct (q : PktQueue) (k : Nat) (bs : List (Option Byte)) : PktQueue :=
  if k = q.hdr + 16 ∧ bs.length = 8 ∧ bs.all Option.isSome ∧ q.st = 3 then
    let v := (bs.headD none).getD 0 &&& 3
    if v = 1 ∨ v = 2 then { q with act := some v.toNat } else q
  else q

/-- Write bytes to memory; the headers of enabled queues keep the words that are the engine's, and take `ACT`. -/
def State.putBytes (s : State) (k : Nat) (bs : List (Option Byte)) : State :=
  if k < 2 ^ 48 ∨ 2 ^ 51 ≤ k ∨ s.dies.all (fun (x : Nat × Die) => x.2.cqs.isEmpty && x.2.ctxs.all fun (y : Nat × Ctx) => y.2.lq.isNone) then s.putRaw k bs
  else
    let qs := s.dies.flatMap fun (x : Nat × Die) => x.2.cqs.map Prod.snd ++ x.2.ctxs.filterMap fun (y : Nat × Ctx) => y.2.lq
    let s := { s with dies := s.dies.map fun (x : Nat × Die) =>
      (x.1, { x.2 with cqs := x.2.cqs.map fun (y : Nat × PktQueue) => (y.1, y.2.noteAct k bs) }) }
    s.putRaw k (qs.foldl (fun bs q => q.mask k bs) bs)

/-- Write a number as n bytes. -/
def State.putNum (s : State) (k n v : Nat) : State := s.putBytes k ((toBytes n v).map some)

/-- Write a 64-bit word. -/
def State.putWord (s : State) (k : Nat) (v : Word) : State := s.putNum k 8 v.toNat

/-- Write a word of a queue's header as its engine does. -/
def State.putHdr (s : State) (k : Nat) (v : Word) : State := s.putRaw k ((toBytes 8 v.toNat).map some)

/-- Whether writes cover all of the 8-byte word at a key (06 R170). -/
def coversWord (ws : List (Nat × List (Option Byte))) (w : Nat) : Bool :=
  (List.range 8).all fun i => ws.any fun x => decide (x.1 ≤ w + i) && (x.2.getD (w + i - x.1) none).isSome

/-- The first word among n bytes at a key that holds an uncorrectable error (06 R170). -/
def State.badIn (s : State) (k n : Nat) : Option Nat := s.bad.find? fun w => decide (w < k + n) && decide (k < w + 8)

end Sys2Proof.Machine
end

