-- ==== Sys2Proof/Machine/Access.lean ====
section
/-! DEFINITION. Reading and updating the parts of the state: dies, cores, strands, contexts, registers and queues. -/

namespace Sys2Proof.Machine

/-- A die. -/
def State.die (s : State) (d : Nat) : Die := Tab.get {} s.dies d
/-- Update a die. -/
def State.modDie (s : State) (d : Nat) (f : Die → Die) : State := { s with dies := Tab.put s.dies d (f (s.die d)) }
/-- A core of a die. -/
def State.core (s : State) (d c : Nat) : Core := Tab.get {} (s.die d).cores c
/-- Update a core. -/
def State.modCore (s : State) (d c : Nat) (f : Core → Core) : State :=
  s.modDie d fun x => { x with cores := Tab.put x.cores c (f (Tab.get {} x.cores c)) }
/-- A strand of a core: 0 H, 1 A, 2 to 5 E0 to E3 (15 R368). -/
def Core.strand (c : Core) (n : Nat) : Strand := Tab.get {} c.strands n
/-- Update a strand of a core. -/
def Core.modStrand (c : Core) (n : Nat) (f : Strand → Strand) : Core :=
  { c with strands := Tab.put c.strands n (f (c.strand n)) }
/-- A strand. -/
def State.strand (s : State) (d c n : Nat) : Strand := (s.core d c).strand n
/-- Update a strand. -/
def State.modStrand (s : State) (d c n : Nat) (f : Strand → Strand) : State := s.modCore d c fun x => x.modStrand n f
/-- A cluster of a die. -/
def State.cluster (s : State) (d n : Nat) : Cluster := Tab.get {} (s.die d).clusters n
/-- Update a cluster. -/
def State.modCluster (s : State) (d n : Nat) (f : Cluster → Cluster) : State :=
  s.modDie d fun x => { x with clusters := Tab.put x.clusters n (f (Tab.get {} x.clusters n)) }
/-- A context slot of a die. -/
def State.ctx (s : State) (d n : Nat) : Ctx := Tab.get {} (s.die d).ctxs n
/-- Update a context slot. -/
def State.modCtx (s : State) (d n : Nat) (f : Ctx → Ctx) : State :=
  s.modDie d fun x => { x with ctxs := Tab.put x.ctxs n (f (Tab.get {} x.ctxs n)) }
/-- A ring of a die. -/
def State.ring (s : State) (d n : Nat) : Ring := Tab.get {} (s.die d).rings n
/-- Update a ring. -/
def State.modRing (s : State) (d n : Nat) (f : Ring → Ring) : State :=
  s.modDie d fun x => { x with rings := Tab.put x.rings n (f (Tab.get {} x.rings n)) }
/-- The drill's state of a ring. -/
def State.drill (s : State) (d n : Nat) : Drill := Tab.get {} (s.die d).drills n
/-- Update the drill's state of a ring. -/
def State.modDrill (s : State) (d n : Nat) (f : Drill → Drill) : State :=
  s.modDie d fun x => { x with drills := Tab.put x.drills n (f (Tab.get {} x.drills n)) }

/-- The core that executes. -/
def State.myCore (s : State) : Core := s.core s.cur.die s.cur.core
/-- Update the core that executes. -/
def State.modMyCore (s : State) (f : Core → Core) : State := s.modCore s.cur.die s.cur.core f
/-- The strand that executes. -/
def State.me (s : State) : Strand := s.strand s.cur.die s.cur.core s.cur.strand
/-- Update the strand that executes. -/
def State.modMe (s : State) (f : Strand → Strand) : State := s.modStrand s.cur.die s.cur.core s.cur.strand f
/-- The core cycle of the executing die. -/
def State.cyc (s : State) : Nat := (s.die s.cur.die).cyc

/-- The context slot of a core's iteration. -/
def Core.slot (c : Core) : Nat := match c.iter with | some i => i.slot | none => 0
/-- The executing context's slot. -/
def State.mySlot (s : State) : Nat := s.myCore.slot
/-- The executing context. -/
def State.myCtx (s : State) : Ctx := s.ctx s.cur.die s.mySlot
/-- Update the executing context. -/
def State.modMyCtx (s : State) (f : Ctx → Ctx) : State := s.modCtx s.cur.die s.mySlot f

/-- A scalar register: s0 reads zero (02 R42). -/
def Strand.sreg (t : Strand) (n : Nat) : Word := if n = 0 then 0 else Tab.get 0 t.regs n
/-- Write a scalar register: a write to s0 is discarded (02 R38). -/
def Strand.setSreg (t : Strand) (n : Nat) (v : Word) : Strand :=
  if n = 0 then t else { t with regs := Tab.put t.regs n v }
/-- A predicate: p0 reads 1 (02 R42). -/
def Strand.pred (t : Strand) (n : Nat) : Bool := decide (n = 0) || bit t.preds n
/-- Write a predicate: a write to p0 is discarded (02 R38). -/
def Strand.setPred (t : Strand) (n : Nat) (v : Bool) : Strand :=
  if n = 0 then t else { t with preds := setFld t.preds n 1 (b2n v) }
/-- A vector register. -/
def Strand.vreg (t : Strand) (n : Nat) : Vec := Tab.get 0 t.vregs n
/-- Write a vector register. -/
def Strand.setVreg (t : Strand) (n : Nat) (v : Vec) : Strand := { t with vregs := Tab.put t.vregs n v }
/-- A mask register. -/
def Strand.mreg (t : Strand) (n : Nat) : Lane := Tab.get 0 t.masks n
/-- Write a mask register. -/
def Strand.setMreg (t : Strand) (n : Nat) (v : Lane) : Strand := { t with masks := Tab.put t.masks n v }
/-- A token. -/
def Strand.tok (t : Strand) (n : Nat) : Token := Tab.get {} t.toks n
/-- Update a token. -/
def Strand.modTok (t : Strand) (n : Nat) (f : Token → Token) : Strand := { t with toks := Tab.put t.toks n (f (t.tok n)) }

/-- A constant-bank entry as the strand reads it (02 R36, R44). -/
def Core.cb (c : Core) (t : Strand) (n : Nat) : Word := Tab.get 0 c.banks (64 * fld t.cbsel 0 4 + n)

/-- Whether a strand's unit issues once without its own break and watch checks (16 R393): in lock-step state all four
words of the bundle do. -/
def Core.unchecked (c : Core) (strand : Nat) (pc : Word) : Bool :=
  match c.brkSkip with
  | none => false
  | some (n, a) =>
    if c.lock ∧ 2 ≤ strand then decide (2 ≤ n) && decide (pc.toNat / 32 = a.toNat / 32) else decide (n = strand) && pc = a

/-- The entries a queue holds: 8 vector, 32 scalar (01 R16). -/
def queueCap (q : Nat) : Nat := if q < 8 then 8 else 32
/-- A queue of a core. -/
def Core.queue (c : Core) (q : Nat) : Queue := Tab.get {} c.queues q
/-- Replace a queue. -/
def Core.setQueue (c : Core) (q : Nat) (x : Queue) : Core := { c with queues := Tab.put c.queues q x }
/-- Producer code of a queue's map byte (12 R312). -/
def Core.producer (c : Core) (q : Nat) : Nat := fld (Tab.get 0x77#8 c.qmap q) 4 3
/-- Consumer code of a queue's map byte (12 R312): 6 marks a permit queue. -/
def Core.consumer (c : Core) (q : Nat) : Nat := fld (Tab.get 0x77#8 c.qmap q) 0 3

/-- Entries a queue can still reserve in cycle t: an entry popped in cycle t frees its place only from t + 1 (04 R97). -/
def Queue.room (x : Queue) (q t : Nat) : Nat :=
  queueCap q - x.ents.length - (if x.popCyc = t then x.popped else 0)

/-- Pop the head in cycle t: it must have landed before t (04 R96, R97). -/
def Queue.pop (x : Queue) (t : Nat) : Option (Vec × Queue) :=
  match x.ents with
  | { val := some v, since, .. } :: rest =>
    if since < t then some (v, { x with ents := rest, popped := (if x.popCyc = t then x.popped else 0) + 1, popCyc := t }) else none
  | _ => none

/-- Reserve the tail entry: the queue and the entry's number (04 R96). -/
def Queue.reserve (x : Queue) : Queue × Nat :=
  ({ x with ents := x.ents ++ [{ id := x.nextId }], nextId := x.nextId + 1 }, x.nextId)

/-- Give a reserved entry up: its instruction has faulted. -/
def Queue.unreserve (x : Queue) (id : Nat) : Queue :=
  { x with ents := x.ents.filter fun e => !(decide (e.id = id) && e.val.isNone) }

/-- Land a value in the reserved entry of a number at the end of cycle t (04 R96). -/
def Queue.land (x : Queue) (id : Nat) (v : Vec) (t : Nat) : Queue :=
  { x with ents := x.ents.map fun e => if e.id = id ∧ e.val = none then { e with val := some v, since := t } else e }

/-! ### Queues of packets (09 R215 to R217) -/

/-- Slots of a queue. -/
def PktQueue.size (q : PktQueue) : Nat := 2 ^ q.log2n
/-- Key of the slot of an index. -/
def PktQueue.slot (q : PktQueue) (i : Nat) : Nat := q.hdr + 64 + 64 * (i % q.size)
/-- The phase bit a valid slot of an index has. -/
def PktQueue.phase (q : PktQueue) (i : Nat) : Bool := i / q.size % 2 = 0
/-- The claim word of a queue. -/
def PktQueue.claimWord (q : PktQueue) (s : State) : Word := s.word q.hdr
/-- Whether the slot at `RDIX` has been claimed. -/
def PktQueue.claimed (q : PktQueue) (s : State) : Bool := fld (q.claimWord s) 0 32 ≠ q.rdix
/-- Whether the slot of an index is valid. -/
def PktQueue.valid (q : PktQueue) (i : Nat) (s : State) : Bool := bit (s.word (q.slot i)) 63 == q.phase i
/-- Count one cycle of a queue whose next slot is claimed and stays invalid. -/
def PktQueue.countStall (q : PktQueue) (s : State) : PktQueue :=
  if q.st ≠ 3 && q.claimed s && !q.valid q.rdix s then { q with stall := q.stall + 1 } else { q with stall := 0 }

/-- Count a cycle of every queue of a die. -/
def countStalls (die : Nat) (s : State) : State :=
  s.modDie die fun d =>
    { d with cqs := d.cqs.map fun (k, q) => (k, q.countStall s),
             ctxs := d.ctxs.map fun (k, c) => (k, { c with lq := c.lq.map fun q => q.countStall s }) }

/-- A system register of a context, by its selector (15 R374). -/
def Ctx.reg (c : Ctx) (sel : Nat) : Word := Tab.get 0 c.regs sel
/-- A debug register of a context. -/
def Ctx.brkReg (c : Ctx) (sel : Nat) : Word := Tab.get 0 c.brkRegs sel
/-- A flag (08 R202). -/
def Ctx.flag (c : Ctx) (n : Nat) : Nat := Tab.get 0 c.flags n
/-- A guard (08 R203). -/
def Ctx.guard (c : Ctx) (n : Nat) : Nat := Tab.get 0 c.guards n

/-- Reset value of a debug or host register of a die: `LOG2N` of `TRCFG` and `NOTCFG` is 8 (16 R413, 17 R432). -/
def dbgReset (sel : Nat) : Word :=
  if sel = 0x860 then 0x1000000000000000 else if sel = 0x930 then 0x2000000000000000 else 0

/-- A debug or host register of a die, by selector. -/
def Die.dbgReg (d : Die) (sel : Nat) : Word := Tab.get (dbgReset sel) d.dbg sel

/-- The home map's key for die identities: rack and package of the module with a die number (01 R11). -/
def dieIdentity (die : Nat) : Nat := Config.pkgNumber.toNat * 8 + die

/-- A free value: the counter advances (log 4). -/
def State.takeFree (s : State) : Word × State := (Config.freeValue s.free, { s with free := s.free + 1 })

/-- The dies of the package in service, ascending (06 R139). -/
def State.unfenced (s : State) : List Nat := (List.range 8).filter fun d => !(s.die d).fenced

end Sys2Proof.Machine
end

