-- ==== Sys2Proof/Machine/AtomArith.lean ====
section
/-!
DEFINITION. What the atomics compute: the pattern written and the value landed (07 R172 to R176; 13 R334), by an operation
number: 16 + selector, or 32 for a compare and swap.
-/

namespace Sys2Proof.Machine

/-- Bytes an atomic of a width field acts on (07 R171, R172). -/
def atomBytes (fp : Bool) (wd : Nat) : Nat := if fp then 4 else (intFmt wd).2 / 8

/-- The format code a floating atomic's literal is converted to (02 R36, 07 R171). -/
def atomLit (wd : Nat) : Nat := if wd = 6 then 6 else 1

/-- Two patterns as integers of a width field's format. -/
def atomInt (wd v : Nat) : Int := wrapInt (intFmt wd).1 (intFmt wd).2 v

/-- A floating atomic on one format (07 R174): the flags are dropped. -/
def atomFloat (f : FFmt) (isMax : Bool) (old b : Nat) : Nat :=
  (if isMax then f.max false old b else f.add 0 false false old b).bits

/-- A floating atomic by its width field: `bf16x2` computes each half (07 R174). -/
def atomFp (wd : Nat) (isMax : Bool) (old b : Nat) : Nat :=
  if wd = 6 then
    atomFloat bf16 isMax (old % 65536) (b % 65536) + 65536 * atomFloat bf16 isMax (old / 65536) (b / 65536)
  else atomFloat f32 isMax old b

/-- What an atomic writes (07 R172): 0 add, 1 min, 2 max, 3 and, 4 or, 5 xor, 6 exchange, 7 floating add, 8 floating
maximum; patterns of w bits. -/
def atomNew (op wd old b : Nat) : Nat :=
  let w := (intFmt wd).2
  match op with
  | 0 => (old + b) % 2 ^ w
  | 1 => if atomInt wd old ≤ atomInt wd b then old else b % 2 ^ w
  | 2 => if atomInt wd old ≤ atomInt wd b then b % 2 ^ w else old
  | 3 => old &&& (b % 2 ^ w)
  | 4 => old ||| (b % 2 ^ w)
  | 5 => old ^^^ (b % 2 ^ w)
  | 6 => b % 2 ^ w
  | 7 => atomFp wd false old (b % 2 ^ 32)
  | _ => atomFp wd true old (b % 2 ^ 32)

/-- Whether an atomic is a floating one. -/
def atomIsFp (op : Nat) : Bool := op = 7 || op = 8

/-- The claim of n slots on a claim word (07 R176): the word written, if any, and the value landed. -/
def claim (word n : Nat) : Option Nat × Word :=
  let wix := word % 2 ^ 32
  let free := (word / 2 ^ 32 + 2 ^ 32 - wix) % 2 ^ 32
  if n ≤ free then (some (word / 2 ^ 32 * 2 ^ 32 + (wix + n) % 2 ^ 32), BitVec.ofNat 64 wix)
  else (none, BitVec.ofNat 64 (2 ^ 63 + free))

/-- The old value as it lands (07 R173). -/
def atomOld (fp : Bool) (wd old : Nat) : Word := if fp then BitVec.ofNat 64 old else BitVec.ofInt 64 (atomInt wd old)

/-- Operations of an access slot: 0 load, 1 store, 2 check, 16 + selector an atomic, 32 compare and swap. -/
def accLoad : Nat := 0
/-- A store. -/
def accStore : Nat := 1
/-- A check alone. -/
def accCheck : Nat := 2
/-- An atomic of a selector (13 R334). -/
def accAtom (sel : Nat) : Nat := 16 + sel
/-- Compare and swap. -/
def accCas : Nat := 32

/-- What an atomic of a slot writes, from the old pattern (07 R173, R174, R176). -/
def accNew (op wd n : Nat) (b c : Word) (old : Nat) : Option Nat :=
  if op = accCas then if old = b.toNat % 2 ^ (8 * n) then some (c.toNat % 2 ^ (8 * n)) else none
  else if op = accAtom 9 then (claim old (zx b 32)).1
  else some (atomNew (op - 16) wd old b.toNat)

/-- What an atomic of an operation number lands (07 R173, R176). -/
def atomLands (op wd : Nat) (b : Word) (old : Nat) : Word :=
  if op = accAtom 9 then (claim old (zx b 32)).2 else atomOld (atomIsFp (op - 16)) wd old

end Sys2Proof.Machine
end

