-- ==== Sys2Proof/Machine/Results.lean ====
section
/-!
DEFINITION. The result of an instruction that lands later, from its opcode and its captured operands (02 R46, 15 R369):
a load, `mfsr` and `timrd` land what they captured.
-/

namespace Sys2Proof.Machine

/-- What an instruction lands that captured its result as operand A: loads, `mfsr`, `timrd` (15 R369). Inactive lanes
of a vector load follow 05 R110. -/
def resCaptured (_ : StrandWord) (k : Caps) : Res := { val := k.a, lanes := k.mask, zero := bit k.x 7 }

/-- Results of opcodes 0x000 to 0x01F. -/
def resultScalar (op : Nat) (w : StrandWord) (k : Caps) : Res :=
  match op - 0 with
  | 0 => resAdd w k
  | 1 => resSub w k
  | 2 => resMul w k
  | 3 => resMulh w k
  | 4 => resDiv w k
  | 5 => resRem w k
  | 6 => resAnd w k
  | 7 => resOr w k
  | 8 => resXor w k
  | 9 => resAndn w k
  | 10 => resOrn w k
  | 11 => resShl w k
  | 12 => resShr w k
  | 13 => resSra w k
  | 14 => resRot w k
  | 15 => resClz w k
  | 16 => resCtz w k
  | 17 => resPopc w k
  | 18 => resBswap w k
  | 19 => resMin w k
  | 20 => resMax w k
  | 21 => resAbs w k
  | 22 => resSel w k
  | 23 => resMov w k
  | 24 => resMovk w k
  | 25 => resExt w k
  | 26 => resDep w k
  | 27 => resAddx w k
  | 28 => resCmp w k
  | 29 => resPlog w k
  | 30 => if w.dk = .pred then resPmovToPred w k else resPmovToScalar w k
  | 31 => resClamp w k
  | _ => resCaptured w k

/-- Results of opcodes 0x060 to 0x090. -/
def resultVector (op : Nat) (w : StrandWord) (k : Caps) : Res :=
  match op - 96 with
  | 0 => resVadd w k
  | 1 => resVsub w k
  | 2 => resVmul w k
  | 3 => resVfma w k
  | 4 => resVfms w k
  | 5 => resVfnma w k
  | 6 => resVmin w k
  | 7 => resVmax w k
  | 8 => resVabs w k
  | 9 => resVneg w k
  | 10 => resVamax w k
  | 11 => resVrcp w k
  | 12 => resVrsq w k
  | 13 => resVsqrt w k
  | 14 => resVexp2 w k
  | 15 => resVlog2 w k
  | 16 => resVtanh w k
  | 17 => resVsigm w k
  | 18 => resVerf w k
  | 19 => resVsin2 w k
  | 20 => resVcmp w k
  | 21 => resVsel w k
  | 22 => resVand w k
  | 23 => resVor w k
  | 24 => resVxor w k
  | 25 => resVshl w k
  | 26 => resVshr w k
  | 27 => resVsra w k
  | 28 => resViadd w k
  | 29 => resVisub w k
  | 30 => resVimul w k
  | 31 => resVimad w k
  | 32 => resVimin w k
  | 33 => resVimax w k
  | 34 => resVdot4 w k
  | 35 => resVred w k
  | 36 => resVscan w k
  | 37 => resVperm w k
  | 38 => resVshuf w k
  | 39 => resVbcast w k
  | 40 => resVext w k
  | 41 => resVins w k
  | 42 => resVmov w k
  | 43 => resVround w k
  | 44 => resVclass w k
  | 45 => resVlane w k
  | 46 => if w.a.kind = .vec then resMopTable w k else resMopMove w k
  | 47 => resMpop w k
  | 48 => resVclamp w k
  | _ => resCaptured w k

/-- Results of opcodes 0x0C0 to 0x0C6. -/
def resultConvert (op : Nat) (w : StrandWord) (k : Caps) : Res :=
  match op - 192 with
  | 0 => resVcvt w k
  | 1 => resVpack w k
  | 2 => resVunpk w k
  | 3 => resVqnt w k
  | 4 => resVdqnt w k
  | 5 => resVscal w k
  | 6 => resVlat w k
  | _ => resCaptured w k

/-- The result of an opcode's captured operands. -/
def resultOf (op : Nat) (w : StrandWord) (k : Caps) : Res :=
  if op ≤ 31 then resultScalar op w k
  else if 96 ≤ op ∧ op ≤ 144 then resultVector op w k
  else if 192 ≤ op ∧ op ≤ 198 then resultConvert op w k
  else resCaptured w k

end Sys2Proof.Machine
end

