-- ==== Sys2Proof/Machine/Ops.lean ====
section
/-!
DEFINITION. The shared operations of a unit's issue: the order of checks (02 R39, 03 R66, R81), capturing operands
(02 R35, R36, R40; 04 R96), landing results (02 R46), notifications and fault records (08 R199, R200; 17 R432),
taking a trap and what follows it (15 R365 to R369, R380; 16 R400, R401), and the end of a core cycle.
-/

namespace Sys2Proof.Machine

/-- How an effect ends short: a trap, a trap taken after the unit is performed, a wait, or physical memory that is not
there. -/
inductive Stop where
  | trap (cause : BitVec 8) (info addr : Word)
  | wait (kind num : Nat)
  | absent
  deriving DecidableEq, Repr

/-- An effect on the state. -/
abbrev Eff := Except Stop State

/-! ### Cause codes (03 R80) -/
def cIllegalOpcode : BitVec 8 := 0x01
def cIllegalOperand : BitVec 8 := 0x02
def cAddressClass : BitVec 8 := 0x04
def cAlign : BitVec 8 := 0x05
def cNotPresent : BitVec 8 := 0x06
def cRights : BitVec 8 := 0x07
def cBadScope : BitVec 8 := 0x08
def cHomeFenced : BitVec 8 := 0x09
def cWindowInvalid : BitVec 8 := 0x0A
def cWindowKey : BitVec 8 := 0x0B
def cWindowLimit : BitVec 8 := 0x0C
def cReservedField : BitVec 8 := 0x0D
def cUncorrectable : BitVec 8 := 0x0E
def cSoftwareTrap : BitVec 8 := 0x10
def cBreakpoint : BitVec 8 := 0x11
def cWatchpoint : BitVec 8 := 0x12
def cSingleStep : BitVec 8 := 0x13
def cFallow : BitVec 8 := 0x14
def cEngineFault : BitVec 8 := 0x15
def cSegmentOverrun : BitVec 8 := 0x16
def cPreempt : BitVec 8 := 0x17
def cQueueDeadlock : BitVec 8 := 0x18
def cPrivilege : BitVec 8 := 0x19

/-- A fault with no information word and no address (00 R4). -/
def trapOf {α : Type} (c : BitVec 8) : Except Stop α := .error (.trap c 0 0)

/-- A fault at an address (15 R368 `TADDR`). -/
def trapAt {α : Type} (c : BitVec 8) (addr : Word) : Except Stop α := .error (.trap c 0 addr)

/-- Go on when a condition holds, else fault. -/
def need (b : Bool) (c : BitVec 8) : Except Stop Unit := if b then .ok () else trapOf c

/-- Go on when a condition holds, else wait (15 R368 `TWAIT` kinds). -/
def orWait (b : Bool) (kind num : Nat) : Except Stop Unit := if b then .ok () else .error (.wait kind num)

/-- A cause code that is raised, and so may be written to a frame (03 R80, R81): any assigned one that is not reserved. -/
def causeWritable (c : Nat) : Bool := decide (1 ≤ c) && c ≠ 3 && c ≠ 15 && decide (c ≤ 0x19)

/-- A cause that is raised, by a free value. -/
def raisedCause (v : Word) : BitVec 8 :=
  let cs := (List.range 256).filter causeWritable
  BitVec.ofNat 8 (cs.getD (v.toNat % cs.length) 1)

/-! ### Landing (02 R38, R43, R46; 04 R96; 05 R110) -/

/-- Lanes of a register after a result lands. -/
def mergeLanes (r : Res) (old : Vec) (new : Vec) : Vec :=
  mkVec fun L => if bit r.lanes L then lane new L else if r.zero then 0 else lane old L

/-- Bits of a mask register after a result lands. -/
def mergeMask (r : Res) (old new : Lane) : Lane := (new &&& r.lanes) ||| (if r.zero then 0 else old &&& ~~~r.lanes)

/-- Push a value that lands at the end of cycle t: into its reserved entry, or as a permit (12 R312). -/
def Core.landQueue (c : Core) (q id : Nat) (v : Vec) (t : Nat) : Core :=
  if c.consumer q = 6 then c.modStrand 0 fun h => { h with permits := h.permits + 1 }
  else c.setQueue q ((c.queue q).land id v t)

/-- Land a result in a register of a strand, and raise its flags. -/
def Strand.landReg (t : Strand) (w : StrandWord) (r : Res) : Strand :=
  let n := w.d.toNat
  let t := { t with fsr := fsrRaise t.fsr r.fl }
  match w.dk with
  | .scal => t.setSreg n (lo64 r.val)
  | .vec =>
    let t := t.setVreg n (mergeLanes r (t.vreg n) r.val)
    if r.three then (t.setVreg (n + 1) r.v1).setVreg (n + 2) r.v2 else t
  | .pred => if r.toMask then t.setMreg n (mergeMask r (t.mreg n) (r.val.setWidth 32)) else t.setPred n (bit r.val 0)
  | .none => t

/-! ### Writes on their way home (07 R181, R186 to R188; 13 R326) -/

/-- Bytes of an L1 line (06 R164). -/
def lineSize : Nat := 128

/-- A store of a core that reaches its home updates the core's L1 copy of the line, if present (06 R164). -/
def Core.l1Write (c : Core) (key : Nat) (bytes : List (Option Byte)) : Core :=
  { c with l1 := c.l1.map fun (line, bs) =>
      (line, bs.zipIdx.map fun (b, i) =>
        if key ≤ line * lineSize + i then (bytes.getD (line * lineSize + i - key) none).getD b else b) }

/-- A write of a core is applied at its home. -/
def homeWrite (die core : Nat) (s : State) (h : Held) : State :=
  (s.putBytes h.key h.bytes).modCore die core fun c => c.l1Write h.key h.bytes

/-- Whether a slot is a posted write or atomic of a core's A strand. -/
def NetSlot.posted (x : NetSlot) (die core : Nat) : Bool :=
  decide (x.kind = .access) && decide (x.src = die) && x.words.getD 0 0 = BitVec.ofNat 64 core && x.words.getD 1 0 ≠ 0

/-- The posted writes and atomics of a core's A strand that their homes have not applied: on the rings, or arrived and
waiting (13 R326, R329). -/
def State.posts (s : State) (die core : Nat) : List NetSlot :=
  (s.net ++ s.dies.flatMap fun x => x.2.inbox).filter fun x => x.posted die core

/-- Those to dies of the package. -/
def State.flying (s : State) (die core : Nat) : List NetSlot := (s.posts die core).filter fun x => x.dst < 8

/-- Whether a strand has posted writes outstanding, to any die (07 R186). -/
def foreignOut (s : State) : Bool := decide (s.cur.strand = 1) && !(s.posts s.cur.die s.cur.core).isEmpty

/-- Whether a strand has posted writes outstanding in the package: what it holds is behind them (07 R181 edge 5). -/
def postsOut (s : State) (die core n : Nat) : Bool := decide (n = 1) && !(s.flying die core).isEmpty

/-- Send every held write of a core's H or A to its home (07 R187, 16 R402): none while earlier posted writes of the
strand are still on their way in the package. -/
def drainHeld (die core n : Nat) (s : State) : State :=
  if postsOut s die core n then s
  else
    ((s.strand die core n).held.foldl (homeWrite die core) s).modStrand die core n fun t => { t with held := [] }

/-- What the executing strand holds leaves for its home. -/
def leaveMine (s : State) : State := if s.cur.strand < 2 then drainHeld s.cur.die s.cur.core s.cur.strand s else s

/-- The executing strand's earlier writes reach their homes before the unit takes effect (07 R181). -/
def drainMine (s : State) : State :=
  if s.cur.strand < 2 then { leaveMine s with cur := { s.cur with ord := true } } else s

/-- What the executing strand holds goes home before the unit takes effect; with nothing held it is bound to nothing. -/
def behindHeld (s : State) : State := if s.me.held.isEmpty then s else drainMine s

/-- The unit is a release of the executing strand: every write it holds goes home, and the waits of 07 R186 apply. -/
def release (s : State) : State :=
  let s := drainMine s
  if s.cur.strand < 2 then { s with cur := { s.cur with rel := true } } else s

/-- Whether a destination is a queue: an index of 32 to 47 of a vector or scalar destination (02 R38). -/
def destQueue (w : StrandWord) : Option Nat :=
  if (w.dk = .vec ∨ w.dk = .scal) ∧ 32 ≤ w.d.toNat then some (w.d.toNat - 32) else none

/-- Land a result at the end of cycle t. -/
def Core.landRes (c : Core) (n : Nat) (w : StrandWord) (r : Res) (id t : Nat) : Core :=
  match destQueue w with
  | some q =>
    let c := c.modStrand n fun x => { x with fsr := fsrRaise x.fsr r.fl }
    c.landQueue q id (if w.dk = .vec then mergeLanes { r with zero := true } 0 r.val else ofWord (lo64 r.val)) t
  | none => c.modStrand n fun x => x.landReg w r

/-- The word as its result lands: the link of `call` and `callr` goes to `s30`, which the word does not name (04 R90). -/
def Flight.dest (f : Flight) : StrandWord :=
  if f.op = 0x044 ∨ f.op = 0x045 then { f.w with dk := .scal, d := 30#6 } else f.w

/-- Land one result in flight. -/
def Core.landFlight (c : Core) (f : Flight) : Core :=
  c.landRes f.strand f.dest (resultOf f.op f.w f.caps) f.rid f.due

/-- Land every result due at the end of cycle t, in issue order (02 R46, 00 R5). -/
def Core.landDue (c : Core) (t : Nat) : Core :=
  let c' := (c.flights.filter fun f => f.due = t).foldl Core.landFlight c
  { c' with flights := c.flights.filter fun f => f.due ≠ t }

/-- Reserve an entry of a queue; a full queue makes the instruction wait (04 R96). -/
def reserveEntry (q : Nat) (s : State) : Except Stop (State × Nat) :=
  if (s.myCore.queue q).room q s.cyc = 0 then .error (.wait 2 q)
  else
    let (x, id) := (s.myCore.queue q).reserve
    .ok (s.modMyCore fun c => c.setQueue q x, id)

/-- Reserve a result's queue entry, when it has one (04 R96): a request that has been answered has reserved it at its issue. A
push of H or A releases its strand's earlier writes (07 R182). A push to a permit queue never blocks (12 R312). -/
def reserveDest (w : StrandWord) (s : State) : Except Stop (State × Nat) :=
  match destQueue w with
  | none => .ok (s, 0)
  | some q =>
    if s.myCore.consumer q = 6 then .ok (release s, 0)
    else
      match s.cur.entry with
      | some e => .ok (release s, e.2)
      | none => (reserveEntry q s).map fun (s, id) => (release s, id)

/-- What an instruction captured: the old destination stands only with `movk`, `dep` and `vins` (15 R369). -/
def Caps.forOp (k : Caps) (op : Nat) : Caps := if op = 0x018 ∨ op = 0x01A ∨ op = 0x089 then k else { k with d := 0 }

/-- Land a captured result of H or A, in its destination or the queue entry reserved for it. -/
def landNow (op id : Nat) (w : StrandWord) (k : Caps) (s : State) : State :=
  s.modMyCore fun c => c.landRes s.cur.strand w (resultOf op w k) id s.cyc

/-- Deliver a captured result: on H and A it lands when the instruction completes; on an E strand it lands `lat` cycles
after issue, counting the issue cycle (02 R46, R47). -/
def deliver (op lat : Nat) (w : StrandWord) (k : Caps) (s : State) : Eff := do
  let (s, id) ← reserveDest w s
  if s.cur.strand < 2 then
    .ok (landNow op id w k s)
  else
    .ok (s.modMyCore fun c =>
      { c with flights := c.flights ++
          [{ due := s.cyc + lat - 1, strand := s.cur.strand, op, w, caps := k.forOp op, ipc := s.cur.pc, rid := id,
             iss := s.cyc + 1 }] })

/-- Land a 64-bit value in the destination, if the word has one. -/
def landWord (op lat : Nat) (w : StrandWord) (v : Word) (s : State) : Eff :=
  if w.dk = .none then .ok s else deliver op lat w { a := ofWord v } s

/-! ### Operands (02 R35, R36, R40; 04 R83; 05 R111) -/

/-- An acquire of the executing strand: its core's L1 lines of pages wider than CORE go (06 R164), and no later write merges
into a held one (07 R189). -/
def acquire (s : State) : State :=
  (s.modMyCore fun c => { c with l1 := [] }).modMe fun t => { t with held := t.held.map fun h => { h with closed := true } }

/-- Pop a queue: it waits until a landed entry stands at the head (04 R96); a pop of H or A acquires (07 R182). -/
def popQueue (q : Nat) (s : State) : Except Stop (Vec × State) :=
  match (s.myCore.queue q).pop s.cyc with
  | some (v, x) =>
    let s := s.modMyCore fun c => c.setQueue q x
    .ok (v, if s.cur.strand < 2 then acquire s else s)
  | none => .error (.wait 1 q)

/-- Read one source field. `lf` is the format a floating literal is converted to; 8 and above reads it as an integer. A
literal of a raw opcode (05 R118, R123), whose entry names no format, is read as an integer (log 3). -/
def readSrc (f : SForm) (lf : Nat) (x : BitVec 16) (src : Src) (s : State) : Except Stop (Vec × State) :=
  let t := s.me
  let n := src.idx.toNat
  match f with
  | .none => .ok (0, s)
  | .sel _ => .ok (BitVec.ofNat 1024 n, s)
  | .cbank => .ok (BitVec.ofNat 1024 n, s)
  | .selPred => .ok (if t.pred n then 1 else 0, s)
  | .selMask => .ok ((t.mreg n).setWidth 1024, s)
  | .immX => .ok (ofWord (x.setWidth 64), s)
  | .vreg _ => .ok (t.vreg n, s)
  | .s | .sf | .sNoX =>
    match src.kind with
    | .scal => if n ≤ 31 then .ok (ofWord (t.sreg n), s) else popQueue (n - 32) s
    | .cb => .ok (ofWord (s.myCore.cb t n), s)
    | _ => .ok (ofWord (if f = .sf then litWordF lf src.idx x else BitVec.ofInt 64 (litInt src.idx x)), s)
  | .v | .vf | .vq =>
    match src.kind with
    | .vec => if n ≤ 31 then .ok (t.vreg n, s) else popQueue (n - 32) s
    | .scal =>
      if n ≤ 31 then .ok (splat ((t.sreg n).setWidth 32), s)
      else (popQueue (n - 32) s).map fun (v, s) => (splat (v.setWidth 32), s)
    | .cb => .ok (splat ((s.myCore.cb t n).setWidth 32), s)
    | .lit => .ok (if f = .vf ∧ lf < 8 then litVecF lf src.idx x else litVecI src.idx x, s)

/-- A format code as it stands at issue: 0x3F reads the core's format table at `FTIX`; an entry that is reserved or
0x3F faults, and so does a code the opcode does not accept (02 R50, 05 R112). -/
def resolveFmt (f : Form) (code : Nat) (s : State) : Except Stop Nat :=
  if code = 63 ∧ f.lay ≠ .raw then
    let e := (Tab.get 0x3F#8 s.myCore.ftab s.myCore.ftix).toNat
    if !((decide (1 ≤ e) && decide (e ≤ 6)) || (decide (8 ≤ e) && decide (e ≤ 20))) then trapOf cReservedField
    else if f.accept e then .ok e else trapOf cIllegalOperand
  else .ok code

/-- The format table entry that a strand's instruction captures at issue (06 R148, 09 R223). -/
def capturedFmt (s : State) : Nat := (Tab.get 0x3F#8 s.myCore.ftab s.myCore.ftix).toNat

/-- The active lanes an extension field names (05 R110). -/
def readMask (f : Form) (x : BitVec 16) (t : Strand) : Lane :=
  if f.lay = .vec ∧ fld x 4 3 ≠ 0 then t.mreg (fld x 4 3) else BitVec.allOnes 32

/-- The old destination of an instruction that reads it (04 R85 `movk`, `dep`; 05 R118 `vins`). -/
def readOld (w : StrandWord) (t : Strand) : Vec :=
  match w.dk with
  | .scal => ofWord (t.sreg w.d.toNat)
  | .vec => t.vreg w.d.toNat
  | _ => 0

/-- Capture an instruction's operands at issue: A, then B, then C (02 R40). -/
def capture (f : Form) (lf : Nat → Nat) (w : StrandWord) (s : State) : Except Stop (Caps × State) := do
  let x := f.effX w
  let fmt ← resolveFmt f (fld x 8 8) s
  let t := s.me
  let (a, s) ← readSrc f.a (lf fmt) w.x w.a s
  let (b, s) ← readSrc f.b (lf fmt) w.x w.b s
  let (c, s) ← readSrc f.c (lf fmt) w.x w.c s
  .ok ({ a, b, c, d := readOld w t, mask := readMask f x t, x, fmt, rm := roundingMode (fld x 0 3) t.fsr }, s)

/-! ### The order of checks (02 R39, 03 R64 to R66, R81) -/

/-- Whether a queue that a source field pops has this strand as its consumer (02 R39); a selector names no queue (04 R83). -/
def popOk (c : Core) (strand : Nat) (f : SForm) (src : Src) : Bool :=
  let n := src.idx.toNat
  match f with
  | .s | .sf | .sNoX | .v | .vf | .vq => if (src.kind = .vec ∨ src.kind = .scal) ∧ 32 ≤ n then c.consumer (n - 32) = strand else true
  | _ => true

/-- Whether a push's queue has this strand as its producer (02 R39). -/
def pushOk (c : Core) (strand : Nat) (w : StrandWord) : Bool :=
  match destQueue w with
  | some q => c.producer q = strand && c.consumer q ≠ 7
  | none => true

/-- Whether the executing context holds supervisor privilege (00 R1, 15 R379). -/
def State.sup (s : State) : Bool := s.myCtx.sup

/-- Steps 1 and 2 of the checks and the privilege step (02 R39, 03 R66). -/
def checkWord (f : Form) (w : StrandWord) (s : State) : Except Stop Unit := do
  let n := s.cur.strand
  need (f.strands.allows n) cIllegalOpcode
  need (if n < 2 then !w.sy else w.sy = s.myCore.lock) cIllegalOperand
  need (!(f.branch && s.cur.bundle && n ≠ 2)) cIllegalOperand
  need (f.legal n w) cIllegalOperand
  need (popOk s.myCore n f.a w.a && popOk s.myCore n f.b w.b && popOk s.myCore n f.c w.c && pushOk s.myCore n w) cIllegalOperand
  need (!f.sup || s.sup) cPrivilege

/-- The guard as it stands at issue (02 R39 step 3). -/
def guardHolds (w : StrandWord) (s : State) : Bool := xor (s.me.pred w.pg.toNat) w.pn

/-! ### Event counters (16 R410, R411) -/

/-- Whether a counter counts an event of a code: `who` is the context slot and core it is attributed to. -/
def counts (d : Die) (cfg : Word) (code : Nat) (slot core : Option Nat) : Bool :=
  bit cfg 63 && fld cfg 0 12 = code && (!bit cfg 60 || slot = some (fld cfg 56 4)) &&
    (!bit cfg 55 || core = some (fld cfg 48 7)) &&
    !(bit cfg 61 && fld (Tab.get {} d.ctxs (fld cfg 56 4)).fwstat 61 3 ≠ 0)

/-- A counter advanced: passing 2^48 - 1 it wraps and sets `OVF` (16 R410). -/
def Counter.add (c : Counter) (n : Nat) : Counter :=
  { c with count := (c.count + n) % 2 ^ 48, ovf := c.ovf || decide (2 ^ 48 ≤ c.count + n) }

/-- Count n events of a code. -/
def countEv (die code : Nat) (slot core : Option Nat) (n : Nat) (s : State) : State :=
  if (s.die die).counters.isEmpty then s
  else s.modDie die fun d =>
    { d with counters := d.counters.map fun (k, c) => (k, if counts d c.cfg code slot core then c.add n else c) }

/-- A counter at the end of a cycle takes a configuration written in it (16 R410). -/
def Counter.endCycle (c : Counter) : Counter :=
  match c.next with
  | none => c
  | some w => if bit w 62 then { cfg := w } else { c with cfg := w, next := none }

/-! ### Notifications and fault records (17 R431 to R433; 08 R199, R200) -/

/-- The die whose port signals the notifications of a die: die 0 or die 4, the other when it is fenced (17 R431). -/
def portOf (s : State) (die : Nat) : Nat :=
  let p := die / 4 * 4
  if (s.die p).fenced then 4 - p else p

/-- Signal a vector for a die: a message, or one more event merged with the message of the last microsecond (17 R431). -/
def signalVector (die v : Nat) (s : State) : State :=
  s.modDie (portOf s die) fun d =>
    if Tab.get 0 d.msixHold v = 0 then { d with msixHold := Tab.put d.msixHold v 1000 }
    else { d with msixMore := Tab.put d.msixMore v true }

/-- Notify the supervisor: append a 32-byte record to the die's notification ring, or drop and count it; the vector of
its kind is signalled, or merged with one signalled within the last microsecond, when its interrupt is enabled. -/
def notify (die kind : Nat) (cause : BitVec 8) (agent ring slot : Nat) (detail addr : Word) (s : State) : State :=
  let d := s.die die
  let cfg := d.dbgReg 0x930
  let size := 2 ^ fld cfg 58 5
  if !bit cfg 63 || (d.notHead % 2 ^ 32 + 2 ^ 32 - d.notAck % 2 ^ 32) % 2 ^ 32 = size then
    s.modDie die fun d => { d with notLost := min (d.notLost + 1) (2 ^ 32 - 1) }
  else
    let w0 : Word := BitVec.ofNat 64 (cause.toNat * 2 ^ 56 + agent % 4096 * 2 ^ 44 + ring % 64 * 2 ^ 38 +
      kind % 16 * 2 ^ 34 + slot % 16 * 2 ^ 30)
    let at_ := keyDcm die (fld cfg 0 22 * 32 + d.notHead % size * 32)
    let s := (((s.putWord at_ w0).putWord (at_ + 8) detail).putWord (at_ + 16) addr).putWord (at_ + 24) d.ftime
    let s := s.modDie die fun d => { d with notHead := d.notHead + 1 }
    if bit cfg (24 + kind) then signalVector die (fld (d.dbgReg 0x933) (6 * kind) 6) s else s

/-- No agent (08 R209 class 3). -/
def agentNone : Nat := 0xC00
/-- Agent identity of a strand (08 R209). -/
def agentStrand (core strand : Nat) : Nat := core * 8 + strand
/-- Agent identity of engine n (08 R209). -/
def agentEngine (n : Nat) : Nat := 0x400 + n

/-- Words a ring holds. -/
def Ring.size (r : Ring) : Nat := 2 ^ fld r.cfg 31 5
/-- Key of word i of a ring (08 R194). -/
def ringKey (die : Nat) (r : Ring) (i : Nat) : Nat := keyDcm die (fld r.cfg 0 23 * 8 + 8 * (i % r.size))
/-- Owner of a ring (08 R195). -/
def Ring.owner (r : Ring) : Nat := fld r.cfg 36 4
/-- Whether a ring is enabled (08 R195). -/
def Ring.en (r : Ring) : Bool := bit r.cfg 40

/-- Die common address of word i of a ring, as its owner reaches it (06 R132, 08 R194). -/
def ringVa (die : Nat) (r : Ring) (i : Nat) (s : State) : Word :=
  let w := (s.ctx die r.owner).reg 0x01D
  0xFFF3000000000000#64 + BitVec.ofNat 64 (ringKey die r i - keyDcm die (fld w 32 32 * 65536))

/-- The first of n words of a ring from index i that holds an uncorrectable error: its address (01 R10). -/
def ringBad (die : Nat) (r : Ring) (i n : Nat) (s : State) : Option Word :=
  ((List.range n).find? fun j => (s.badIn (ringKey die r (i + j)) 8).isSome).map fun j => ringVa die r (i + j) s

/-- Append words to a ring that has room for them all; else report that it has not. -/
def ringAppend (die n : Nat) (ws : List Word) (s : State) : Option State :=
  let r := s.ring die n
  if !r.en || r.size < r.tail - r.head + ws.length then none
  else
    let s := (List.range ws.length).foldl (fun s i => s.putWord (ringKey die r (r.tail + i)) (ws.getD i 0)) s
    some (s.modRing die n fun r => { r with tail := r.tail + ws.length })

/-- Increment a flag of a context: it is observed from the next cycle (08 R202). Flag 0 ignores increments. -/
def flagInc (die slot n k : Nat) (who : BitVec 16) (s : State) : State :=
  if n = 0 then s else s.modCtx die slot fun c => { c with flagAdds := c.flagAdds ++ [(n, k, who)] }

/-- Append a fault record of a field time to a context's fault ring, or drop and count it (08 R200). -/
def faultRecordAt (time : Word) (die slot : Nat) (cause : BitVec 8) (agent ring idx : Nat) (addr info : Word) (s : State) : State :=
  let w0 : Word := BitVec.ofNat 64 (cause.toNat * 2 ^ 56 + agent % 4096 * 2 ^ 44 + ring % 64 * 2 ^ 38 + idx % 2 ^ 32)
  let n := 24 + slot
  let s := if cause = cUncorrectable then countEv die 0x013 none none 1 s else s
  match ringAppend die n [w0, addr, info, time] s with
  | some s => s
  | none => s.modRing die n fun r => { r with lost := min (r.lost + 1) 16383 }

/-- Append a fault record as of now (08 R200). -/
def faultRecord (die slot : Nat) (cause : BitVec 8) (agent ring idx : Nat) (addr info : Word) (s : State) : State :=
  faultRecordAt (s.die die).ftime die slot cause agent ring idx addr info s

/-- An engine stops a ring (08 R199): the record is appended, `FFLAG` incremented, the supervisor notified. -/
def ringStop (die n : Nat) (cause : BitVec 8) (agent : Nat) (addr info : Word) (s : State) : State :=
  let r := s.ring die n
  let s := s.modRing die n fun r => { r with state := 3, cause, off := r.head, granted := false }
  let s := faultRecord die r.owner cause agent n r.head addr info s
  let s := flagInc die r.owner (fld r.cfg 41 7) 1 (BitVec.ofNat 16 agent) s
  notify die 0 cause agent n r.owner (BitVec.ofNat 64 r.head) addr s

/-- The record of a wait that has ended, when it lasted long enough (08 R211). -/
def logWait (die slot flag waiter signaller cycles : Nat) (s : State) : State :=
  let d := s.die die
  let thr := fld d.wfthr 0 32
  if thr = 0 ∨ cycles < thr then s
  else
    let rec_ : Word := BitVec.ofNat 64 (slot % 16 * 2 ^ 60 + flag % 128 * 2 ^ 53 + waiter % 4096 * 2 ^ 41 +
      signaller % 4096 * 2 ^ 29 + min cycles (2 ^ 29 - 1))
    s.modDie die fun d =>
      if d.wflog.length < 4096 then { d with wflog := d.wflog ++ [rec_] }
      else { d with wflost := min (d.wflost + 1) (2 ^ 32 - 1) }

/-! ### Traps (15 R365 to R369) -/

/-- What `TWAIT` shows of how a strand stands: a wait's kind and number, parked or done (15 R368). -/
def waitCode : Run → Nat × Nat
  | .blocked k n => (k, n)
  | .parked => (6, 0)
  | .done => (7, 0)
  | _ => (0, 0)

/-- `TWAIT` word of a strand (15 R368). -/
def twaitWord (t : Strand) : Word := BitVec.ofNat 64 ((waitCode t.run).1 * 2 ^ 60 + (waitCode t.run).2 % 256 * 2 ^ 52)

/-- `TRPT` word of a strand (15 R368). -/
def trptWord (r : Rpt) : Word :=
  if r.active then BitVec.ofNat 64 (2 ^ 63 + (r.n - 1) % 512 * 2 ^ 54 + r.pos % 512 * 2 ^ 45 + r.left % 2 ^ 32) else 0

/-- The queue occupancies of the frame (15 R368 words 32 and 33). -/
def qoccWords (c : Core) : Word × Word :=
  (BitVec.ofNat 64 ((List.range 8).foldl (fun a q => a + (c.queue q).ents.length % 16 * 16 ^ q) 0),
   BitVec.ofNat 64 ((List.range 8).foldl (fun a q => a + (c.queue (q + 8)).ents.length % 64 * 64 ^ q) 0))

/-- The sync-bit values as the present cycle leaves them: a bit set and cleared in one cycle ends it at 1 (04 R94). -/
def Core.sbEnd (c : Core) : BitVec 16 := (c.sbVal &&& ~~~c.sbClr) ||| c.sbSet

/-- The sync-bit words of the frame (15 R368 words 36 and 37): what issued in the trap cycle counts (04 R94). -/
def sbWords (c : Core) : Word × Word :=
  (c.sbEnd.setWidth 64,
   BitVec.ofNat 64 ((List.range 16).foldl (fun a n => a + (Tab.get 0#4 c.sbArr n).toNat * 16 ^ n) 0))

/-- The frame words that show a strand (15 R368). -/
def Frame.showStrand (f : Frame) (c : Core) (n : Nat) : Frame :=
  let t := c.strand n
  { f with
    tpc := Tab.put f.tpc n t.pc
    wait := Tab.put f.wait n (twaitWord t)
    rpt := Tab.put f.rpt n (trptWord t.rpt) }

/-- Team-slot words of the frame (15 R368 words 40 to 47). -/
def teamWords (t : Strand) : Tab Word :=
  (List.range 4).foldl (fun acc i =>
    let m := Tab.get ({} : TeamSlot) t.teams i
    let acc := Tab.put acc (2 * i) m.desc
    Tab.put acc (2 * i + 1)
      (BitVec.ofNat 64 (m.gen.toNat * 2 ^ 32 + b2n m.valid * 2 ^ 31 + m.rank % 2 ^ 24))) []

/-- Stop a strand: it keeps its PC, and a finished one stays as it is (15 R365, R371). -/
def Strand.halt (t : Strand) : Strand := if t.run = .done ∨ t.run = .idle then t else { t with run := .stopped, kept := none }

/-- A request that has faulted leaves its strand, and the queue entry it reserved is given up (04 R96). -/
def Core.dropPend (c : Core) : Core :=
  let c' := match (c.strand 1).pend.bind Pend.entry with
    | some (q, id) => c.setQueue q ((c.queue q).unreserve id)
    | none => c
  c'.modStrand 1 fun t => { t with pend := none }

/-- A context without waiters of some strands: with nothing left in the ring no entry spills (12 R306). -/
def Ctx.dropWaiters (c : Ctx) (p : Nat → Bool) : Ctx :=
  let keep := fun (w : Nat × Nat × Nat) => !(decide (w.2.1 = 1) && p w.2.2)
  let ring := c.evRing.filter keep
  { c with evWait := c.evWait.filter keep, evRing := ring, evSpill := if ring.isEmpty then [] else c.evSpill,
           evAllSpill := !ring.isEmpty && c.evAllSpill }

/-- The instruction at which a strand of a core stands blocked is abandoned (15 R365): it waits on no event any more, and its wait
on a flag has ended with no increment (08 R211; log 17). -/
def abandon (die slot core : Nat) (c : Core) (s : State) (n : Nat) : State :=
  let t := c.strand n
  match t.run with
  | .blocked 8 f => logWait die slot f (agentStrand core n) agentNone ((s.die die).cyc - t.waitFrom) s
  | .blocked 10 _ => s.modCtx die slot fun x => x.dropWaiters fun m => m = 8 * core + n
  | _ => s

/-- Every blocked strand of a core abandons its instruction. -/
def abandonAll (die slot core : Nat) (c : Core) (s : State) : State :=
  (List.range 6).foldl (abandon die slot core c) s

/-- Put a result in flight among others: before those of its own issue cycle of later strands (15 R369). -/
def insertFlight (f : Flight) : List Flight → List Flight
  | [] => [f]
  | g :: gs => if f.iss = g.iss ∧ f.iss ≠ 0 ∧ f.strand < g.strand then f :: g :: gs else g :: insertFlight f gs

/-- Results in flight in issue order, those of one cycle in the order of their strands (15 R369). -/
def issueOrder (fs : List Flight) : List Flight := fs.foldl (fun acc f => insertFlight f acc) []

/-- The core takes a trap in cycle t: the strands stop, and the frame is filled (15 R365, R368, R369). Results due at
the end of cycle t - 1 or earlier have landed or still land then; every later one becomes a replay entry. H runs on to
its stop unit unless it is blocked (`hStopBy`). -/
def Core.takeFrame (c : Core) (cause : BitVec 8) (strd : Nat) (prec : Bool) (info addr : Word) (upc : Option Word)
    (t : Nat) : Core :=
  let later := issueOrder (c.flights.filter fun f => t ≤ f.due)
  let f0 : Frame :=
    { cause, strd, prec, info, addr, lock := c.lock, qocc := qoccWords c, sb := sbWords c,
      teams := teamWords (c.strand 1), since := t,
      skip := (cause = cBreakpoint && bit info 63) || (cause = cWatchpoint && prec), upc := upc.getD (if strd < 6 then (c.strand strd).pc else 0),
      replay := later.map fun f => { f with due := f.due + 1 - t } }
  let f := (List.range 6).foldl (fun f n => f.showStrand c n) f0
  let hRuns := strd ≠ 0 && (c.strand 0).run = .running
  let c := { c with frame := some f, flights := c.flights.filter fun f => f.due < t, due := none, dlk := 0,
                    hStopBy := if hRuns then some (t + 16) else none }
  let c := c.dropPend
  (List.range 6).foldl (fun c n => if n = 0 && hRuns then c else c.modStrand n Strand.halt) c

/-- `TCAUSE` of a frame (15 R368). -/
def Frame.tcause (f : Frame) : Word := BitVec.ofNat 64 (f.cause.toNat * 2 ^ 56 + f.strd % 8 * 2 ^ 53 + b2n f.prec * 2 ^ 52)

/-- Handler mode: A saves s28 and s29, loads them with the cause and the information word, and issues from `TVEC` in
cycle t + 2 (15 R367). -/
def enterHandler (die core : Nat) (tvec : Word) (s : State) : State :=
  s.modCore die core fun c =>
    match c.frame with
    | none => c
    | some f =>
      let a := c.strand 1
      { (c.modStrand 1 fun a =>
          { ((a.setSreg 28 f.tcause).setSreg 29 f.info) with
            handler := true, pc := tvec, run := .running, ready := f.since + 2, rpt := {}, seg := a.seg }) with
        frame := some { f with s28 := a.sreg 28, s29 := a.sreg 29 } }

/-- The cores of a die that hold an iteration of a context. -/
def coresOf (die slot : Nat) (s : State) : List Nat :=
  ((s.die die).cores.filter fun (_, c) =>
    match c.iter with
    | some i => decide (i.slot = slot)
    | none => false).map Prod.fst

/-- The core's strands stop and its frame is filled; the writes its H and A hold leave (15 R365; 16 R402). -/
def stopCore (die n : Nat) (d : TrapDue) (s : State) : State :=
  let s := abandonAll die (s.core die n).slot n (s.core die n) s
  let s := s.modCore die n fun c =>
    if c.frame.isSome then c.modStrand 1 Strand.halt else c.takeFrame d.cause d.strd d.prec d.info d.addr d.upc d.t
  drainHeld die n 1 (drainHeld die n 0 s)

/-- A trap comes due on a core: the first one stands (15 R365), but a strand's own trap comes before a stop from outside (15
R382). -/
def raiseDue (die core : Nat) (d : TrapDue) (s : State) : State :=
  s.modCore die core fun c =>
    { c with due := some (match c.due with | some e => if e.stop && !d.stop then d else e | none => d) }

/-- An iteration that a rotation switch took off its core stops where it stands. -/
def Core.stopAway (c : Core) (d : TrapDue) : Core :=
  if c.iter.isNone || c.frame.isSome then c
  else { c.takeFrame d.cause d.strd d.prec d.info d.addr d.upc d.t with hStopBy := none }

/-- The cores of a context stop: each takes a frame of a cause in the next cycle, unless it holds one: then its A strand stops
(15 R365, R380; 16 R401). A core whose A strand has an access outstanding stops when that is complete. -/
def stopCores (die slot : Nat) (cause : BitVec 8) (info : Word) (s : State) : State :=
  let d : TrapDue := { stop := true, strd := 7, cause, info, t := (s.die die).cyc + 1 }
  let away := (s.die die).parked.filter fun x => decide (x.1 < 2048) && decide (x.1 % 16 = slot)
  let s := away.foldl (fun s x => abandonAll die slot (x.1 / 16) x.2 s) s
  let s := s.modDie die fun x =>
    { x with parked := x.parked.map fun (k, c) => (k, if k % 16 = slot then c.stopAway d else c) }
  (coresOf die slot s).foldl (fun s n =>
    if ((s.core die n).strand 1).pend.isSome || (s.core die n).frame.isNone then raiseDue die n d s
    else stopCore die n d s) s

/-- The collector sends the stop of a pre-emption: every core holding an iteration of the context takes a frame with
cause `PREEMPT` unless it holds one, the engines of the context stop, and `STATE` becomes 2 (15 R380, R381). -/
def startPreempt (die slot : Nat) (cause : BitVec 8) (core : Nat) (s : State) : State :=
  if (s.ctx die slot).state ≠ 1 then s
  else
    let s := s.modCtx die slot fun c => { c with state := 2, lcause := cause, lcore := core, stopTime := (s.die die).ftime }
    countEv die 0x051 (some slot) none 1 (stopCores die slot cPreempt 0 s)

/-! ### The fallow wave (16 R400 to R406) -/

/-- `FST` of a context (16 R404). -/
def Ctx.fst (c : Ctx) : Nat := fld c.fwstat 61 3
/-- Whether a context's engines run: it is running and no wave holds it (15 R381, 16 R403). -/
def enginesRun (x : Ctx) : Bool := x.state = 1 && x.fst = 0

/-- Set `FST`. -/
def Ctx.setFst (c : Ctx) (v : Nat) : Ctx := { c with fwstat := setFld c.fwstat 61 3 v }
/-- `WSEQ` of a context (16 R404). -/
def Ctx.wseq (c : Ctx) : Nat := fld c.fwstat 32 16

/-- A cause record's words w0 to w3 (16 R405); the `SEC` bit is set by its place. -/
def causeWords (odie agent : Nat) (cause : BitVec 8) (wseq : Nat) (pc time info : Word) : List Word :=
  [BitVec.ofNat 64 (odie % 8192 * 2 ^ 51 + agent % 4096 * 2 ^ 39 + cause.toNat * 2 ^ 31 + wseq % 65536), pc, time, info]

/-- What cause records are ordered by: `OTIME`, `ODIE`, `AGENT` (16 R406). -/
def causeKey (r : List Word) : Nat × Nat :=
  ((r.getD 2 0).toNat, fld (r.getD 0 0) 39 25)

/-- Whether a cause record comes before another (16 R406). -/
def causeBefore (a b : List Word) : Bool :=
  decide ((causeKey a).1 < (causeKey b).1) ||
    (decide ((causeKey a).1 = (causeKey b).1) && decide ((causeKey a).2 ≤ (causeKey b).2))

/-- Insert a cause record in order (16 R406). -/
def causeInsert (r : List Word) : List (List Word) → List (List Word)
  | [] => [r]
  | x :: xs => if causeBefore x r then x :: causeInsert r xs else r :: x :: xs

/-- Mark the first record primary and the others secondary (16 R405). -/
def causeMark (rs : List (List Word)) : List (List Word) :=
  rs.zipIdx.map fun (r, i) => (setFld (r.getD 0 0) 30 1 (if i = 0 then 0 else 1)) :: r.drop 1

/-- A context takes in a cause record: at most 8 stay, and one dropped is counted (16 R404, R406). -/
def Ctx.addCause (c : Ctx) (r : List Word) : Ctx :=
  let rs := causeInsert r c.fwRecs
  { c with fwRecs := causeMark (rs.take 8),
           fwstat := if 8 < rs.length then setFld c.fwstat 48 8 (min (fld c.fwstat 48 8 + 1) 255) else c.fwstat }

/-- A cause record of another die: where it is the primary, the context takes its sequence (16 R406). -/
def Ctx.joinCause (c : Ctx) (r : List Word) : Ctx :=
  let x := c.addCause r
  { x with fwstat := setFld x.fwstat 32 16 (fld ((x.fwRecs.headD []).getD 0 0) 0 16) }

/-- The slots of a transfer: a slot carries 64 bytes of payload, and further ones of its class carry the rest (01 R24, 13
R340). -/
def slotsOf (id : Nat) (kind : SlotKind) (src dst : Nat) (words : List Word) (data : List Byte) : List NetSlot :=
  { id, kind, src, dst, words, data := data.take 64, more := (data.length - 1) / 64 } ::
    (List.range ((data.length - 1) / 64)).map fun i =>
      { id := id + 1 + i, kind, src, dst, words, data := (data.drop (64 * (i + 1))).take 64, part := some id }

/-- Send a transfer on the rings (13 R326). -/
def send (kind : SlotKind) (src dst : Nat) (words : List Word) (data : List Byte) (s : State) : State :=
  let xs := slotsOf s.nextReq kind src dst words data
  { s with net := s.net ++ xs, nextReq := s.nextReq + xs.length }

/-- The contexts of a job on a die. -/
def jobSlots (s : State) (die : Nat) (job : BitVec 16) : List Nat :=
  (List.range 16).filter fun k => (s.ctx die k).state ≠ 0 && (s.ctx die k).job = job

/-- A fallow wave stops the deadlines of its job's reduction slots at a die (14 R364). -/
def stopDeadlines (die : Nat) (job : BitVec 16) (s : State) : State :=
  s.modDie die fun d =>
    { d with slots := d.slots.map fun (k, x) =>
        (k, if x.job = job ∧ x.stopAt.isNone then { x with stopAt := some d.ftime.toNat } else x) }

/-- The wave reaches a die: each context of the job there takes the wave's sequence, clears its records, stops its
cores, and stops its engines with `FST` 1 (16 R401, R403, R406). A context already in a wave keeps it. -/
def waveArrive (die : Nat) (job : BitVec 16) (wseq : Nat) (s : State) : State :=
  let s := stopDeadlines die job (s.modDie die fun d => { d with resumes := d.resumes.filter fun x => x.1 ≠ job.toNat })
  (jobSlots s die job).foldl (fun s k =>
    if (s.ctx die k).fst ≠ 0 then s
    else
      let s := s.modCtx die k fun c =>
        { c.setFst 1 with fwRecs := [], fwstat := setFld (setFld (c.setFst 1).fwstat 48 8 0) 32 16 wseq }
      if (s.ctx die k).state = 1 then stopCores die k cFallow (BitVec.ofNat 64 wseq) s
      else s) s

/-- A die notes that a wave of a job comes from a die. Its word for the job has the sources in [7:0], those it has reported
to in [15:8], the dies that have reported to it in [23:16], whether it has sent the frozen state in [24], and the wave's
sequence in [47:32] (16 R401, R402). -/
def noteWave (die : Nat) (job : BitVec 16) (wseq src : Nat) (s : State) : State :=
  s.modDie die fun d =>
    let w := Tab.get 0#64 d.fallow job.toNat
    let w := if fld w 32 16 = wseq then w else BitVec.ofNat 64 (wseq * 2 ^ 32)
    { d with fallow := Tab.put d.fallow job.toNat (w ||| (1#64 <<< (src % 8))) }

/-- A cause record reaches a die: every context of the job there keeps it, as `take` says (16 R406). -/
def causeArrive (die : Nat) (job : BitVec 16) (take : Ctx → List Word → Ctx) (r : List Word) (s : State) : State :=
  (jobSlots s die job).foldl (fun s k => s.modCtx die k fun c => take c r) s

/-- The wave of a context's job is launched from a die (16 R400, R401): it acts there at once, and priority slots carry
it and its cause record to every other die in service. With a wave under way the launch only adds its record. -/
def launchWave (die slot : Nat) (cause : BitVec 8) (agent : Nat) (pc info : Word) (s : State) : State :=
  let x := s.ctx die slot
  let fresh := x.fst = 0
  let wseq := if fresh then (x.wseq + 1) % 65536 else x.wseq
  let r := causeWords (dieIdentity die) agent cause wseq pc (s.die die).ftime info
  let others := s.unfenced.filter (· ≠ die)
  let s := if fresh then waveArrive die x.job wseq (noteWave die x.job wseq die s) else s
  let s := causeArrive die x.job Ctx.addCause r s
  let s := others.foldl (fun s d =>
    let s := if fresh then send .wave die d [x.job.setWidth 64, BitVec.ofNat 64 wseq] [] s else s
    send .causeRec die d (x.job.setWidth 64 :: r) [] s) s
  if fresh then
    notify die 5 0 agent 63 slot (BitVec.ofNat 64 wseq) 0 (countEv die 0x060 (some slot) none 1 s)
  else s

/-- `ACT` of the watchpoint a watch information word names (16 R390, R397). -/
def watchAct (x : Ctx) (info : Word) : Nat := fld (x.brkReg (0x811 + 2 * fld info 29 3)) 48 2

/-- Whether a trap launches the wave whatever `TRPOL` says (16 R398, R409). -/
def launches (x : Ctx) (cause : BitVec 8) (prec : Bool) (info : Word) : Bool :=
  cause = cFallow || (cause = cWatchpoint && prec && watchAct x info = 2)

/-- The disposition of a trap (15 R366; 16 R398, R409): `FALLOW` and a watchpoint of `ACT` 2 launch the wave; the stop of a remote writer is its own context's to decide. -/
def disposition (x : Ctx) (cause : BitVec 8) (prec : Bool) (info : Word) : Nat :=
  if launches x cause prec info then 2
  else if cause.toNat < 32 then fld (x.reg 0x011) (2 * cause.toNat) 2
  else 0

/-- A trap goes to the supervisor: the context is pre-empted and the supervisor notified (15 R366 value 0). -/
def trapSupervisor (die core strd : Nat) (cause : BitVec 8) (addr : Word) (s : State) : State :=
  let slot := (s.core die core).slot
  notify die 3 cause (if strd < 6 then agentStrand core strd else agentNone) 63 slot
    (BitVec.ofNat 64 (strd % 8 * 128 + core)) addr (startPreempt die slot cause core s)

/-- What follows a trap: the supervisor, the handler, or the wave (15 R366, R367). -/
def disposeTrap (die core : Nat) (s : State) : State :=
  let c := s.core die core
  let x := s.ctx die c.slot
  match c.frame with
  | none => s
  | some f =>
    let how := disposition x f.cause f.prec f.info
    if how = 1 ∧ x.reg 0x012 ≠ 0 then enterHandler die core (x.reg 0x012) s
    else if how = 2 then
      let s := launchWave die c.slot f.cause (if f.strd < 6 then agentStrand core f.strd else agentNone) f.upc f.info s
      if f.cause = cFallow then
        s.modCore die core fun c =>
          { c with frame := c.frame.map fun f => { f with info := BitVec.ofNat 64 (s.ctx die c.slot).wseq } }
      else s
    else trapSupervisor die core f.strd f.cause f.addr s

/-- A watchpoint hit is counted, and its fault record noted for the end of the cycle (16 R399). -/
def noteHit (die rank slot agent : Nat) (info addr : Word) (s : State) : State :=
  countEv die 0x061 (some slot) none 1 (s.modDie die fun d =>
    { d with hits := d.hits ++ [{ rank, slot, agent, addr, info, time := d.ftime }] })

/-- A strand's own watchpoint hit: strands come first, by core (16 R399). -/
def watchRecord (die core strd : Nat) (info addr : Word) (s : State) : State :=
  noteHit die (agentStrand core strd) (s.core die core).slot (agentStrand core strd) info addr s

/-- Take a trap on a core in cycle t (15 R365 to R369). A trap in handler mode keeps the frame, records its cause in
`TSCND` and goes to the supervisor; one that launches the wave launches it there too (16 R398, R409; log 17). -/
def takeTrap (die core strd : Nat) (cause : BitVec 8) (prec : Bool) (info addr : Word) (upc : Option Word) (t : Nat)
    (s : State) : State :=
  let s := if cause = cWatchpoint ∧ prec then watchRecord die core strd info addr s else s
  let s := if cause = cUncorrectable then countEv die 0x013 none none 1 s else s
  let c := s.core die core
  let s := abandonAll die c.slot core c s
  if (c.strand 1).handler then
    let s := s.modCore die core fun c =>
      { (c.modStrand 1 Strand.halt) with
        frame := c.frame.map fun f => { f with scnd := cause } }
    let s := trapSupervisor die core strd cause addr s
    if launches (s.ctx die c.slot) cause prec info then
      launchWave die c.slot cause (if strd < 6 then agentStrand core strd else agentNone) (upc.getD (c.strand strd).pc) info s
    else s
  else
    let s := s.modCore die core fun c => c.takeFrame cause strd prec info addr upc t
    disposeTrap die core (drainHeld die core 1 (drainHeld die core 0 s))

/-! ### Agents served in an order within a cycle (06 R154; 08 R204; 12 R307, R321; 13 R339) -/

/-- Serve an agent of a rank at a thing of a die in this cycle: after one of a higher rank it waits for the next (log 7). -/
def serve (die thing rank : Nat) (s : State) : Except Stop State :=
  if rank < Tab.get 0 (s.die die).served thing then .error (.wait 10 0)
  else .ok (s.modDie die fun d => { d with served := Tab.put d.served thing rank })

/-- Serve one request a cycle at a thing of a die (06 R154). -/
def serveOne (die thing : Nat) (s : State) : Except Stop State :=
  if Tab.get 0 (s.die die).served thing ≠ 0 then .error (.wait 10 0)
  else .ok (s.modDie die fun d => { d with served := Tab.put d.served thing 1 })

/-- Rank of the executing strand: by core, H before A. -/
def State.rank (s : State) : Nat := 8 * s.cur.core + s.cur.strand + 1
/-- Rank of an engine, by a number: after every strand. -/
def rankEngine (n : Nat) : Nat := 4096 + n
/-- Rank of a task's completion: the last (12 R307). -/
def rankLast : Nat := 2 ^ 20
/-- A context's flag. -/
def thingFlag (slot n : Nat) : Nat := slot * 128 + n
/-- A context's event. -/
def thingEvent (slot n : Nat) : Nat := 2 ^ 20 + slot * 65536 + n
/-- An entry of the tile table. -/
def thingTile (key : Nat) : Nat := 2 ^ 24 + key
/-- The receive engine. -/
def thingRxe : Nat := 2 ^ 25
/-- A die's ring station, or its rack stile's, by the first key of its slots (14 R355). -/
def thingStation (base : Nat) : Nat := 2 ^ 27 + base
/-- The scheduler, which takes one packet a cycle (12 R300). -/
def thingScheduler : Nat := 2 ^ 25 + 1
/-- A command ring, whose head its engine examines once a cycle (08 R198). -/
def thingRing (n : Nat) : Nat := 2 ^ 25 + 2 + n
/-- A context's packets and its teardown. -/
def thingLaunch (slot : Nat) : Nat := 2 ^ 26 + slot

/-! ### How a unit ends -/

/-- Advance a repeat loop past a unit: the loop-back from the last unit of the body (04 R92). -/
def Strand.stepRpt (t : Strand) (pc npc : Word) (unit : Nat) (jumped : Bool) : Strand :=
  if !t.rpt.active then { t with pc := npc }
  else if jumped then { t with pc := npc, rpt := {} }
  else if t.rpt.pos + 1 < t.rpt.n then { t with pc := npc, rpt := { t.rpt with pos := t.rpt.pos + 1 } }
  else if t.rpt.left ≤ 1 then { t with pc := npc, rpt := {} }
  else
    { t with pc := pc - BitVec.ofNat 64 (unit * (t.rpt.n - 1)), rpt := { t.rpt with pos := 0, left := t.rpt.left - 1 } }

/-- The strands whose PC a unit moves: all four E strands in lock-step state, else the executing one (02 R48). -/
def unitStrands (s : State) : List Nat :=
  if 2 ≤ s.cur.strand ∧ s.myCore.lock then [2, 3, 4, 5] else [s.cur.strand]

/-- Bytes of the instruction unit (04 R89). -/
def unitBytes (s : State) : Nat := if 2 ≤ s.cur.strand ∧ s.myCore.lock then 32 else 8

/-- H stops at its stop unit and the frame shows where (15 R365). -/
def haltH (die core : Nat) (s : State) : State :=
  (abandon die (s.core die core).slot core (s.core die core) s 0).modCore die core fun c =>
    let c' := (c.modStrand 0 Strand.halt)
    { c' with hStopBy := none, frame := c.frame.map fun f => f.showStrand c 0 }

/-- A unit faults in this cycle. H on its way to its stop unit stops before it. While the core's A strand has an access outstanding, the
trap stays due; a core that has issued an E unit in this cycle already takes it in the next, since none issues in the trap cycle (15
R365; log 7). -/
def raiseTrap (die core strd : Nat) (cause : BitVec 8) (info addr : Word) (s : State) : State :=
  if strd = 0 && (s.core die core).frame.isSome then haltH die core s
  else if (strd ≠ 1 && ((s.core die core).strand 1).pend.isSome) || (s.core die core).eIssued then
    raiseDue die core { strd, cause, info, addr, t := (s.die die).cyc + b2n (s.core die core).eIssued } s
  else takeTrap die core strd cause true info addr none (s.die die).cyc s

/-- Mark the strands of a unit as waiting at it (15 R368 `TWAIT`). -/
def markWait (kind num : Nat) (s : State) : State :=
  let s := (unitStrands s).foldl (fun s n => s.modStrand s.cur.die s.cur.core n fun t =>
    { t with run := .blocked kind num, tried := s.cyc,
             waitFrom := if t.run = .blocked kind num then t.waitFrom else s.cyc }) s
  { s with verdict := .waited kind num }

/-- A saturating 32-bit count in a field of `SEGOVR` (15 R375). -/
def bumpOvr (w : Word) (lo : Nat) : Word := setFld w lo 32 (min (fld w lo 32 + 1) (2 ^ 32 - 1))

/-- Take the trap that is due on a core, when its cycle has come. A segment overrun is counted in `SEGOVR` (15 R375, R383). -/
def takeDue (die core : Nat) (s : State) : State :=
  let c := s.core die core
  match c.due with
  | none => s
  | some d =>
    if (s.die die).cyc < d.t || (c.strand 1).pend.isSome then s
    else
      let s := s.modCore die core fun c => { c with due := none }
      let s := if d.cause = cSegmentOverrun then
          s.modCtx die c.slot fun x => { x with regs := Tab.put x.regs 0x019 (bumpOvr (x.reg 0x019) 0) }
        else s
      if d.stop then stopCore die core d s
      else if c.iter.isNone || (c.frame.isSome && !(c.strand 1).handler) then s
      else takeTrap die core d.strd d.cause d.prec d.info d.addr d.upc d.t s

/-- The context slot a unit is counted for: the iteration's, or, when the unit ended it, the one the core still holds (16 R411). -/
def State.unitSlot (s : State) : Nat :=
  match s.myCore.iter with
  | some i => i.slot
  | none => s.myCore.home.getD 0

/-- What a core notes of a unit that completes: the deadlock rule counts anew (04 R99), and no E unit may issue in a trap cycle of this
cycle (15 R365). -/
def Core.noteUnit (cu : Cur) (c : Core) : Core :=
  { c with brkSkip := if c.unchecked cu.strand cu.pc then none else c.brkSkip, dlk := 0, moved := true,
           eIssued := c.eIssued || decide (2 ≤ cu.strand) }

/-- Complete a unit: the PC moves on, the strand runs, and its next unit issues no earlier than the unit's gap says. A
unit that traps once performed takes that trap in the next cycle (15 R365); one that has acted in part waits on. -/
def retire (s : State) : State :=
  let cu := s.cur
  match cu.hold with
  | some (k, n) => markWait k n s
  | none =>
    let s1 :=
      if cu.whole then s
      else
        (unitStrands s).foldl (fun s n => s.modStrand cu.die cu.core n fun t =>
          let t := t.stepRpt cu.pc cu.npc (unitBytes s) cu.taken
          let t := { t with rpt := cu.newRpt.getD t.rpt }
          { t with ready := s.cyc + cu.gap, run := if t.run = .done ∨ t.run = .parked then t.run else .running }) s
    let s1 := countEv cu.die 0x002 (some s.unitSlot) (some cu.core) (if cu.bundle then 4 else 1) s1
    let s1 := { s1.modMyCore (Core.noteUnit cu) with verdict := .performed }
    match cu.after with
    | some (strd, cause, info) => raiseDue cu.die cu.core { strd, cause, info, upc := some cu.pc, t := s.cyc + 1 } s1
    | none => s1

/-- A unit that has acted in part captures its operands again when it goes on: its pops have not taken place yet. The entry that
its request has reserved stays (04 R96). -/
def keepPopped (s s' : State) : State :=
  if s'.cur.hold.isSome then
    s'.modMyCore fun c =>
      let c' := { c with queues := s.myCore.queues }
      match s.me.pend, s'.me.pend.bind Pend.entry with
      | none, some (q, _) => c'.setQueue q (c'.queue q).reserve.1
      | _, _ => c'
  else s'

/-- Whether a unit must wait before it takes effect: a release for the acknowledgement of the strand's earlier posted writes (07
R186), any unit that comes after the strand's earlier writes for those still on their way in the package (07 R181). -/
def mustWait (s s' : State) : Bool :=
  (s'.cur.rel && foreignOut s) || (s'.cur.ord && postsOut s s.cur.die s.cur.core s.cur.strand)

/-- End a unit. A unit that must wait for the strand's earlier writes takes effect only then. A
word of a lock-step bundle only reports how it ended: the bundle's step takes the trap or the wait of
the whole unit (02 R48). -/
def settle (s : State) (r : Eff) : Host.Outcome State Fault Refusal :=
  match r with
  | .ok s' =>
    .next (if mustWait s s' then markWait 10 0 s
           else if s.cur.bundle then { s' with verdict := .performed } else retire (keepPopped s s'))
  | .error (.trap c i a) =>
    .next (if s.cur.bundle then { s with verdict := .trapped c i a }
           else { raiseTrap s.cur.die s.cur.core s.cur.strand c i a s with verdict := .trapped c i a })
  | .error (.wait k n) => .next (if s.cur.bundle then { s with verdict := .waited k n } else markWait k n s)
  | .error .absent => .fault .absentMemory

/-- Issue a word: the checks, the guard, and then its effect (02 R39). -/
def issueEff (f : Form) (w : StrandWord) (eff : State → Eff) (s : State) : Eff := do
  checkWord f w s
  if guardHolds w s then eff s else .ok s

/-- The meaning of a strand instruction: its form and its effect. -/
def issue (f : Form) (w : StrandWord) (eff : State → Eff) (s : State) : Host.Outcome State Fault Refusal :=
  settle s (issueEff f w eff s)

/-- An instruction that lands a result computed from its captured operands. -/
def issueRes (f : Form) (op lat : Nat) (w : StrandWord) (s : State) : Host.Outcome State Fault Refusal :=
  issue f w (fun s => do
    let (k, s) ← capture f id w s
    deliver op lat w k s) s

/-! ### Engines -/

/-- The outcome of an engine's or an event's action: it always leaves a next state. -/
def act (s : State) : Host.Outcome State Fault Refusal := .next { s with verdict := .performed }

/-- The action changes nothing: it cannot take place now. -/
def stay (s : State) : Host.Outcome State Fault Refusal := .next { s with verdict := .idle }

/-! ### The end of a core cycle (02 R46, 04 R94, 06 R158, 08 R202, R203) -/

/-- Apply the flag increments of a cycle. -/
def Ctx.applyFlags (c : Ctx) : Ctx :=
  let c' := c.flagAdds.foldl (fun c (n, k, who) =>
    let v := c.flag n + k
    { c with flags := Tab.put c.flags n (min v 65535), satf := if 65535 < v then Tab.put c.satf n true else c.satf,
             flagWho := Tab.put c.flagWho n who }) c
  { c' with flagAdds := [] }

/-- The order in which one cycle's writes and guard changes of a core apply: E0, E1, E2, E3, H, A (06 R158, 08 R203). -/
def strandOrder : List Nat := [2, 3, 4, 5, 0, 1]

/-- Perform an atomic on core scratch in its place of cycle t, and land the old value (06 R158; 07 R173, R175). -/
def lateAtom (die core t : Nat) (s : State) (x : LateAtom) : State :=
  let old := s.num x.key x.n
  let s := match accNew x.op x.wd x.n x.b x.c old with
    | some v => s.putNum x.key x.n v
    | none => s
  if x.w.dk = .none then s
  else
    s.modCore die core fun c =>
      c.landRes x.strand x.w (resultOf x.opc x.w { a := ofWord (atomLands x.op x.wd x.b old) }) x.rid t

/-- Apply a core's late stores and atomics of cycle t in strand order. A word that the lanes of a strand's stores cover together
holds no error any more (06 R170). -/
def applyLate (die core t : Nat) (s : State) : State :=
  let c := s.core die core
  let s := strandOrder.foldl (fun s n =>
    let mine := c.late.filter fun l => l.strand = n
    let s := mine.foldl (fun s l => s.putBytes l.key l.bytes) s
    let s := { s with bad := s.bad.filter fun w => !coversWord (mine.map fun l => (l.key, l.bytes)) w }
    (c.lateAtoms.filter fun x => x.strand = n).foldl (lateAtom die core t) s) s
  s.modCore die core fun c => { c with late := [], lateAtoms := [] }

/-- Apply a core's guard changes in strand order. -/
def applyGuards (die core : Nat) (s : State) : State :=
  let c := s.core die core
  let s := strandOrder.foldl (fun s n =>
    (c.gdSet.filter fun g => g.1 = n).foldl (fun s (_, g, v) =>
      s.modCtx die c.slot fun x => { x with guards := Tab.put x.guards g v }) s) s
  s.modCore die core fun c => { c with gdSet := [] }

/-- The longest a write stays in a combining buffer, in core cycles (07 R187). -/
def heldLimit : Nat := 512

/-- Send out the writes of one strand's combining buffer that have been held their whole time (07 R187), or all once the strand
has stopped; none while earlier posted writes of the strand are on their way in the package. -/
def drainOld (die core n : Nat) (s : State) : State :=
  let t := s.strand die core n
  let old := fun (h : Held) => decide (h.since + heldLimit ≤ (s.die die).cyc) || decide (t.run = .stopped)
  if postsOut s die core n then s
  else
    ((t.held.filter old).foldl (homeWrite die core) s).modStrand die core n fun t =>
      { t with held := t.held.filter fun h => !old h }

/-- A cycle of an open segment runs (04 R100, 15 R383): the cost counts 16 cycles, twice it is 32. -/
def Seg.tick (g : Seg) : Seg :=
  let n := g.ran + 1
  { g with ran := n, owed := g.owed || decide (n = 32 * g.cost) }

/-- Record the segments of a core that have run for twice their cost (15 R383). -/
def recordOverruns (die core : Nat) (s : State) : State :=
  (List.range 6).foldl (fun s n =>
    match (s.strand die core n).seg with
    | none => s
    | some g =>
      if !g.owed then s
      else
        let slot := (s.core die core).slot
        let s := s.modStrand die core n fun t => { t with seg := some { g with owed := false } }
        countEv die 0x050 (some slot) none 1
          (s.modCtx die slot fun x => { x with regs := Tab.put x.regs 0x019 (bumpOvr (x.reg 0x019) 32) })) s

/-- Account one cycle of a strand's segment: at twice its cost a record is owed; at eight times the trap comes due whose
frame names the strand (15 R383). Accounting pauses while the core holds a frame (15 R365). -/
def segCycle (die core n : Nat) (s : State) : State :=
  let c := s.core die core
  match (c.strand n).seg with
  | none => s
  | some g =>
    if c.frame.isSome || c.iter.isNone || !g.lead then s
    else
      let s := s.modStrand die core n fun t => { t with seg := some g.tick }
      if g.tick.ran = 128 * g.cost then
        raiseDue die core { strd := n, cause := cSegmentOverrun, t := (s.die die).cyc + 1 } s
      else s

/-- Whether a strand is blocked as the deadlock rule counts it, having been found so in this cycle (04 R99); `rejoin`
(kind 4) waits for others alone. -/
def Strand.dlkBlocked (t : Strand) (cyc : Nat) : Bool :=
  match t.run with
  | .blocked k _ => decide (1 ≤ k ∧ k ≤ 5) && (decide (k = 4) || decide (t.tried = cyc))
  | _ => false

/-- The cycle count of the deadlock rule (04 R99). A cycle in which no strand was asked to issue neither counts nor
starts the count again (log 13). -/
def Core.countDlk (c : Core) (cyc : Nat) (landed : Bool) : Core :=
  let rest := fun (t : Strand) => decide (t.run = .parked) || decide (t.run = .done)
  let all := (List.range 6).all fun n => (c.strand n).dlkBlocked cyc || rest (c.strand n)
  let some_ := (List.range 6).any fun n => (c.strand n).dlkBlocked cyc
  if landed || c.moved || !c.flights.isEmpty || c.sbSet ≠ 0 || c.sbClr ≠ 0 then { c with dlk := 0 }
  else if c.iter.isSome && c.frame.isNone && all && some_ && (c.strand 1).pend.isNone then { c with dlk := c.dlk + 1 }
  else c

/-- Count a core's cycle in the event counters (16 R411). -/
def countCycle (die core : Nat) (s : State) : State :=
  let c := s.core die core
  if c.iter.isNone || (s.die die).counters.isEmpty then s
  else
    let kinds := (List.range 6).filterMap fun n => match (c.strand n).run with | .blocked k _ => some k | _ => none
    let s := countEv die 0x001 (some c.slot) (some core) 1 s
    let s := countEv die 0x003 (some c.slot) (some core) (kinds.filter fun k => k = 1 || k = 2).length s
    countEv die 0x004 (some c.slot) (some core) (kinds.filter fun k => 8 ≤ k).length s

/-- Replace a constant bank whole (06 R167). -/
def Core.putBank (c : Core) (b : Nat × List Word) : Core :=
  { c with banks := (List.range 64).foldl (fun t i => Tab.put t (64 * b.1 + i) (b.2.getD i 0)) c.banks }

/-- The landings and sync-bit changes of the end of a core's cycle t (02 R46, 04 R94). -/
def Core.endCycle (c : Core) (t : Nat) : Core :=
  let due := c.flights.any fun f => f.due = t
  let c := (c.countDlk t due).landDue t
  let c := { c.lateBanks.foldl Core.putBank c with lateBanks := [] }
  { c with sbVal := c.sbEnd, sbSet := 0, sbClr := 0, landed := none, moved := false, eIssued := false,
           ftix := c.ftixNew.getD c.ftix, ftixNew := none }

/-! ### Single step and trace marks at the end of a cycle (16 R407, R414) -/

/-- Whether a step of a strand, or of a cycle (7), that could issue from cycle u on has issued by the end of cycle t. -/
def stepDone (c : Core) (k u t : Nat) : Bool :=
  (c.strand 1).pend.isNone && decide (u ≤ t) &&
    (k = 7 || decide (t < (c.strand (if c.lock ∧ 2 ≤ k then 2 else k)).ready))

/-- `FST` after a step: 3 again, with `SERR` when it has not issued (16 R404, R407). -/
def stepFst (die slot serr : Nat) (s : State) : State :=
  s.modCtx die slot fun c =>
    let c := { c with fwstat := setFld c.fwstat 60 1 serr }
    if c.fst = 4 then c.setFst 3 else c

/-- A step ends after cycle t: the core takes a frame of cause `SINGLE_STEP`; a trap the step met keeps its frame, and a
handler that was stepped its own, with the step in `TSCND` (16 R407; log 17). -/
def finishStep (die core k u t serr : Nat) (s : State) : State :=
  let s := abandonAll die (s.core die core).slot core (s.core die core) s
  let s := s.modCore die core fun c =>
    match c.frame with
    | none =>
      let c' := c.takeFrame cSingleStep k true 0 0 none (t + 1)
      { c'.modStrand 0 Strand.halt with stepCyc := none, hStopBy := none }
    | some f =>
      { c.modStrand 1 Strand.halt with
        stepCyc := none, frame := some (if f.since < u then { f with scnd := cSingleStep } else f) }
  stepFst die (s.core die core).slot serr (drainHeld die core 1 (drainHeld die core 0 s))

/-- A single step of a core at the end of cycle t: it ends when the iteration has, when the step has trapped, or when it
has issued. -/
def stepCycle (die core t : Nat) (s : State) : State :=
  let c := s.core die core
  match c.stepCyc with
  | none => s
  | some (k, u) =>
    if c.iter.isNone then stepFst die (c.home.getD 0) 0 (s.modCore die core fun c => { c with stepCyc := none })
    else if c.due.isSome then s
    else
      match c.frame with
      | some f => if u ≤ f.since || stepDone c k u t then finishStep die core k u t 0 s else s
      | none => if stepDone c k u t then finishStep die core k u t 0 s else s

/-- Insert a mark by its agent identity (16 R414). -/
def markInsert (m : Nat × Word × Word) : List (Nat × Word × Word) → List (Nat × Word × Word)
  | [] => [m]
  | x :: xs => if m.1 < x.1 then m :: x :: xs else x :: markInsert m xs

/-- Write a trace record, or drop and count it when the buffer is full and does not wrap (16 R413, R414). -/
def writeMark (die : Nat) (s : State) (m : Nat × Word × Word) : State :=
  let d := s.die die
  let cfg := d.dbgReg 0x860
  let n := 2 ^ fld cfg 57 5
  if !bit cfg 62 && decide (n ≤ d.trTail) then s.modDie die fun d => { d with trLost := min (d.trLost + 1) (2 ^ 32 - 1) }
  else
    let at_ := keyDcm die (fld cfg 0 22 * 16 + d.trTail % n * 16)
    let s := (s.putWord at_ m.2.1).putWord (at_ + 8) m.2.2
    countEv die 0x062 (some (fld m.2.1 48 4)) (some (m.1 / 8)) 1 (s.modDie die fun d => { d with trTail := d.trTail + 1 })

/-- Insert a hit by its place among those of its cycle. -/
def insertHit (m : WatchRec) : List WatchRec → List WatchRec
  | [] => [m]
  | x :: xs => if m.rank < x.rank then m :: x :: xs else x :: insertHit m xs

/-- The hits of a cycle are recorded: strands by core, engines by identity, then arrivals in station order (16 R399). -/
def flushHits (die : Nat) (s : State) : State :=
  let hs := (s.die die).hits
  if hs.isEmpty then s
  else
    (hs.foldl (fun a m => insertHit m a) []).foldl (fun s h =>
      faultRecordAt h.time die h.slot cWatchpoint h.agent 63 (fld h.info 29 3) h.addr h.info s)
      (s.modDie die fun d => { d with hits := [] })

/-- How many accesses of each context have missed the L2 in a cycle is free: the spec does not say what an L2 holds (16 R411; log
8). -/
def countL2 (die : Nat) (s : State) : State :=
  if (s.die die).counters.any fun x => bit x.2.cfg 63 && fld x.2.cfg 0 12 = 0x011 then
    (List.range 16).foldl (fun s k =>
      let (v, s) := s.takeFree
      countEv die 0x011 (some k) none v.toNat s) s
  else s

/-- The marks of a cycle are written in ascending agent identity. -/
def flushMarks (die : Nat) (s : State) : State :=
  let ms := (s.die die).marks
  if ms.isEmpty then s
  else (ms.foldl (fun a m => markInsert m a) []).foldl (writeMark die) (s.modDie die fun d => { d with marks := [] })

/-- The end of a core's cycle t: results land, stores of the cycle are written, sync bits and guards change, held
writes that are old leave, segments are accounted, and a core that can never proceed traps (04 R99). -/
def coreCycle (die t core : Nat) (s : State) : State :=
  let s := recordOverruns die core (takeDue die core s)
  let s := countCycle die core s
  let s := s.modCore die core fun c => c.endCycle t
  let s := applyGuards die core (applyLate die core t s)
  let s := drainOld die core 1 (drainOld die core 0 s)
  let s := (List.range 6).foldl (fun s n => segCycle die core n s) s
  let s := if 256 ≤ (s.core die core).dlk then
    raiseDue die core { strd := 7, cause := cQueueDeadlock, t := t + 1 } (s.modCore die core fun c => { c with dlk := 0 })
  else s
  stepCycle die core t s

/-- Whether an iteration is placed on a cluster: on a core of it, or taken off one by a switch (06 R135; log 17). -/
def clusterBusy (d : Die) (cl : Nat) : Bool :=
  d.cores.any (fun x => decide (x.1 / 8 = cl) && x.2.iter.isSome) ||
    d.parked.any fun x => decide (x.1 < 2048) && decide (x.1 / 16 / 8 = cl) && x.2.iter.isSome

/-- Whether a key lies in a cluster's core scratch or pool. -/
def inCluster (die cl k : Nat) : Bool :=
  (decide (keyScr die (8 * cl) 0 ≤ k) && decide (k < keyScr die (8 * cl + 8) 0)) ||
    (decide (keyCpl die cl 0 ≤ k) && decide (k < keyCpl die (cl + 1) 0))

/-- The split that is pending on a cluster takes effect, and its SRAM reads zero (06 R135). -/
def applySplit (die cl : Nat) (s : State) : State :=
  match (s.cluster die cl).clNext with
  | none => s
  | some v =>
    let s := { s with mem := s.mem.filter fun x => !inCluster die cl x.1, bad := s.bad.filter fun k => !inCluster die cl k,
                      soft := s.soft.filter fun k => !inCluster die cl k }
    s.modCluster die cl fun c => { c with clcfg := v, clNext := none }

/-- Every pending split of a die whose cluster no iteration is placed on takes effect (06 R135). -/
def applySplits (die : Nat) (s : State) : State :=
  let d := s.die die
  ((d.clusters.filter fun x => x.2.clNext.isSome && !clusterBusy d x.1).map Prod.fst).foldl (fun s cl => applySplit die cl s) s

/-- End one core cycle of a die. -/
def cycleEnd (die : Nat) (s : State) : State :=
  let d := s.die die
  if d.frozenClk then s
  else
    let s := (d.cores.map Prod.fst).foldl (fun s n => coreCycle die d.cyc n s) s
    let s := applySplits die s
    let s := countL2 die (flushHits die s)
    let s := countStalls die (flushMarks die <| (d.ctxs.map Prod.fst).foldl (fun s n => s.modCtx die n Ctx.applyFlags) s)
    s.modDie die fun d =>
      { d with cyc := d.cyc + 1, served := [], groupLeft := d.groupLeft - 1,
               counters := d.counters.map fun (k, c) => (k, c.endCycle) }

end Sys2Proof.Machine
end

