-- ==== Sys2Proof/Machine/Translate.lean ====
section
/-!
DEFINITION. Addresses: canonical form, the local apertures and their windows, the page-table walk, home modes and the
order of an access's checks (06 R132 to R142, R149, R150).
-/

namespace Sys2Proof.Machine

/-- What an access does (06 R142 step 6). -/
inductive Acc where
  | rd | wr | fetch
  | rw                               -- an atomic: needs both rights (07 R173)
  deriving DecidableEq, Repr

/-- For whom an access is made: die, core and context slot, and the strand number, or 6 for an engine (06 R134). -/
structure Agent where
  die : Nat
  core : Nat
  slot : Nat
  strand : Nat
  deriving DecidableEq, Repr

/-- The executing strand as an agent. -/
def State.agent (s : State) : Agent := { die := s.cur.die, core := s.cur.core, slot := s.mySlot, strand := s.cur.strand }

/-- Where an access goes: the key of its first byte, its scope code (06 R137: 0 CORE to 4 FIELD), the home die, and its
aperture, or 16 for translated memory. -/
structure Place where
  key : Nat
  scope : Nat
  home : Nat
  aper : Nat
  deriving DecidableEq, Repr

/-- Bits [63:56] all equal bit 55 (06 R132). -/
def canonical (va : Word) : Bool := fld va 55 9 = 0 || fld va 55 9 = 511

/-- Whether a canonical address lies in the local apertures (06 R132). -/
def inAperture (va : Word) : Bool := fld va 55 9 = 511 && fld va 52 4 = 15

/-- Core scratch per core in bytes (06 R135). -/
def scrSize (s : State) (die core : Nat) : Nat := fld (s.cluster die (core / 8)).clcfg 0 5 * 32768
/-- The cluster pool in bytes (06 R135). -/
def cplSize (s : State) (die core : Nat) : Nat := 8 * (524288 - scrSize s die core)
/-- Die common in bytes (01 R18). -/
def dcmSize : Nat := 48 * 1048576

/-- Window base and size in bytes of a window register with a granule (06 R133). -/
def winBase (reg : Word) (g : Nat) : Nat := fld reg 32 32 * g
/-- Window size in bytes. -/
def winSize (reg : Word) (g : Nat) : Nat := fld reg 0 32 * g

/-- The place of n bytes in an aperture, or none when they do not all lie in the context's window (06 R132, R133). -/
def aperturePlace (s : State) (g : Agent) (ap off n : Nat) : Option Place :=
  let r := fun sel => (s.ctx g.die g.slot).reg sel
  match ap with
  | 0 =>
    let b := winBase (r 0x01A) 64
    let z := winSize (r 0x01A) 64
    if off + n ≤ 131072 ∧ off % 1024 + n ≤ z ∧ b + off % 1024 + n ≤ 1024 then
      some { key := keyLs g.die g.core (off / 1024 * 1024 + b + off % 1024), scope := 0, home := g.die, aper := 0 }
    else none
  | 1 =>
    let b := winBase (r 0x01B) 4096
    if off + n ≤ winSize (r 0x01B) 4096 ∧ b + off + n ≤ scrSize s g.die g.core then
      some { key := keyScr g.die g.core (b + off), scope := 0, home := g.die, aper := 1 }
    else none
  | 2 =>
    let b := winBase (r 0x01C) 4096
    if off + n ≤ winSize (r 0x01C) 4096 ∧ b + off + n ≤ cplSize s g.die g.core then
      some { key := keyCpl g.die (g.core / 8) (b + off), scope := 1, home := g.die, aper := 2 }
    else none
  | 3 =>
    let b := winBase (r 0x01D) 65536
    if off + n ≤ winSize (r 0x01D) 65536 ∧ b + off + n ≤ dcmSize then
      some { key := keyDcm g.die (b + off), scope := 2, home := g.die, aper := 3 }
    else none
  | 5 =>
    let b := winBase (r 0x01E) 4096
    if off + n ≤ winSize (r 0x01E) 4096 ∧ b + off + n ≤ 65536 then
      some { key := keyIs g.die g.core (b + off), scope := 0, home := g.die, aper := 5 }
    else none
  | _ => none

/-! ### The page-table walk (06 R136 to R138) -/

/-- Index of an address at a level 1 to 4 (06 R136). -/
def levelIndex (va : Word) (level : Nat) : Nat :=
  match level with
  | 1 => fld va 39 17 | 2 => fld va 30 9 | 3 => fld va 21 9 | _ => fld va 16 5

/-- Bits of the page offset of a leaf at a level (06 R136). -/
def pageBits (level : Nat) : Nat := match level with | 2 => 30 | 3 => 21 | _ => 16

/-- Bits of the alignment of the table a non-leaf entry of a level names: the next level's table size (06 R136). -/
def tableBits (level : Nat) : Nat := match level with | 1 => 12 | 2 => 12 | _ => 8

/-- Physical address bits [47:0] of an entry (06 R137). -/
def ptePa (e : Word) : Nat := fld e 0 40 * 256

/-- Whether an entry's fields are ones a walk may use (06 R138 "Reserved content"). -/
def pteOk (e : Word) (level : Nat) (leaf : Bool) : Bool :=
  fld e 40 8 = 0 &&
  (if leaf then
    fld e 55 2 ≠ 3 && ptePa e % 2 ^ pageBits level = 0 &&
      (if fld e 55 2 = 0 then ptePa e / 2 ^ 45 = fld e 52 3 else ptePa e / 2 ^ 45 = 0 && fld e 52 3 = 0)
   else fld e 49 14 = 0 && ptePa e % 2 ^ tableBits level = 0)

/-- A translation found: the leaf, the key of its entry, and the level it stands at. -/
structure Leaf where
  pte : Word
  key : Nat
  level : Nat
  deriving DecidableEq, Repr

/-- One level of the walk from a table at a physical address; `fuel` counts the levels left (06 R136, R138). -/
def walkFrom (s : State) (va : Word) : Nat → Nat → Nat → Except Stop Leaf
  | 0, _, _ => trapAt cReservedField va
  | fuel + 1, level, table =>
    let k := keyPhys (table + 8 * levelIndex va level)
    if !keyExists k then .error .absent
    else if (s.die (k / 2 ^ 45)).frozenClk then .error (.wait 10 0)
    else if (s.badIn k 8).isSome then trapAt cUncorrectable va
    else
      let e := s.word k
      let leaf := bit e 48
      if !bit e 63 then trapAt cNotPresent va
      else if (leaf && level = 1) || (!leaf && level = 4) || !pteOk e level leaf then trapAt cReservedField va
      else if leaf then
        if 5 ≤ fld e 57 3 then trapAt cBadScope va else .ok { pte := e, key := k, level }
      else walkFrom s va fuel (level + 1) (ptePa e)

/-- Walk from a context's root (06 R136; `PTBASE` 15 R375). -/
def walk (s : State) (die slot : Nat) (va : Word) : Except Stop Leaf :=
  walkFrom s va 4 1 (fld ((s.ctx die slot).reg 0x010) 20 28 * 2 ^ 20)

/-! ### Homes (06 R139, R143, R149, R150) -/

/-- A tensor layout record as its twelve words. -/
abbrev Tlr := List Word

/-- Word n of a record. -/
def tlrW (t : Tlr) (n : Nat) : Word := t.getD n 0

/-- Extent of dimension j (06 R143). -/
def tlrD (t : Tlr) (j : Nat) : Nat :=
  match j with
  | 0 => fld (tlrW t 2) 0 24
  | 1 => fld (tlrW t 2) 24 24
  | 2 => fld (tlrW t 2) 48 16 + fld (tlrW t 3) 0 8 * 65536
  | 3 => fld (tlrW t 3) 8 24
  | _ => fld (tlrW t 3) 32 24

/-- The stride field of dimension j from 1 to 4 (06 R143). -/
def tlrSraw (t : Tlr) (j : Nat) : Nat :=
  match j with
  | 1 => fld (tlrW t 4) 0 24
  | 2 => fld (tlrW t 4) 24 24
  | 3 => fld (tlrW t 4) 48 16 + fld (tlrW t 5) 0 8 * 65536
  | _ => fld (tlrW t 5) 8 24

/-- The stride of dimension j in elements: multiplier times 2^shift (06 R143); dimension 0 has stride 1. -/
def tlrS (t : Tlr) (j : Nat) : Nat :=
  if j = 0 then 1 else tlrSraw t j % 2 ^ 20 * 2 ^ (tlrSraw t j / 2 ^ 20)

/-- Rank, flags and format (06 R144). -/
def tlrRank (t : Tlr) : Nat := fld (tlrW t 1) 11 3
/-- Element format code. -/
def tlrFmt (t : Tlr) : Nat := fld (tlrW t 1) 0 8
/-- Scale placement. -/
def tlrSpl (t : Tlr) : Nat := fld (tlrW t 1) 8 3
/-- `FE`. -/
def tlrFe (t : Tlr) : Bool := bit (tlrW t 1) 15
/-- `HOME`. -/
def tlrHome (t : Tlr) : Bool := bit (tlrW t 1) 14
/-- A 12-bit field j of w6 or w7, 0 meaning 4,096 (06 R143). -/
def tlrTile (w : Word) (j : Nat) : Nat := if fld w (12 * j) 12 = 0 then 4096 else fld w (12 * j) 12

/-- Whether a format code is block-scaled (02 R49). -/
def isBlockFmt (c : Nat) : Bool := decide (16 ≤ c) && decide (c ≤ 20)

/-- Die count of a grid field (06 R145). -/
def gridDies (g : Nat) : Nat := (g % 8 + 1) * (g / 8 % 8 + 1) * (g / 64 % 8 + 1)

/-- A record with format 0x3F resolved by its user: `entry` is what the format table gives it, 0 where it has none (06 R148, 02
R50). -/
def tlrResolve (entry : Nat) (t : Tlr) : Tlr := if tlrFmt t = 63 then t.set 1 (setFld (tlrW t 1) 0 8 entry) else t

/-- The rules of 06 R148, each with the word of the resolved record that holds the field it judges. -/
def tlrChecks (t : Tlr) : List (Nat × Bool) :=
  let r := tlrRank t
  let f := tlrFmt t
  let g := tlrW t 8
  let ext := fun j => if j < r then decide (1 ≤ tlrD t j) else tlrD t j = 0
  let str := fun j => decide (j < r) || tlrSraw t j = 0
  let blk := fun j => !isBlockFmt f || tlrS t j % 96 = 0
  [(0, canonical (tlrW t 0)), (1, fld (tlrW t 1) 16 48 = 0), (1, decide (1 ≤ r ∧ r ≤ 5)), (1, fmtAssigned f),
   (1, decide (tlrSpl t ≤ 1)), (1, isBlockFmt f == (tlrSpl t = 1)),
   (2, ext 0 && ext 1 && ext 2 && (!isBlockFmt f || tlrD t 0 % 96 = 0)),
   (3, fld (tlrW t 3) 56 8 = 0 && ext 3 && ext 4), (4, str 1 && str 2 && str 3 && blk 1 && blk 2 && blk 3),
   (5, fld (tlrW t 5) 32 32 = 0 && str 4 && blk 4), (6, fld (tlrW t 6) 60 4 = 0), (7, fld (tlrW t 7) 60 4 = 0),
   (8, fld g 34 30 = 0 && fld g 24 2 ≠ 3 && decide (gridDies (fld g 0 9) ≤ 8) && decide (gridDies (fld g 12 9) ≤ 8)),
   (10, canonical (tlrW t 10) && !bit (tlrW t 10) 0 && (tlrSpl t = 1 || tlrW t 10 = 0)), (11, tlrW t 11 = 0)]

/-- Whether a record breaches no rule of 06 R148. -/
def tlrOk (t : Tlr) : Bool := (tlrChecks t).all Prod.snd

/-- The first word of a record that breaches 06 R148, or 0. -/
def tlrBad (t : Tlr) : Nat := (((tlrChecks t).find? fun c => !c.2).map Prod.fst).getD 0

/-- Element offset of coordinates (06 R146). -/
def tlrOff (t : Tlr) (c : List Nat) : Nat :=
  (List.range 5).foldl (fun a j => a + c.getD j 0 * tlrS t j) 0

/-- The bytes from a record's base up to the byte of its last element (06 R149). -/
def tlrSpan (t : Tlr) : Nat :=
  let last := tlrOff t ((List.range 5).map fun j => tlrD t j - 1)
  (last * elemBits (tlrFmt t) + elemBits (tlrFmt t) - 1) / 8 + 1

/-- Coordinates of an element offset: from the highest dimension down (06 R150). -/
def tlrCoords (t : Tlr) : Nat → Nat → List Nat
  | 0, off => [off]
  | j + 1, off =>
    if j + 1 < tlrRank t ∧ tlrS t (j + 1) ≠ 0 then
      tlrCoords t j (off % tlrS t (j + 1)) ++ [off / tlrS t (j + 1)]
    else tlrCoords t j off ++ [0]

/-- The home die of a granule by a grid and an origin (06 R150). -/
def gridHome (t : Tlr) (grid org off : Nat) : Nat :=
  let c := tlrCoords t 4 off
  let tj := fun j => c.getD j 0 / tlrTile (tlrW t 7) j
  let nj := fun j => ceilDiv (tlrD t j) (tlrTile (tlrW t 7) j)
  let gx := grid % 8 + 1
  let gy := grid / 8 % 8 + 1
  let gz := grid / 64 % 8 + 1
  (org + tj 0 % gx + gx * (tj 1 % gy + gy * ((tj 2 + nj 2 * (tj 3 + nj 3 * tj 4)) % gz))) % 8

/-- The home of a byte of a tensor-homed page under a record: the fallback grid when a die of the grid is fenced. -/
def tensorHome (s : State) (t : Tlr) (va : Word) : Nat :=
  let g := tlrW t 8
  let gran := 2 ^ (8 + fld g 26 4)
  let first := va.toNat / gran * gran
  let off := (first - (tlrW t 0).toNat) * 8 / elemBits (tlrFmt t)
  let dies := (List.range (gridDies (fld g 0 9))).map fun i => (fld g 9 3 + i) % 8
  if dies.any fun d => (s.die d).fenced then gridHome t (fld g 12 9) (fld g 21 3) off
  else gridHome t (fld g 0 9) (fld g 9 3) off

/-- The lowest-numbered home-map entry of a job whose span holds a byte (06 R149). -/
def homeEntry (s : State) (job : BitVec 16) (va : Word) : Option Tlr :=
  (s.pkg.homes.find? fun (_, t) =>
    let b := (tlrW t 0).toNat
    let gran := 2 ^ (8 + fld (tlrW t 8) 26 4)
    let first := va.toNat / gran * gran
    decide (tlrW t 12 = job.setWidth 64) && decide (b ≤ first) && decide (first < b + tlrSpan t)).map Prod.snd

/-- The place of a translated byte under a leaf (06 R139). -/
def leafPlace (s : State) (job : BitVec 16) (va : Word) (l : Leaf) : Except Stop Place := do
  let off := va.toNat % 2 ^ pageBits l.level
  let pa := ptePa l.pte + off
  let scope := fld l.pte 57 3
  let home ← match fld l.pte 55 2 with
    | 0 => .ok (fld l.pte 52 3)
    | 1 =>
      let ds := s.unfenced
      .ok (ds.getD (va.toNat % 2 ^ 56 / 4096 % ds.length) 0)
    | _ =>
      match homeEntry s job va with
      | some t => .ok (tensorHome s t va)
      | none => trapAt cNotPresent va
  if (s.die home).fenced then trapAt cHomeFenced va
  else
    let key := keyPhys (home * 2 ^ 45 + pa % 2 ^ 45)
    if keyExists key then .ok { key, scope, home, aper := 16 } else .error .absent

/-- The cached translation of an address, if the die's translation cache holds one (15 R387; log 9). -/
def cached (s : State) (die slot : Nat) (va : Word) : Option Leaf :=
  ((s.die die).tlb.find? fun e =>
    decide (e.slot = slot) && decide (e.page = va.toNat / 2 ^ pageBits e.leaf.level)).map fun e =>
      { pte := e.leaf.pte, key := e.leaf.key, level := e.leaf.level }

/-- A canonical translated address: the cached translation or a walk, then the rights and the home. A leaf that is
moving makes the access wait (06 R141), and so does a home whose clocks are frozen (16 R420). -/
def translate (s : State) (g : Agent) (va : Word) (acc : Acc) : Except Stop (Leaf × Place) := do
  let l ← match cached s g.die g.slot va with
    | some l => .ok l
    | none => walk s g.die g.slot va
  if bit l.pte 51 then .error (.wait 10 0)
  else
    let right := match acc with
      | .rd => bit l.pte 62
      | .wr => bit l.pte 61
      | .fetch => bit l.pte 60
      | .rw => bit l.pte 62 && bit l.pte 61
    if !right then trapAt cRights va
    else
      let p ← leafPlace s (s.ctx g.die g.slot).job va l
      if (s.die p.home).frozenClk then .error (.wait 10 0) else .ok (l, p)

/-- Reading n bytes corrects the single-bit errors among them, each counted on the die that holds them (06 R170). -/
def scrub (die key n : Nat) (s : State) : State :=
  if s.soft.isEmpty then s
  else
    let hit := fun w => decide (w < key + n) && decide (key < w + 8)
    countEv die 0x012 none none (s.soft.filter hit).length { s with soft := s.soft.filter fun w => !hit w }

/-- Keys of the entries that a walk reads from a table at a physical address (06 R136). -/
def walkKeys (s : State) (va : Word) : Nat → Nat → Nat → List Nat
  | 0, _, _ => []
  | fuel + 1, level, table =>
    let k := keyPhys (table + 8 * levelIndex va level)
    let e := s.word k
    if bit e 63 && !bit e 48 then k :: walkKeys s va fuel (level + 1) (ptePa e) else [k]

/-- A walk corrects the single-bit errors it meets (06 R170). -/
def scrubWalk (die slot : Nat) (va : Word) (s : State) : State :=
  if s.soft.isEmpty then s
  else
    (walkKeys s va 4 1 (fld ((s.ctx die slot).reg 0x010) 20 28 * 2 ^ 20)).foldl (fun s k => scrub (k / 2 ^ 45) k 8 s) s

/-- Keep a translation and mark the leaf accessed, and dirty when the access writes: an OR of those bits into the entry at its
home (06 R141). -/
def keepLeaf (s : State) (g : Agent) (va : Word) (l : Leaf) (acc : Acc) : State :=
  let pte := l.pte ||| (1#64 <<< 50) ||| (if acc = .wr then 1#64 <<< 49 else 0)
  let s := if (cached s g.die g.slot va).isSome then s else scrubWalk g.die g.slot va s
  let s := if pte = l.pte then s else s.putWord l.key (s.word l.key ||| (pte ^^^ l.pte))
  let e : TlbEntry := { slot := g.slot, page := va.toNat / 2 ^ pageBits l.level, leaf := { pte, key := l.key, level := l.level } }
  s.modDie g.die fun d =>
    { d with tlb := e :: d.tlb.filter fun x => !(decide (x.slot = e.slot) && decide (x.page = e.page) &&
                                              decide (x.leaf.level = l.level)) }

/-- The class of addresses a strand reaches with data (06 R134): an E strand its own lane slices and core scratch. -/
def classOk (g : Agent) (va : Word) (n : Nat) : Bool :=
  if 2 ≤ g.strand ∧ g.strand ≤ 5 then
    inAperture va &&
      (match fld va 48 4 with
        | 0 =>
          let off := fld va 0 48
          decide (off / 32768 = g.strand - 2) && decide ((off + n - 1) / 32768 = g.strand - 2)
        | 1 => true
        | _ => false)
  else true

/-- A checked access: its place, and the leaf it was translated by. -/
structure Found where
  place : Place
  leaf : Option Leaf := none
  deriving DecidableEq, Repr

/-- The checks of an access of n bytes, in the order of 06 R142 steps 2 to 7. `na` is the no-allocate bit of 06 R155,
`aligned` whether the address has the access's alignment. The engine ring control aperture is not reached here. -/
def locateIf (s : State) (g : Agent) (va : Word) (n : Nat) (aligned : Bool) (acc : Acc) (na : Bool) :
    Except Stop Found := do
  if !canonical va then trapAt cAddressClass va
  else if inAperture va then
    if acc ≠ .fetch ∧ !classOk g va n then trapAt cAddressClass va
    else if acc = .fetch ∧ fld va 48 4 ≠ 5 then trapAt cAddressClass va
    else if (acc = .wr ∨ acc = .rw) ∧ fld va 48 4 = 5 then trapAt cAddressClass va
    else
      match aperturePlace s g (fld va 48 4) (fld va 0 48) n with
      | none => trapAt cAddressClass va
      | some p =>
        if na then trapOf cIllegalOperand
        else if !aligned then trapAt cAlign va
        else .ok { place := p }
  else if acc ≠ .fetch ∧ !classOk g va n then trapAt cAddressClass va
  else if !aligned then trapAt cAlign va
  else
    let (l, p) ← translate s g va acc
    .ok { place := p, leaf := some l }

/-- The checks of an access whose alignment is a number of bytes. -/
def locate (s : State) (g : Agent) (va : Word) (n align : Nat) (acc : Acc) (na : Bool) : Except Stop Found :=
  locateIf s g va n (va.toNat % align = 0) acc na

/-- Keep the translation of a checked access; `dirty` says that it changes memory (06 R141). -/
def keepFound (s : State) (g : Agent) (va : Word) (f : Found) (dirty : Bool) : State :=
  match f.leaf with
  | some l => keepLeaf s g va l (if dirty then .wr else .rd)
  | none => s

/-- Whether a write of bytes changes memory (06 R141). -/
def memChanges (s : State) (key : Nat) (bs : List (Option Byte)) : Bool :=
  ((s.bytes key bs.length).zip bs).any fun (o, n) => n.isSome && n ≠ some o

/-- A checked access whose translation is kept at once; a write counts as changing memory. -/
def access (s : State) (g : Agent) (va : Word) (n align : Nat) (acc : Acc) (na : Bool) : Except Stop (Place × State) := do
  let f ← locate s g va n align acc na
  .ok (f.place, keepFound s g va f (acc = .wr))

/-- Read n bytes at a place; an uncorrectable error stops the reader (01 R10, 06 R170). -/
def readPlace (s : State) (p : Place) (n : Nat) (va : Word) : Except Stop (List Byte × State) :=
  match s.badIn p.key n with
  | some _ => trapAt cUncorrectable va
  | none => .ok (s.bytes p.key n, scrub p.home p.key n s)

/-- A record read at an address, as its user resolves it: a field that breaches 06 R148 faults, named by its word. -/
def tlrUse (entry : Nat) (va : Word) (t : Tlr) : Except Stop Tlr :=
  let r := tlrResolve entry t
  if tlrOk r then .ok r else trapAt cReservedField (va + BitVec.ofNat 64 (8 * tlrBad r))

/-- Words of loaded bytes. -/
def wordsOfBytes (bs : List Byte) : List Word :=
  (List.range (bs.length / 8)).map fun i => BitVec.ofNat 64 (ofBytes ((bs.drop (8 * i)).take 8))

/-- Read a record: 96 bytes aligned to 128 (06 R143, R148). -/
def readTlr (entry : Nat) (g : Agent) (va : Word) (s : State) : Except Stop (Tlr × State) := do
  let (p, s) ← access s g va 96 128 .rd false
  let (bs, s) ← readPlace s p 96 va
  .ok (← tlrUse entry va (wordsOfBytes bs), s)

/-- Fetch n bytes of code (06 R134, R142). -/
def fetchBytes (s : State) (g : Agent) (va : Word) (n : Nat) : Except Stop (List Byte × Place × State) := do
  let (p, s) ← access s g va n 1 .fetch false
  let (bs, s) ← readPlace s p n va
  .ok (bs, p, s)

end Sys2Proof.Machine
end

