-- ==== Sys2Proof/Machine/StrandMem.lean ====
section
/-!
DEFINITION. How a strand reads and writes memory: the L1 cache (06 R164, 07 R184), the source combining buffers (07
R187 to R189), stores that land at the end of their cycle (06 R158), acquires and releases (07 R181 to R186), the wait
for tokens (06 R156), watchpoints (16 R396 to R399) and soft errors (06 R170).
-/

namespace Sys2Proof.Machine

/-! ### The combining buffer (07 R187 to R189) -/

/-- The 64-byte blocks of held writes: the entries in use. -/
def heldBlocks (hs : List Held) : List Nat :=
  (hs.flatMap fun h => [h.key / 64, (h.key + h.bytes.length - 1) / 64]).eraseDups

/-- Whether a held write touches any of the bytes that n bytes at a key span. -/
def Held.touches (h : Held) (key n : Nat) : Bool := decide (h.key < key + n) && decide (key < h.key + h.bytes.length)

/-- Merge a write into a held write to the same bytes, where it may; none when there is none. A later held write that touches
them stands between: what was written last must be seen (07 R188; log 8). -/
def heldMerge (w : Held) : List Held → Option (List Held)
  | [] => none
  | h :: hs =>
    if h.key = w.key ∧ h.bytes.map Option.isSome = w.bytes.map Option.isSome ∧ !h.closed ∧
        !(hs.any fun x => x.touches w.key w.bytes.length) then
      some ({ h with bytes := w.bytes } :: hs)
    else (heldMerge w hs).map (h :: ·)

/-- Send a strand's first k held writes to their homes. -/
def sendFirst (die core n k : Nat) (s : State) : State :=
  (((s.strand die core n).held.take k).foldl (homeWrite die core) s).modStrand die core n fun t => { t with held := t.held.drop k }

/-- How many of the oldest writes go so that the oldest entry goes: up to the last that lies in its block (07 R187). -/
def oldestEntry : List Held → Nat
  | [] => 0
  | h :: hs => hs.length + 1 - (hs.reverse.takeWhile fun x => !(heldBlocks [x]).contains (h.key / 64)).length

/-- Let the oldest entries leave until the held writes and one more fit in 16; `fuel` bounds the entries that leave. -/
def leaveOldest (die core n : Nat) (w : Held) : Nat → State → State
  | 0, s => s
  | fuel + 1, s =>
    let hs := (s.strand die core n).held
    if (heldBlocks (hs ++ [w])).length ≤ 16 then s
    else leaveOldest die core n w fuel (sendFirst die core n (oldestEntry hs) s)

/-- Hold a write of a strand: merged where it may be, else as the youngest. With all 16 entries in use the oldest
leaves first. `rel` marks a release, which merges into no earlier write (07 R189). -/
def holdWrite (rel : Bool) (key : Nat) (bytes : List (Option Byte)) (s : State) : State :=
  let c := s.cur
  let w : Held := { key, bytes, since := s.cyc }
  let t := s.me
  match (if rel then none else heldMerge w t.held) with
  | some hs => s.modMe fun t => { t with held := hs }
  | none =>
    let s := if (heldBlocks (t.held ++ [w])).length ≤ 16 then s
      else { leaveOldest c.die c.core c.strand w t.held.length s with cur := { s.cur with ord := true } }
    s.modMe fun t => { t with held := t.held ++ [w] }

/-- Held bytes over bytes read at a key: each byte the strand's latest held write of it (07 R188). -/
def overHeld (hs : List Held) (key : Nat) (bs : List Byte) : List Byte :=
  hs.foldl (fun bs h =>
    bs.zipIdx.map fun (b, i) =>
      if h.key ≤ key + i then ((h.bytes.getD (key + i - h.key) none).getD b) else b) bs

/-! ### Soft errors (06 R170) -/

/-- The words with an uncorrectable error that the executing strand meets: not those that its held writes cover, of which it
reads no byte at the home (06 R170, 07 R188). -/
def State.badMet (s : State) : List Nat := s.bad.filter fun w => !coversWord (s.me.held.map fun h => (h.key, h.bytes)) w

/-- Whether a write leaves part of a word that holds an uncorrectable error: such a word takes no partial write. -/
def partialBad (s : State) (key : Nat) (bs : List (Option Byte)) : Bool :=
  s.bad.any fun w =>
    let inside := (List.range 8).filter fun i => decide (key ≤ w + i) && (bs.getD (w + i - key) none).isSome
    decide (0 < inside.length) && decide (inside.length < 8)

/-! ### L1 (06 R164, 07 R184) -/

/-- A line's bytes in an L1, if it is there. -/
def l1Get (c : Core) (line : Nat) : Option (List Byte) := (c.l1.find? fun x => x.1 = line).map Prod.snd

/-- Lines an L1 holds: 64 KiB (01 R17). -/
def l1Lines : Nat := 512

/-- Remove a line from an L1. -/
def Core.l1Drop (c : Core) (line : Nat) : Core :=
  { c with l1 := c.l1.filter fun x => x.1 ≠ line, l1c := c.l1c.filter fun x => x ≠ line }

/-- Allocate a line of a page wider than CORE in an L1; with all lines in use the oldest goes (01 R17, 06 R164; log 8). -/
def Core.l1Fill (c : Core) (line : Nat) (bs : List Byte) : Core :=
  let c := c.l1Drop line
  { c with l1 := ((line, bs) :: c.l1).take l1Lines, l1c := c.l1c.take (l1Lines - min l1Lines (c.l1.length + 1)) }

/-- Allocate a line of a CORE page, of which the L1 holds what the home holds (07 R184). -/
def Core.l1FillOwn (c : Core) (line : Nat) : Core :=
  let c := c.l1Drop line
  { c with l1c := (line :: c.l1c).take l1Lines, l1 := c.l1.take (l1Lines - min l1Lines (c.l1c.length + 1)) }

/-- Remove a line from every L1 of the package (07 R175). -/
def l1DropAll (line : Nat) (s : State) : State :=
  { s with dies := s.dies.map fun (n, d) =>
      (n, { d with cores := d.cores.map fun (k, c) => (k, c.l1Drop line) }) }

/-- A load of a strand misses its core's L1 (16 R411). -/
def countMiss (s : State) : State := countEv s.cur.die 0x010 (some s.mySlot) (some s.cur.core) 1 s

/-- Bytes a strand's load reads from a translated page wider than CORE: the line as its L1 last filled it, or the home's,
which the L1 then keeps unless `na` says otherwise. Whether a line once filled is still there is free (log 8). -/
def l1Read (key n : Nat) (na : Bool) (s : State) : List Byte × State :=
  let line := key / lineSize
  let miss := fun (s : State) =>
    (s.bytes key n, (countMiss s).modMyCore fun c =>
      if na then c.l1Drop line else c.l1Fill line (s.bytes (line * lineSize) lineSize))
  match l1Get s.myCore line with
  | none => miss s
  | some bs =>
    let (v, s) := s.takeFree
    if bit v 0 then miss s else ((bs.drop (key - line * lineSize)).take n, s)

/-- A strand's load from a CORE page: what the home holds, whether the line is in its L1 or is filled now (06 R164). -/
def l1ReadOwn (key n : Nat) (na : Bool) (s : State) : List Byte × State :=
  let line := key / lineSize
  (s.bytes key n,
    if s.myCore.l1c.contains line then s
    else if na then countMiss s else (countMiss s).modMyCore fun c => c.l1FillOwn line)

/-! ### Watchpoints (16 R390, R396, R397) -/

/-- The bytes of a watched 16-byte block that a write touches, as a mask of the block. -/
def watchMask (block : Nat) (va : Nat) (en : List Bool) : Nat :=
  (List.range 16).foldl (fun m k =>
    if va ≤ block + k ∧ en.getD (block + k - va) false then m + 2 ^ k else m) 0

/-- The lowest-numbered watchpoint of a context that a write of the enabled bytes at some addresses hits: its number, the
watched bytes touched and the lowest of them (16 R396, R397). -/
def watchHits (x : Ctx) (ws : List (Word × List Bool)) : Option (Nat × Nat × Word) :=
  if x.brkRegs.isEmpty then none
  else
    (List.range 8).findSome? fun i =>
      let ctl := x.brkReg (0x811 + 2 * i)
      let block := (x.brkReg (0x810 + 2 * i)).toNat / 16 * 16
      let m := ws.foldl (fun m w => m ||| watchMask block w.1.toNat w.2) 0 &&& fld ctl 0 16
      if bit ctl 63 ∧ m ≠ 0 then
        let low := ((List.range 16).find? fun k => m.testBit k).getD 0
        some (i, m, BitVec.ofNat 64 (block + low))
      else none

/-- That of a write at one address. -/
def watchHit (x : Ctx) (va : Word) (en : List Bool) : Option (Nat × Nat × Word) := watchHits x [(va, en)]

/-- The watch information word (16 R397). -/
def watchInfo (mask sdie akind i skid beat : Nat) : Word :=
  BitVec.ofNat 64 (mask % 65536 * 2 ^ 48 + sdie % 8192 * 2 ^ 35 + akind % 8 * 2 ^ 32 + i % 8 * 2 ^ 29 +
    skid % 4 * 2 ^ 27 + beat % 131072)

/-- A strand's own write against its context's watchpoints: a hit of `ACT` 0 is recorded and the write goes on; any
other traps (16 R398). A unit that resumes after a trap here is not checked again (16 R393). -/
def watchStrand (ws : List (Word × List Bool)) (s : State) : Eff :=
  if s.myCore.unchecked s.cur.strand s.cur.pc then .ok s
  else
    match watchHits s.myCtx ws with
    | none => .ok s
    | some (i, m, a) =>
      let info := watchInfo m (dieIdentity s.cur.die) 0 i 0 0
      if watchAct s.myCtx info = 0 then .ok (watchRecord s.cur.die s.cur.core s.cur.strand info a s)
      else .error (.trap cWatchpoint info a)

/-! ### Loads and stores of strands -/

/-- Whether a posted write or atomic of the executing strand that is still on its way in the package goes to any of n bytes at
a key: a load waits for it (07 R180, R188). -/
def flyingTo (key n : Nat) (s : State) : Bool :=
  decide (s.cur.strand = 1) && (s.flying s.cur.die s.cur.core).any fun x =>
    let k := (x.words.getD 11 0).toNat
    decide (k < key + n) && decide (key < k + (x.words.getD 2 0).toNat % 2 ^ 16)

/-- A strand's load of n bytes that passed its checks (06 R158, R164; 07 R184, R188). -/
def loadFound (va : Word) (n : Nat) (na home : Bool) (f : Found) (s : State) : Except Stop (List Byte × State) :=
  let p := f.place
  if flyingTo p.key n s then .error (.wait 10 0)
  else
    match { s with bad := s.badMet }.badIn p.key n with
    | some _ => trapAt cUncorrectable va
    | none =>
      let s := scrub p.home p.key n (keepFound s s.agent va f false)
      let (bs, s) :=
        if p.aper ≠ 16 ∨ home then (s.bytes p.key n, s)
        else if p.scope = 0 then l1ReadOwn p.key n na s else l1Read p.key n na s
      .ok (overHeld s.me.held p.key bs, s)

/-- A strand's load (06 R142, R159). `home` reads at the home and not from L1 (07 R177). -/
def load (va : Word) (n : Nat) (aligned na home : Bool) (s : State) : Except Stop (List Byte × State) := do
  let f ← locateIf s s.agent va n aligned .rd na
  loadFound va n na home f s

/-- Whether an address is a multiple of n. -/
def multiple (n : Nat) (va : Word) : Bool := decide (va.toNat % n = 0)

/-- Load consecutive pieces of `size` bytes each, lowest first. -/
def loadRange (va : Word) (size count : Nat) (s : State) : Except Stop (List Byte × State) :=
  (List.range count).foldlM (fun acc i => do
    let (bs, s) ← load (va + BitVec.ofNat 64 (size * i)) size (multiple size va) false false acc.2
    .ok (acc.1 ++ bs, s)) ([], s)

/-- Bytes of a place as the executing strand sees them. -/
def seen (s : State) (key n : Nat) : List Byte := overHeld s.me.held key (s.bytes key n)

/-- Whether a write changes what its strand sees (06 R141). -/
def changes (s : State) (key : Nat) (bs : List (Option Byte)) : Bool :=
  ((seen s key bs.length).zip bs).any fun (o, n) => n.isSome && n ≠ some o

/-- Perform a strand's write at a place (06 R158, R164; 07 R187): writes to lane slices and core scratch land at the end
of the cycle, after what the strand holds (07 R181 edge 5; log 8); every other goes through the combining buffer. After a
`fence.rel`, `.ar` or `.sc` every write is a release (07 R178). -/
def storeAt (rel : Bool) (p : Place) (bytes : List (Option Byte)) (s : State) : State :=
  let rel := rel || s.me.relAll
  let s := if s.me.relAll then { s with cur := { s.cur with rel := true } } else s
  if p.aper ≤ 1 then
    (behindHeld s).modMyCore fun c =>
      { c with late := c.late ++ [{ strand := s.cur.strand, key := p.key, bytes }] }
  else
    let s := if p.aper = 16 then s.modMe fun t => { t with scLines := (p.key / lineSize :: t.scLines).eraseDups } else s
    holdWrite rel p.key bytes s

/-- One write of a store: its address and its bytes. -/
abbrev Put := Word × List (Option Byte)

/-- Check one write of a store (06 R142): its place. `aligned` judges its address. -/
def checkPut (s : State) (aligned : Word → Bool) (na : Bool) (w : Put) : Except Stop Found :=
  locateIf s s.agent w.1 w.2.length (aligned w.1) .wr na

/-- Perform one checked write. -/
def doPut (rel : Bool) (s : State) (w : Put × Found) : State :=
  let s := keepFound s s.agent w.1.1 w.2 (changes s w.2.place.key w.1.2)
  storeAt rel w.2.place w.1.2 s

/-- The words with an uncorrectable error that the held writes of one store cover together and none alone: each is held whole
once more after them, so that it leaves whole and clears the error (06 R170). -/
def wholeWords (ps : List (Put × Found)) (s : State) : List (Place × List (Option Byte)) :=
  let hs : List Held := (ps.filter fun w => 2 ≤ w.2.place.aper).map fun w => { key := w.2.place.key, bytes := w.1.2 }
  let ws := hs.map fun h => (h.key, h.bytes)
  (s.bad.filter fun w => coversWord ws w && !(ws.any fun x => coversWord [x] w)).filterMap fun w =>
    (ps.find? fun p => decide (p.2.place.key < w + 8) && decide (w < p.2.place.key + p.1.2.length)).map fun p =>
      ({ p.2.place with key := w }, (overHeld hs w (List.replicate 8 0)).map some)

/-- A strand's store of several writes: all are checked, then all watched, before any is performed (06 R163). A word with an
uncorrectable error is refused unless the writes, or what the strand holds, cover all of it (06 R170). -/
def store (rel : Bool) (aligned : Word → Bool) (na : Bool) (ws : List Put) (s : State) : Eff := do
  let fs ← ws.mapM (checkPut s aligned na)
  let s ← watchStrand (ws.map fun w => (w.1, w.2.map Option.isSome)) s
  let ps := ws.zip fs
  let met := { s with bad := s.badMet.filter fun w => !coversWord (ps.map fun p => (p.2.place.key, p.1.2)) w }
  match ps.find? fun w => partialBad met w.2.place.key w.1.2 with
  | some w => trapAt cUncorrectable w.1.1
  | none => .ok ((wholeWords ps s).foldl (fun s w => storeAt false w.1 w.2 s) (ps.foldl (doPut rel) s))

/-- A zero-length write or read: checked as one byte at its base address, and nothing else (06 R169, R441). -/
def touch (acc : Acc) (na : Bool) (va : Word) (s : State) : Eff := do
  let f ← locate s s.agent va 1 1 acc na
  .ok (keepFound s s.agent va f false)

/-- The bytes of a number as a write. -/
def putNumBytes (n v : Nat) : List (Option Byte) := (toBytes n v).map some

/-! ### Loads of a unit that then waits (08 R206, 09 R236, 12 R320) -/

/-- Load once: a unit that has waited since keeps what it loaded. -/
def loadOnce (get : State → Except Stop (List Byte × State)) (s : State) :
    Except Stop (List Byte × State) :=
  match s.me.kept with
  | some bs => .ok (bs, s.modMe fun t => { t with kept := none })
  | none => get s

/-- A unit that must wait after its load keeps the bytes. -/
def keepLoaded (bs : List Byte) (s : State) (r : Eff) : Eff :=
  match r with
  | .error (.wait k n) => .ok { s.modMe fun t => { t with kept := some bs } with cur := { s.cur with hold := some (k, n) } }
  | r => r

/-! ### Tokens (06 R156, 09 R226) -/

/-- Wait for every token a mask names; a faulted one raises `ENGINE_FAULT` before any effect; the wait acquires. -/
def tokenWait (mask : Nat) (s : State) : Eff :=
  if mask = 0 then .ok s
  else
    let named := (List.range 8).filter fun i => mask.testBit i
    match named.find? fun i => (s.me.tok i).count ≠ 0 with
    | some i => .error (.wait 9 i)
    | none =>
      match named.find? fun i => (s.me.tok i).fault with
      | some i => .error (.trap cEngineFault (BitVec.ofNat 64 i) 0)
      | none => .ok (acquire s)

/-- An instruction with a token wait mask in X[15:8] (06 R156). -/
def issueTok (f : Form) (w : StrandWord) (eff : State → Eff) (s : State) : Host.Outcome State Fault Refusal :=
  issue f w (fun s => do
    let s ← tokenWait (fld (f.effX w) 8 8) s
    eff s) s

end Sys2Proof.Machine
end

