-- ==== Sys2Proof/Machine/RingOps.lean ====
section
/-!
DEFINITION. Rings in die common: their control blocks in the engine ring control aperture, and the rules of their
indices (08 R193 to R201). Indices count without bound here and show modulo 2^32.
-/

namespace Sys2Proof.Machine

/-- Whether a ring number is a command ring (08 R193). -/
def isCommandRing (n : Nat) : Bool := decide (n < 20)
/-- Whether a ring number is a result ring (08 R193). -/
def isResultRing (n : Nat) : Bool := decide (20 ≤ n) && decide (n < 40)

/-- Free words of a command ring (08 R206). -/
def Ring.free (r : Ring) : Nat := r.size - (r.tail - r.ret)

/-- `RIDX` (08 R196). -/
def Ring.ridx (r : Ring) : Word := BitVec.ofNat 64 (r.head % 2 ^ 32 * 2 ^ 32 + r.tail % 2 ^ 32)
/-- `RRET` (08 R196). -/
def Ring.rret (r : Ring) : Word := BitVec.ofNat 64 (r.ret % 2 ^ 32)
/-- `RSTAT` (08 R196). -/
def Ring.rstat (r : Ring) : Word :=
  BitVec.ofNat 64 (r.state % 4 * 2 ^ 62 + r.cause.toNat * 2 ^ 48 + r.lost % 16384 * 2 ^ 34 + r.off % 2 ^ 32)

/-- A word of a ring's control block by its byte offset (08 R194): bytes 32 to 63 read zero. -/
def Ring.block (r : Ring) (off : Nat) : Word :=
  match off with
  | 0 => r.cfg
  | 8 => r.ridx
  | 16 => r.rret
  | 24 => r.rstat
  | _ => 0

/-- Whether n bytes at a die-common offset lie in a context's `DCMWIN`. -/
def inDcmWin (x : Ctx) (off n : Nat) : Bool :=
  let r := x.reg 0x01D
  decide (winBase r 65536 ≤ off) && decide (off + n ≤ winBase r 65536 + winSize r 65536)

/-- Whether a store to `RCFG` is accepted (08 R195). -/
def rcfgOk (s : State) (die : Nat) (old v : Word) : Bool :=
  let l := fld v 31 5
  let base := fld v 0 23
  fld v 48 16 = 0 && fld v 23 8 = 0 && decide (4 ≤ l) && decide (l ≤ 16) && base % 2 ^ l = 0 &&
    (!bit v 40 || inDcmWin (s.ctx die (fld v 36 4)) (base * 8) (8 * 2 ^ l)) &&
    (!bit old 40 || setFld v 40 1 0 = setFld old 40 1 0)

/-- The drill's state of a ring that is enabled: every item at its reset value (11 R272). Windows still on their way add
nothing (log 18). -/
def Drill.restart (d : Drill) : Drill :=
  let next := d.taken.filterMap fun t => match t.job with
    | .mx r => r.next
    | _ => none
  { wins := (d.wins ++ next).map fun w => { w with dead := true }, nextId := d.nextId }

/-- The drill as an agent (08 R209). -/
def agentDrill : Nat := agentEngine 0

/-- The engine that consumes a command ring, as an agent (08 R193, R209). -/
def ringAgent (n : Nat) : Nat := agentEngine (if n < 4 then 0 else 18)

/-- Word i after the head of a ring. -/
def headWord (die n i : Nat) (s : State) : Word :=
  let r := s.ring die n
  s.word (ringKey die r (r.head + i))

/-- The `INFO` word of a drill's fault record. -/
def drillInfo (seq flags : Nat) (prw : Bool) (kdone soff : Nat) : Word :=
  BitVec.ofNat 64 (seq % 2 ^ 24 * 2 ^ 40 + flags % 256 * 2 ^ 32 + b2n prw * 2 ^ 31 + kdone % 1024 * 2 ^ 12 + soff % 128)

/-- The `INFO` word of a fault record of a command ring that has no command to tell of: a drill ring's next window sequence (11
R271). -/
def ringInfo (die n : Nat) (s : State) : Word := if n < 4 then drillInfo (s.drill die n).seq 0 false 0 0 else 0

/-- A held command's wait on a flag that ends with the command is recorded (08 R211). -/
def logRingWait (die n : Nat) (s : State) : State :=
  let r := s.ring die n
  let wt := fld (headWord die n 0 s) 56 8
  if r.state = 2 ∧ 0 < wt ∧ wt < 128 ∧ !r.granted then
    logWait die r.owner wt (ringAgent n) agentNone ((s.die die).cyc - r.waitFrom) s
  else s

/-- `ST` of a ring whose untaken commands are gone. -/
def Ring.stLeft (r : Ring) : Nat := if r.state ≠ 2 then r.state else if r.ret = r.head then 0 else 1

/-- Write `RCFG`: enabling empties the ring; disabling discards what has not been taken (08 R195). -/
def writeRcfg (die n : Nat) (v : Word) (s : State) : Eff :=
  let r := s.ring die n
  if !rcfgOk s die r.cfg v then trapOf cReservedField
  else
    let s := if bit v 40 && !r.en && decide (n < 4) then s.modDrill die n Drill.restart else s
    let s := if !bit v 40 && r.en && decide (n < 20) then logRingWait die n s else s
    .ok (s.modRing die n fun r =>
      if bit v 40 && !r.en then { cfg := v }
      else if !bit v 40 && r.en then { r with cfg := v, tail := r.head, loop := none, granted := false, state := r.stLeft }
      else { r with cfg := v })

/-- Words of the command at a command ring's head, a rejected word counting as one (08 R199; 03 R78; 13 R348). -/
def headLen (die n : Nat) (s : State) : Nat :=
  let r := s.ring die n
  let w := s.word (ringKey die r r.head)
  if 128 ≤ fld w 48 8 ∨ (s.badIn (ringKey die r r.head) 8).isSome then 1
  else if n < 4 then (drillLen (fld w 40 8)).getD 1 else (rxeLen (fld w 40 8)).getD 1

/-- Store `ACT` to `RSTAT`: a stopped ring retries or discards the command at its head (08 R199). A discarded drill command
retires behind those still taken; with less than a command before `TAIL`, what is there is discarded. -/
def restartRing (die n act : Nat) (s : State) : State :=
  let r := s.ring die n
  if r.state ≠ 3 then s
  else if act = 1 then s.modRing die n fun r => { r with state := 0, cause := 0, granted := false }
  else if act = 2 then
    let k := min (headLen die n s) (r.tail - r.head)
    let d := s.drill die n
    if decide (n < 4) && (!d.taken.isEmpty || r.loop.isSome) then
      let t : TakenCmd := { id := d.nextId, idx := r.head, len := k, sg := 0, job := .ready, set := d.set, sess := d.sess,
                            bcIn := d.bcIn, loop := r.loop }
      (s.modDrill die n fun d => { d with taken := d.taken ++ [t], nextId := d.nextId + 1 }).modRing die n fun r =>
        { r with state := 0, cause := 0, granted := false, head := r.head + k }
    else s.modRing die n fun r => { r with state := 0, cause := 0, granted := false, head := r.head + k, ret := r.head + k }
  else s

/-- Whether an offset of the aperture is an aligned 8-byte word of a ring's block (08 R194, R197). -/
def ringOff (off : Nat) : Bool := decide (off < 40 * 64) && off % 8 = 0

/-- An 8-byte load of the ring control aperture: of any block of a ring the context owns (08 R197). -/
def ringLoad (die slot : Nat) (va : Word) (s : State) : Except Stop Word :=
  let off := fld va 0 48
  if ringOff off && (s.ring die (off / 64)).owner = slot then .ok ((s.ring die (off / 64)).block (off % 64))
  else trapAt cAddressClass va

/-- The checks of a store of n bytes to the ring control aperture (08 R197): an unprivileged one to `RCFG`, of any width, is the
exception to `ADDRESS_CLASS`. -/
def ringMay (die slot n : Nat) (sup : Bool) (va : Word) (s : State) : Except Stop Unit :=
  let off := fld va 0 48
  if off < 40 * 64 ∧ off % 64 < 8 ∧ !sup then trapAt cPrivilege va
  else if ringOff off && n = 8 && (off % 64 = 0 || (off % 64 = 24 && (sup || (s.ring die (off / 64)).owner = slot))) then .ok ()
  else trapAt cAddressClass va

/-- An 8-byte store to the ring control aperture (08 R197). -/
def ringStore (die slot : Nat) (sup : Bool) (va v : Word) (s : State) : Eff := do
  ringMay die slot 8 sup va s
  let n := fld va 0 48 / 64
  if fld va 0 48 % 64 = 0 then writeRcfg die n v s else .ok (restartRing die n (fld v 32 2) s)

/-- Whether an address lies in the engine ring control aperture. -/
def inRingAperture (va : Word) : Bool := canonical va && inAperture va && fld va 48 4 = 4

/-- A flag's value with its saturation bit, as `flw` and `flr` land it (08 R209). -/
def flagWord (c : Ctx) (n : Nat) : Word := BitVec.ofNat 64 (b2n (Tab.get false c.satf n) * 65536 + c.flag n)

end Sys2Proof.Machine
end

