-- ==== Sys2Proof/Machine/MemInstr.lean ====
section
/-! DEFINITION. The memory and tile instructions, 0x0E0 to 0x0F2 (06 R151 to R169, R441). -/

namespace Sys2Proof.Machine

namespace Forms

/-- `TWM` is zero on H and E (06 R155). -/
def twm (n : Nat) (x : BitVec 16) : Bool := n = 1 || fld x 8 8 = 0
/-- The scalar layout (06 R155). -/
def layS (n : Nat) (x : BitVec 16) : Bool := twm n x && (fld x 4 4 = 0 || decide (8 ≤ fld x 4 4)) && fld x 0 3 = 0
/-- The scalar layout of `ldacq` and `strel`: `NA` zero (07 R177). -/
def laySNoNa (n : Nat) (x : BitVec 16) : Bool := layS n x && !bit x 3
/-- The vector layout of a load or a store (06 R155). -/
def layV (store : Bool) (n : Nat) (x : BitVec 16) : Bool :=
  twm n x && fld x 0 3 = 0 && (if n = 1 then fld x 4 4 = 0 else !(store && bit x 7))
/-- The vector layout of `gath` and `scat` (06 R155, R162). -/
def layG (n : Nat) (x : BitVec 16) : Bool := twm n x && fld x 4 4 = 0 && decide (fld x 0 3 ≤ 4)
/-- The plain layout (06 R155). -/
def layP (n : Nat) (x : BitVec 16) : Bool := twm n x && fld x 0 8 = 0

/-- `ld` (06 R157). -/
def ld : Form := { strands := onHAE, dst := [.scal], a := .s, b := .s, x := layS }
/-- `st` (06 R157). -/
def st : Form := { strands := onHAE, dst := [.none], a := .s, b := .s, c := .s, x := layS }
/-- `ldv` and `ldvs` (06 R157). -/
def ldv : Form := { strands := onAE, dst := [.vec], a := .s, b := .s, x := layV false }
/-- `stv` and `stvs`: vector data of A is a pop; a scalar broadcasts (06 R157). -/
def stv : Form := { strands := onAE, dst := [.none], a := .s, b := .s, c := .v, x := layV true }
/-- `gath` (06 R157). -/
def gath : Form := { strands := onA, dst := [.vec], a := .s, b := .vq, x := layG }
/-- `scat` (06 R157). -/
def scat : Form := { strands := onA, dst := [.none], a := .s, b := .vq, c := .vq, x := layG }
/-- `ldl` (06 R157). -/
def ldl : Form := { strands := onE, dst := [.vec], a := .vq, b := .s, x := layV false }
/-- `stl` (06 R157). -/
def stl : Form := { strands := onE, dst := [.none], a := .vq, b := .s, c := .v, x := layV true }
/-- `pref` (06 R157). -/
def pref : Form := { strands := onA, dst := [.none], a := .s, b := .s, c := .sel 1, x := layP }
/-- `wbl`, `invl`, `zfill` (06 R157). -/
def two : Form := { strands := onA, dst := [.none], a := .s, b := .s, x := layP }
/-- `tld` (06 R157). -/
def tld : Form := { strands := onA, dst := [.vec], a := .s, b := .s, x := layP }
/-- `tst` (06 R157). -/
def tst : Form := { strands := onA, dst := [.none], a := .s, b := .s, c := .vq, x := layP }
/-- `tset.def` (06 R166). -/
def tsetDef : Form := { strands := onHA, dst := [.none], a := .s, b := .s, c := .sel 0, x := layP }
/-- `tset.open` and `tset.rel` (06 R166): any other selector is refused. -/
def tsetMode (mode : Nat) : Form :=
  { strands := onHA, dst := [.none], a := .s, c := .sel 2, x := layP, w := fun w => w.c.idx.toNat = mode }
/-- `tqry` (06 R157). -/
def tqry : Form := { strands := onHA, dst := [.scal], a := .s, x := layP }
/-- `ldcb` (06 R157). -/
def ldcb : Form := { strands := onA, dst := [.none], a := .s, b := .s, c := .sel 15, x := layP }

end Forms

/-! ### Scalar and vector accesses (06 R159 to R163) -/

/-- Signedness and bytes of a scalar access by `WD` (06 R155, R159). -/
def wdFmt (x : BitVec 16) : Bool × Nat := ((intFmt (fld x 4 4)).1, (intFmt (fld x 4 4)).2 / 8)

/-- A loaded value extended to 64 bits (06 R159). -/
def extLoaded (sg : Bool) (n : Nat) (bs : List Byte) : Word := BitVec.ofInt 64 (wrapInt sg (8 * n) (ofBytes bs))

/-- Latency of a load of an E strand by its address (02 R47, 03 R65). -/
def loadLat (va : Word) : Nat := if inAperture va && fld va 48 4 = 0 then 3 else 6

/-- Latency of a vector load: lane slices alone give `LSL`, and one lane in core scratch gives `SCL` (03 R65; log 3). -/
def lanesLat (vas : List Word) : Nat := (vas.map loadLat).foldl max 3

/-- A captured base and offset added (06 R157). -/
def addrAB (k : Caps) : Word := lo64 k.a + lo64 k.b

/-- `ld` and `ldacq` once their operands are read. -/
def loadScalar (op : Nat) (w : StrandWord) (k : Caps) (home : Bool) (s : State) : Eff := do
  let va := addrAB k
  let (sg, n) := wdFmt k.x
  if inRingAperture va && s.cur.strand < 2 then
    if n ≠ 8 then trapAt cAddressClass va
    else
      let v ← ringLoad s.cur.die s.mySlot va s
      need (!bit k.x 3) cIllegalOperand
      deliver op 1 w { a := ofWord v } s
  else
    let (bs, s) ← load va n (multiple n va) (bit k.x 3) home s
    deliver op (loadLat va) w { a := ofWord (extLoaded sg n bs) } s

/-- `st` and `strel` once their operands are read. -/
def storeScalar (rel : Bool) (k : Caps) (s : State) : Eff :=
  let va := addrAB k
  let n := (wdFmt k.x).2
  if inRingAperture va && s.cur.strand < 2 then do
    ringMay s.cur.die s.mySlot n s.sup va s
    need (!bit k.x 3) cIllegalOperand
    ringStore s.cur.die s.mySlot s.sup va (lo64 k.c) (drainMine s)
  else store rel (multiple n) (bit k.x 3) [(va, putNumBytes n (lo64 k.c).toNat)] s

/-- `ld` (06 R159). -/
def execLd (w : StrandWord) (s : State) : Host.Outcome State Fault Refusal :=
  issueTok Forms.ld w (fun s => do
    let (k, s) ← capture Forms.ld id w s
    loadScalar 0x0E0 w k false s) s

/-- `st` (06 R159). -/
def execSt (w : StrandWord) (s : State) : Host.Outcome State Fault Refusal :=
  issueTok Forms.st w (fun s => do
    let (k, s) ← capture Forms.st id w s
    storeScalar false k s) s

/-- Active lanes of the vector layout (06 R155, R160). -/
def maskV (x : BitVec 16) (t : Strand) : Lane := if fld x 4 3 = 0 then BitVec.allOnes 32 else t.mreg (fld x 4 3)

/-- The numbers of the active lanes, lowest first. -/
def activeLanes (m : Lane) : List Nat := (List.range 32).filter fun L => bit m L

/-- Load an element for each active lane; the vector has zero in the others. -/
def loadLanes (lanes : List Nat) (va : Nat → Word) (n : Nat) (aligned : Word → Bool) (ext : List Byte → Lane) (na : Bool)
    (s : State) : Except Stop (Vec × State) := do
  let (xs, s) ← lanes.foldlM (fun (acc : List (Nat × Lane) × State) L => do
    let (bs, s) ← load (va L) n (aligned (va L)) na false acc.2
    .ok ((L, ext bs) :: acc.1, s)) ([], s)
  .ok (mkVec fun L => ((xs.find? fun x => x.1 = L).map Prod.snd).getD 0, s)

/-- The lane of four loaded bytes. -/
def lane4 (bs : List Byte) : Lane := BitVec.ofNat 32 (ofBytes bs)

/-- `ldv`, `ldvs` and `ldl` once their operands are read: the lanes' addresses, and the base a zero-length read is
checked at (06 R441). -/
def loadVector (op : Nat) (w : StrandWord) (k : Caps) (va : Nat → Word) (base : Word) (aligned : Word → Bool) (lat : Nat)
    (s : State) : Eff := do
  let m := maskV k.x s.me
  let na := bit k.x 3
  if m = 0 then
    let s ← touch .rd na base s
    deliver op lat w { a := 0, mask := m, x := k.x } s
  else
    let (v, s) ← loadLanes (activeLanes m) va 4 aligned lane4 na s
    deliver op lat w { a := v, mask := m, x := k.x } s

/-- `stv`, `stvs` and `stl` once their operands are read (06 R160, R163, R169). -/
def storeVector (k : Caps) (va : Nat → Word) (base : Word) (aligned : Word → Bool) (s : State) : Eff :=
  let m := maskV k.x s.me
  let na := bit k.x 3
  if m = 0 then touch .wr na base s
  else store false aligned na ((activeLanes m).map fun L => (va L, putNumBytes 4 (lane k.c L).toNat)) s

/-- Lane addresses of `ldv` and `stv` (06 R160). -/
def contiguous (base : Word) (L : Nat) : Word := base + BitVec.ofNat 64 (4 * L)
/-- Lane addresses of `ldvs` and `stvs`: the stride is sx(B, 32) (06 R160). -/
def strided (k : Caps) (L : Nat) : Word := lo64 k.a + BitVec.ofInt 64 (L * sx k.b 32)

/-- `ldv` (06 R160): A + B aligned to 128. -/
def execLdv (w : StrandWord) (s : State) : Host.Outcome State Fault Refusal :=
  issueTok Forms.ldv w (fun s => do
    let (k, s) ← capture Forms.ldv id w s
    let b := addrAB k
    loadVector 0x0E2 w k (contiguous b) b (fun _ => multiple 128 b) (loadLat b) s) s

/-- `stv` (06 R160). -/
def execStv (w : StrandWord) (s : State) : Host.Outcome State Fault Refusal :=
  issueTok Forms.stv w (fun s => do
    let (k, s) ← capture Forms.stv id w s
    let b := addrAB k
    storeVector k (contiguous b) b (fun _ => multiple 128 b) s) s

/-- `ldvs` (06 R160): each lane's address aligned to 4. -/
def execLdvs (w : StrandWord) (s : State) : Host.Outcome State Fault Refusal :=
  issueTok Forms.ldv w (fun s => do
    let (k, s) ← capture Forms.ldv id w s
    let m := maskV k.x s.me
    let lat := if m = 0 then loadLat (lo64 k.a) else lanesLat ((activeLanes m).map (strided k))
    loadVector 0x0E4 w k (strided k) (lo64 k.a) (multiple 4) lat s) s

/-- `stvs` (06 R160). -/
def execStvs (w : StrandWord) (s : State) : Host.Outcome State Fault Refusal :=
  issueTok Forms.stv w (fun s => do
    let (k, s) ← capture Forms.stv id w s
    storeVector k (strided k) (lo64 k.a) (multiple 4) s) s

/-- Signedness and bytes of a gathered element (06 R162). -/
def gwFmt (x : BitVec 16) : Bool × Nat :=
  match fld x 0 3 with
  | 1 => (true, 1) | 2 => (false, 1) | 3 => (true, 2) | 4 => (false, 2) | _ => (false, 4)

/-- The lanes whose index is not the skip mark (06 R162). -/
def indexedLanes (idx : Vec) : List Nat := (List.range 32).filter fun L => lane idx L ≠ 0x80000000#32

/-- Address of a gathered or scattered lane (06 R162). -/
def indexed (k : Caps) (n L : Nat) : Word := lo64 k.a + BitVec.ofInt 64 ((lane k.b L).toInt * n)

/-- `gath` (06 R162, R441). -/
def execGath (w : StrandWord) (s : State) : Host.Outcome State Fault Refusal :=
  issueTok Forms.gath w (fun s => do
    let (k, s) ← capture Forms.gath id w s
    let (sg, n) := gwFmt k.x
    let lanes := indexedLanes k.b
    let na := bit k.x 3
    if lanes.isEmpty then
      let s ← touch .rd na (lo64 k.a) s
      deliver 0x0E6 1 w { a := 0 } s
    else
      let (v, s) ← loadLanes lanes (indexed k n) n (multiple n)
        (fun bs => BitVec.ofInt 32 (wrapInt sg (8 * n) (ofBytes bs))) na s
      deliver 0x0E6 1 w { a := v } s) s

/-- `scat` (06 R162, R163, R169). -/
def execScat (w : StrandWord) (s : State) : Host.Outcome State Fault Refusal :=
  issueTok Forms.scat w (fun s => do
    let (k, s) ← capture Forms.scat id w s
    let n := (gwFmt k.x).2
    let lanes := indexedLanes k.b
    if lanes.isEmpty then touch .wr (bit k.x 3) (lo64 k.a) s
    else
      store false (multiple n) (bit k.x 3)
        (lanes.map fun L => (indexed k n L, putNumBytes n (lane k.c L).toNat)) s) s

/-- Byte offset of a lane of `ldl` and `stl` within its slice (06 R161). -/
def sliceOff (k : Caps) (L : Nat) : Nat := (lane k.a L).toNat + zx k.b 32

/-- Aperture address of a lane slice's byte (06 R132, R161). -/
def sliceVa (s : State) (k : Caps) (L : Nat) : Word :=
  0xFFF0000000000000#64 + BitVec.ofNat 64 (((s.cur.strand - 2) * 32 + L) * 1024 + sliceOff k L)

/-- Whether n bytes at a lane's offset lie in the lane's own slice, inside `LSWIN` (06 R133, R161). -/
def sliceIn (s : State) (k : Caps) (n L : Nat) : Bool :=
  let r := s.myCtx.reg 0x01A
  decide (sliceOff k L + n ≤ winSize r 64) && decide (winBase r 64 + sliceOff k L + n ≤ 1024)

/-- The checks of `ldl` and `stl` that their offsets decide, lane by lane (06 R142, R155, R161): the window, `NA`, alignment. With
no lane active lane 0 is checked as one byte (06 R169, R441). -/
def sliceOk (s : State) (k : Caps) : Except Stop Unit :=
  let m := maskV k.x s.me
  let (lanes, n) := if m = 0 then ([0], 1) else (activeLanes m, 4)
  lanes.forM fun L =>
    if !sliceIn s k n L then trapAt cAddressClass (sliceVa s k L)
    else if bit k.x 3 then trapOf cIllegalOperand
    else if n = 4 ∧ sliceOff k L % 4 ≠ 0 then trapAt cAlign (sliceVa s k L)
    else .ok ()

/-- `ldl` (06 R161, R441). -/
def execLdl (w : StrandWord) (s : State) : Host.Outcome State Fault Refusal :=
  issueTok Forms.ldl w (fun s => do
    let (k, s) ← capture Forms.ldl id w s
    sliceOk s k
    loadVector 0x0E8 w k (sliceVa s k) (sliceVa s k 0) (multiple 4) 3 s) s

/-- `stl` (06 R161, R163, R169). -/
def execStl (w : StrandWord) (s : State) : Host.Outcome State Fault Refusal :=
  issueTok Forms.stl w (fun s => do
    let (k, s) ← capture Forms.stl id w s
    sliceOk s k
    storeVector k (sliceVa s k) (sliceVa s k 0) (multiple 4) s) s

/-! ### Caches (06 R164) -/

/-- The place of a line for `invl` and `wbl`: translated, with no rights needed; none on an aperture (06 R164). -/
def locateLine (va : Word) (s : State) : Except Stop (Option (Place × State)) := do
  if !canonical va then trapAt cAddressClass va
  else if inAperture va then .ok none
  else
    let l ← match cached s s.cur.die s.mySlot va with
      | some l => .ok l
      | none => walk s s.cur.die s.mySlot va
    if bit l.pte 51 then .error (.wait 10 0)
    else
      let p ← leafPlace s s.myCtx.job va l
      .ok (some (p, keepLeaf s s.agent va l .rd))

/-- `pref`: a prefetch that would fault is dropped; it sets no `AC` (06 R164). -/
def execPref (w : StrandWord) (s : State) : Host.Outcome State Fault Refusal :=
  issueTok Forms.pref w (fun s => do
    let (k, s) ← capture Forms.pref id w s
    match locateIf s s.agent (addrAB k) 1 true .rd false with
    | .ok { place := p, leaf := some _ } =>
      let line := p.key / lineSize
      if w.c.idx = 0#6 ∧ (s.badIn (line * lineSize) lineSize).isNone then
        .ok ((scrub p.home (line * lineSize) lineSize s).modMyCore fun c =>
          if p.scope = 0 then c.l1FillOwn line else c.l1Fill line (s.bytes (line * lineSize) lineSize))
      else .ok s
    | _ => .ok s) s

/-- Send held writes to their homes in order, up to the last that touches a line (06 R164, 07 R187). -/
def drainLine (line : Nat) (s : State) : State :=
  let hs := s.me.held
  let touches := fun (h : Held) => decide (h.key / lineSize = line) ||
    decide ((h.key + h.bytes.length - 1) / lineSize = line)
  let keep := (hs.reverse.takeWhile fun h => !touches h).length
  if keep = hs.length then s
  else { sendFirst s.cur.die s.cur.core s.cur.strand (hs.length - keep) s with cur := { s.cur with ord := true } }

/-- `wbl` (06 R164). -/
def execWbl (w : StrandWord) (s : State) : Host.Outcome State Fault Refusal :=
  issueTok Forms.two w (fun s => do
    let (k, s) ← capture Forms.two id w s
    match ← locateLine (addrAB k) s with
    | none => .ok s
    | some (p, s) =>
      if flyingTo (p.key / lineSize * lineSize) lineSize s then .error (.wait 10 0) else .ok (drainLine (p.key / lineSize) s)) s

/-- `invl` (06 R164). -/
def execInvl (w : StrandWord) (s : State) : Host.Outcome State Fault Refusal :=
  issueTok Forms.two w (fun s => do
    let (k, s) ← capture Forms.two id w s
    match ← locateLine (addrAB k) s with
    | none => .ok s
    | some (p, s) => .ok (s.modMyCore fun c => c.l1Drop (p.key / lineSize))) s

/-! ### Tiles (06 R151 to R154, R165, R166) -/

/-- The table key of a tile identity as a cluster names it, or none for any other value (06 R151). -/
def tileKey (cluster : Nat) (v : Word) : Option Nat :=
  if fld v 12 52 ≠ 0 then none
  else if bit v 11 then if fld v 8 3 = 0 then some (4096 + 256 * cluster + fld v 0 8) else none
  else if bit v 10 then none else some (fld v 0 10)

/-- A tile's entry (06 R152). -/
def Die.tile (d : Die) (k : Nat) : Word := Tab.get 0 d.tiles k
/-- Whether a tile has an owner (06 R153). -/
def Die.owned (d : Die) (k : Nat) : Bool := Tab.get false d.tileOwned k
/-- State, owner, sizes of a tile's entry (06 R152). -/
def tileSt (e : Word) : Nat := fld e 62 2
/-- Owning context slot. -/
def tileCtx (e : Word) : Nat := fld e 58 4
/-- Bytes of a row. -/
def tileRowBytes (e : Word) : Nat := fld e 26 12 * 16
/-- Bytes of the tile. -/
def tileSize (e : Word) : Nat := fld e 38 12 * tileRowBytes e
/-- Readers in flight. -/
def tileRdr (e : Word) : Nat := fld e 18 8
/-- Window offset of the tile's first byte. -/
def tileBase (e : Word) : Nat := fld e 0 18 * 256

/-- The aperture a tile lies in: the pool for a cluster tile, else die common. -/
def tileAper (key : Nat) : Nat := if 4096 ≤ key then 2 else 3

/-- Aperture address of a tile's first byte, within its owner's window. -/
def tileVa (key : Nat) (e : Word) : Word :=
  0xFFF0000000000000#64 + BitVec.ofNat 64 (tileAper key * 2 ^ 48 + tileBase e)

/-- Replace a tile's entry. -/
def setTile (die key : Nat) (e : Word) (s : State) : State :=
  s.modDie die fun d => { d with tiles := Tab.put d.tiles key e }

/-- A tile becomes empty and unowned (06 R153); its fields return to their reset values (log 15). -/
def freeTile (die key : Nat) (s : State) : State :=
  s.modDie die fun d =>
    { d with tiles := Tab.put d.tiles key 0, tileOwned := Tab.put d.tileOwned key false }

/-- Change a tile's reader count; a draining tile whose count reaches 0 becomes empty and unowned (06 R153, R154). -/
def setReaders (die key n : Nat) (s : State) : State :=
  let e := (s.die die).tile key
  if tileSt e = 3 ∧ n = 0 then freeTile die key s else setTile die key (setFld e 18 8 (min n 255)) s

/-- The tile an executing strand names (06 R151): a tile of another context is refused. -/
def nameTile (v : Word) (s : State) : Except Stop Nat :=
  match tileKey (s.cur.core / 8) v with
  | none => trapOf cAddressClass
  | some k =>
    let d := s.die s.cur.die
    if d.owned k && tileCtx (d.tile k) ≠ s.mySlot then trapOf cAddressClass else .ok k

/-- Wait until a tile is ready (06 R154). -/
def readyTile (k : Nat) (s : State) : Except Stop Word :=
  let e := (s.die s.cur.die).tile k
  if tileSt e = 2 then .ok e else .error (.wait 10 0)

/-- The address of 128 bytes of a tile, its alignment checked first (06 R165; log 3). -/
def tilePiece (key : Nat) (e off : Word) : Except Stop Word :=
  let va := tileVa key e + off
  if off.toNat % 128 ≠ 0 then trapAt cAlign va
  else if tileSize e < off.toNat + 128 then trapAt cAddressClass va
  else .ok va

/-- `tld` (06 R165). -/
def execTld (w : StrandWord) (s : State) : Host.Outcome State Fault Refusal :=
  issueTok Forms.tld w (fun s => do
    let (k, s) ← capture Forms.tld id w s
    let n ← nameTile (lo64 k.a) s
    let e ← readyTile n s
    let va ← tilePiece n e (lo64 k.b)
    let (bs, s) ← load va 128 true false false s
    deliver 0x0ED 1 w { a := BitVec.ofNat 1024 (ofBytes bs) } s) s

/-- `tst` (06 R165). -/
def execTst (w : StrandWord) (s : State) : Host.Outcome State Fault Refusal :=
  issueTok Forms.tst w (fun s => do
    let (k, s) ← capture Forms.tst id w s
    let n ← nameTile (lo64 k.a) s
    let e ← readyTile n s
    let va ← tilePiece n e (lo64 k.b)
    store false (fun _ => true) false [(va, putNumBytes 128 k.c.toNat)] s) s

/-- Whether a descriptor's tile fits in a context's window (06 R166). -/
def tileFits (s : State) (g : Agent) (key : Nat) (e : Word) : Bool :=
  (aperturePlace s g (tileAper key) (tileBase e) (tileSize e)).isSome

/-- `tset.def` (06 R166). A descriptor of no rows, or of rows of no bytes, sets a field outside its range (log 15). -/
def execTsetDef (w : StrandWord) (s : State) : Host.Outcome State Fault Refusal :=
  issueTok Forms.tsetDef w (fun s => do
    let (k, s) ← capture Forms.tsetDef id w s
    let n ← nameTile (lo64 k.a) s
    let d := lo64 k.b
    need (!(s.die s.cur.die).owned n) cAddressClass
    need (fld d 58 6 = 0 && tileRdr d = 0 && fmtAssigned (fld d 50 8) && fld d 38 12 ≠ 0 && fld d 26 12 ≠ 0)
      cReservedField
    need (tileFits s s.agent n d) cAddressClass
    let s ← serveOne s.cur.die (thingTile n) s
    .ok (setTile s.cur.die n (setFld d 58 4 s.mySlot)
      (s.modDie s.cur.die fun d => { d with tileOwned := Tab.put d.tileOwned n true }))) s

/-- `tset.open` (06 R166). -/
def execTsetOpen (w : StrandWord) (s : State) : Host.Outcome State Fault Refusal :=
  let f := Forms.tsetMode 1
  issueTok f w (fun s => do
    let (k, s) ← capture f id w s
    let n ← nameTile (lo64 k.a) s
    let e := (s.die s.cur.die).tile n
    need ((s.die s.cur.die).owned n && tileSt e = 0) cAddressClass
    let s ← serveOne s.cur.die (thingTile n) s
    .ok (setTile s.cur.die n (setFld e 62 2 2) s)) s

/-- `tset.rel` (06 R166): with no reader in flight the tile is empty and unowned at once (06 R153). -/
def execTsetRel (w : StrandWord) (s : State) : Host.Outcome State Fault Refusal :=
  let f := Forms.tsetMode 2
  issueTok f w (fun s => do
    let (k, s) ← capture f id w s
    let n ← nameTile (lo64 k.a) s
    let e ← readyTile n s
    let s ← serveOne s.cur.die (thingTile n) s
    .ok (setReaders s.cur.die n (tileRdr e) (setTile s.cur.die n (setFld e 62 2 3) (release s)))) s

/-- `tqry` (06 R166). -/
def execTqry (w : StrandWord) (s : State) : Host.Outcome State Fault Refusal :=
  issueTok Forms.tqry w (fun s => do
    let (k, s) ← capture Forms.tqry id w s
    let n ← nameTile (lo64 k.a) s
    landWord 0x0F0 1 w ((s.die s.cur.die).tile n) s) s

/-! ### Constant banks and fills (06 R167 to R169) -/

/-- `ldcb`: the bank is replaced at the end of the cycle (06 R167). -/
def execLdcb (w : StrandWord) (s : State) : Host.Outcome State Fault Refusal :=
  issueTok Forms.ldcb w (fun s => do
    let (k, s) ← capture Forms.ldcb id w s
    let va := addrAB k
    let (bs, s) ← (List.range 4).foldlM (fun (acc : List Byte × State) i => do
      let (b, s) ← load (va + BitVec.ofNat 64 (128 * i)) 128 (multiple 512 va) false false acc.2
      .ok (acc.1 ++ b, s)) ([], s)
    let ws := (List.range 64).map fun i => BitVec.ofNat 64 (ofBytes ((bs.drop (8 * i)).take 8))
    .ok (s.modMyCore fun c => { c with lateBanks := c.lateBanks ++ [(w.c.idx.toNat, ws)] })) s

/-- Zero a run of lines within one 64 KiB page: every line is checked first; a fault carries the run's address. -/
def zeroPage (va : Word) (lines : Nat) (s : State) : Eff :=
  let ws : List Put := (List.range lines).map fun i =>
    (va + BitVec.ofNat 64 (lineSize * i), List.replicate lineSize (some (0 : Byte)))
  match store false (fun _ => true) false ws s with
  | .error (.trap c i a) => .error (.trap c i (if c = cWatchpoint then a else va))
  | r => r

/-- Zero lines page by page, in ascending order: the state reached and the stop met, if any (06 R168). -/
def zeroPages : Nat → Word → Nat → State → State × Option Stop
  | 0, _, _, s => (s, none)
  | fuel + 1, va, lines, s =>
    if lines = 0 then (s, none)
    else
      let here := min lines ((65536 - va.toNat % 65536) / lineSize)
      match zeroPage va here s with
      | .error e => (s, some e)
      | .ok s => zeroPages fuel (va + BitVec.ofNat 64 (lineSize * here)) (lines - here) s

/-- `zfill`: pages already filled stay so when a later one faults, and what it popped is popped again when it restarts
(06 R168, R169). -/
def execZfill (w : StrandWord) (s : State) : Host.Outcome State Fault Refusal :=
  let start : Except Stop (Word × Nat × State) := do
    checkWord Forms.two w s
    if guardHolds w s then
      let s ← tokenWait (fld (Forms.two.effX w) 8 8) s
      let (k, s) ← capture Forms.two id w s
      let va := lo64 k.a
      let n := zx k.b 24
      let f ← locateIf s s.agent va 1 (multiple 128 va && n % 128 = 0) .wr false
      .ok (va, n, if n = 0 then keepFound s s.agent va f false else s)
    else .ok (0, 0, s)
  match start with
  | .error e => settle s (.error e)
  | .ok (va, n, s1) =>
    match zeroPages 258 va (n / lineSize) s1 with
    | (s2, none) => settle s (.ok s2)
    | (s2, some e) => settle (s2.modMyCore fun c => { c with queues := s.myCore.queues }) (.error e)

end Sys2Proof.Machine
end

