-- ==== Sys2Proof/Machine/Atomic.lean ====
section
/-! DEFINITION. Atomics, acquire and release accesses and fences, 0x110 to 0x11D (07 R171 to R178). -/

namespace Sys2Proof.Machine

namespace Forms

/-- `WD` of the integer atomics and of the floating ones (07 R171). -/
def atomWd (fp : Bool) (n : Nat) : Bool := if fp then n = 0 || n = 1 || n = 6 else n = 0 || decide (12 ≤ n)

/-- The atomic layout (07 R171): `wd` judges the width field. -/
def layA (wd : Nat → Bool) (n : Nat) (x : BitVec 16) : Bool := twm n x && wd (fld x 4 4) && fld x 0 2 = 0

/-- An atomic of two operands (07 R172): a floating one reads B as floating point (02 R36). -/
def atom2 (fp : Bool) : Form :=
  { strands := onA, dst := [.scal, .none], a := .s, b := if fp then .sf else .s, x := layA (atomWd fp) }
/-- `acas` (07 R172). -/
def acas : Form := { strands := onA, dst := [.scal, .none], a := .s, b := .s, c := .s, x := layA (atomWd false) }
/-- `aclm` (07 R176). -/
def aclm : Form := { strands := onHA, dst := [.scal], a := .s, b := .s, x := layA fun n => n = 0 }
/-- `ldacq` (07 R177). -/
def ldacq : Form := { ld with strands := onHA, x := laySNoNa }
/-- `strel` (07 R177). -/
def strel : Form := { st with strands := onHA, x := laySNoNa }
/-- `fence` of a kind (07 R178). -/
def fence (kind : Nat) : Form :=
  { strands := onHA, dst := [.none], x := fun n x => twm n x && fld x 2 6 = 0 && fld x 0 2 = kind }

end Forms

/-- The checks of an atomic by an agent: as a write, needing read rights as well; a lane slice has no atomics (07 R173,
R175). -/
def locateAtom (s : State) (g : Agent) (va : Word) (n : Nat) : Except Stop Found :=
  if canonical va && inAperture va && fld va 48 4 = 0 then trapAt cAddressClass va else locate s g va n n .rw false

/-- Read, compute and write at the executing point, with nothing between (07 R173, R175): the old pattern. A translated
line leaves every L1 of the package. -/
def atomAt (g : Agent) (va : Word) (n : Nat) (f : Found) (new : Nat → Option Nat) (s : State) :
    Except Stop (Nat × State) :=
  let key := f.place.key
  match s.badIn key n with
  | some _ => trapAt cUncorrectable va
  | none =>
    let s := scrub f.place.home key n s
    let old := s.num key n
    let s := if f.place.aper = 16 then l1DropAll (key / lineSize) s else s
    match new old with
    | some v => .ok (old, (keepFound s g va f (v ≠ old)).putNum key n v)
    | none => .ok (old, keepFound s g va f false)

/-- Note the line of a strand's atomic for its next `fence.sc` (07 R178). -/
def noteLine (f : Found) (s : State) : State :=
  if f.place.aper = 16 then s.modMe fun t => { t with scLines := (f.place.key / lineSize :: t.scLines).eraseDups } else s

/-- Whether an atomic's write is a release: by its `ORD`, or after a `fence.rel`, `.ar` or `.sc` (07 R171, R181). -/
def relAtom (ord : Nat) (s : State) : Bool := decide (2 ≤ ord) || s.me.relAll

/-- A strand's atomic away from core scratch: checks, watchpoints, the strand's earlier writes, and the operation (07 R173, R181;
16 R398). `ord` is `ORD`. One that writes nothing is no release (07 R173). -/
def atomic (va : Word) (n ord : Nat) (new : Nat → Option Nat) (s : State) : Except Stop (Nat × State) := do
  let f ← locateAtom s s.agent va n
  let s ← watchStrand [(va, List.replicate n true)] s
  let (old, s) ← atomAt s.agent va n f new (drainMine s)
  let s := if relAtom ord s && (new old).isSome then release s else s
  .ok (old, noteLine f (if ord = 1 ∨ ord = 3 then acquire s else s))

/-- Whether an address lies in the core scratch aperture (06 R132). -/
def inScratch (va : Word) : Bool := canonical va && inAperture va && fld va 48 4 = 1

/-- A strand's atomic on core scratch: an access of its strand in the order of 06 R158, at the end of the cycle (07 R175). -/
def atomScratch (va : Word) (n ord op wd : Nat) (b c : Word) (opc : Nat) (w : StrandWord) (s : State) : Eff := do
  let f ← locateAtom s s.agent va n
  let s ← watchStrand [(va, List.replicate n true)] s
  if (s.badIn f.place.key n).isSome then trapAt cUncorrectable va
  else
    let s := scrub f.place.home f.place.key n (if relAtom ord s then release s else drainMine s)
    let (s, rid) ← if w.dk = .none then Except.ok (s, 0) else reserveDest w s
    let x : LateAtom := { strand := s.cur.strand, key := f.place.key, op, n, wd, b, c, opc, w, rid }
    let s := s.modMyCore fun k => { k with lateAtoms := k.lateAtoms ++ [x] }
    .ok (if ord = 1 ∨ ord = 3 then acquire s else s)

/-- An atomic instruction once its operands are read: the operation, and the old value or what a claim gives landed (07 R173 to
R176). -/
def atomRun (n ord op wd : Nat) (va b c : Word) (opc : Nat) (w : StrandWord) (s : State) : Eff := do
  if inScratch va then atomScratch va n ord op wd b c opc w s
  else
    let (old, s) ← atomic va n ord (accNew op wd n b c) s
    landWord opc 1 w (atomLands op wd b old) s

/-- An atomic of two operands (07 R172 to R174). -/
def atomTwo (opc op : Nat) (w : StrandWord) (s : State) : Host.Outcome State Fault Refusal :=
  let fp := atomIsFp op
  let f := Forms.atom2 fp
  issueTok f w (fun s => do
    let wd := fld (f.effX w) 4 4
    let (k, s) ← capture f (fun _ => atomLit wd) w s
    atomRun (atomBytes fp wd) (fld k.x 2 2) (accAtom op) wd (lo64 k.a) (lo64 k.b) 0 opc w s) s

/-- `aadd` (07 R172). -/
def execAadd (w : StrandWord) (s : State) : Host.Outcome State Fault Refusal := atomTwo 0x110 0 w s

/-- `amin` (07 R172). -/
def execAmin (w : StrandWord) (s : State) : Host.Outcome State Fault Refusal := atomTwo 0x111 1 w s

/-- `amax` (07 R172). -/
def execAmax (w : StrandWord) (s : State) : Host.Outcome State Fault Refusal := atomTwo 0x112 2 w s

/-- `aand` (07 R172). -/
def execAand (w : StrandWord) (s : State) : Host.Outcome State Fault Refusal := atomTwo 0x113 3 w s

/-- `aor` (07 R172). -/
def execAor (w : StrandWord) (s : State) : Host.Outcome State Fault Refusal := atomTwo 0x114 4 w s

/-- `axor` (07 R172). -/
def execAxor (w : StrandWord) (s : State) : Host.Outcome State Fault Refusal := atomTwo 0x115 5 w s

/-- `axch` (07 R172). -/
def execAxch (w : StrandWord) (s : State) : Host.Outcome State Fault Refusal := atomTwo 0x116 6 w s

/-- `acas`: a failed compare is a read only (07 R173). -/
def execAcas (w : StrandWord) (s : State) : Host.Outcome State Fault Refusal :=
  issueTok Forms.acas w (fun s => do
    let (k, s) ← capture Forms.acas id w s
    let wd := fld k.x 4 4
    atomRun (atomBytes false wd) (fld k.x 2 2) accCas wd (lo64 k.a) (lo64 k.b) (lo64 k.c) 0x117 w s) s

/-- `afadd` (07 R174). -/
def execAfadd (w : StrandWord) (s : State) : Host.Outcome State Fault Refusal := atomTwo 0x118 7 w s

/-- `afmax` (07 R174). -/
def execAfmax (w : StrandWord) (s : State) : Host.Outcome State Fault Refusal := atomTwo 0x119 8 w s

/-- `aclm` (07 R176). -/
def execAclm (w : StrandWord) (s : State) : Host.Outcome State Fault Refusal :=
  issueTok Forms.aclm w (fun s => do
    let (k, s) ← capture Forms.aclm id w s
    atomRun 8 (fld k.x 2 2) (accAtom 9) 0 (lo64 k.a) (lo64 k.b) 0 0x11D w s) s

/-- `ldacq`: read at the home, then an acquire (07 R177). -/
def execLdacq (w : StrandWord) (s : State) : Host.Outcome State Fault Refusal :=
  issueTok Forms.ldacq w (fun s => do
    let (k, s) ← capture Forms.ldacq id w s
    let s ← loadScalar 0x11A w k true s
    .ok (acquire s)) s

/-- `strel`: every earlier write of the strand leaves first (07 R177, R186). -/
def execStrel (w : StrandWord) (s : State) : Host.Outcome State Fault Refusal :=
  issueTok Forms.strel w (fun s => do
    let (k, s) ← capture Forms.strel id w s
    storeScalar true k (release s)) s

/-- Every later write of the executing strand is a release (07 R178). -/
def relLater (s : State) : State := s.modMe fun t => { t with relAll := true }

/-- `fence.acq`: what the strand holds leaves for its home first (07 R178, R187). -/
def execFenceAcq (w : StrandWord) (s : State) : Host.Outcome State Fault Refusal :=
  issueTok (Forms.fence 0) w (fun s => .ok (acquire (leaveMine s))) s

/-- `fence.rel`: it completes at once, and the waits of 07 R186 fall on each later write (07 R178, R187). -/
def execFenceRel (w : StrandWord) (s : State) : Host.Outcome State Fault Refusal :=
  issueTok (Forms.fence 1) w (fun s => .ok (relLater (leaveMine s))) s

/-- `fence.ar` (07 R178). -/
def execFenceAr (w : StrandWord) (s : State) : Host.Outcome State Fault Refusal :=
  issueTok (Forms.fence 2) w (fun s => .ok (acquire (relLater (leaveMine s)))) s

/-- `fence.sc`: every earlier write is at its home and acknowledged, and no L1 of the package holds its line (07 R178). -/
def execFenceSc (w : StrandWord) (s : State) : Host.Outcome State Fault Refusal :=
  issueTok (Forms.fence 3) w (fun s =>
    let s := s.me.scLines.foldl (fun s l => l1DropAll l s) (release s)
    .ok (acquire (relLater (s.modMe fun t => { t with scLines := [] })))) s

end Sys2Proof.Machine
end

