-- ==== Sys2Proof/Machine/Break.lean ====
section
/-!
DEFINITION. Break bits: the bitmap of a context, the bits a core holds beside its code lines, and their loading (16 R390
to R392).
-/

namespace Sys2Proof.Machine

/-- Bytes of a line of code. -/
def codeLine : Nat := 128

/-- Address of the bitmap byte of a code word, when the bitmap of a context covers it (16 R390). -/
def breakByte (x : Ctx) (v : Nat) : Option Word :=
  let lo := fld (x.brkReg 0x801) 16 48 * 65536
  let len := fld (x.brkReg 0x801) 0 16 * 65536
  if x.brkReg 0x800 ≠ 0 ∧ lo ≤ v ∧ v < lo + len then some (x.brkReg 0x800 + BitVec.ofNat 64 ((v - lo) / 64)) else none

/-- Read one word's break bit as a load of its context: whether it is set, the fault of the read if it has one, and the
state. -/
def readBreak (die core slot v : Nat) (s : State) : Bool × Option (BitVec 8 × Word) × State :=
  let x := s.ctx die slot
  match breakByte x v with
  | none => (false, none, s)
  | some va =>
    let lo := fld (x.brkReg 0x801) 16 48 * 65536
    match (do
      let (p, s) ← access s { die, core, slot, strand := 6 } va 1 1 .rd false
      let (bs, s) ← readPlace s p 1 va
      .ok (bit (bs.headD 0) ((v - lo) / 8 % 8), s) : Except Stop (Bool × State)) with
    | .ok (b, s) => (b, none, s)
    | .error (.trap c _ a) => (false, some (c, a), s)
    | .error _ => (false, none, s)

/-- Lines an instruction cache holds: 128 KiB (01 R17). -/
def codeLines : Nat := 1024

/-- A core holds a code line with the break bits found for it; with all lines in use the oldest goes, and its bits with it. -/
def Core.fillCode (c : Core) (slot line : Nat) (words hit : List Nat) : Core :=
  let lines := ((slot, line) :: c.ilines.filter fun x => x ≠ (slot, line)).take codeLines
  let kept := c.brk.filter fun x =>
    !(decide (x.1 = slot) && words.contains x.2) && lines.contains (x.1, x.2 / codeLine * codeLine)
  { c with ilines := lines, brk := hit.map (fun v => (slot, v)) ++ kept }

/-- Load the break bits of the line at an address into a core: one fault record for a bitmap that faults (16 R391). -/
def loadBreaks (die core slot line : Nat) (s : State) : State :=
  let words := (List.range (codeLine / 8)).map fun i => line + 8 * i
  let (hit, bad, s) := words.foldl (fun (acc : List Nat × Option (BitVec 8 × Word) × State) v =>
    let (b, f, s) := readBreak die core slot v acc.2.2
    (if b then v :: acc.1 else acc.1, acc.2.1.orElse fun _ => f, s)) ([], none, s)
  let s := s.modCore die core fun c => c.fillCode slot line words hit
  match bad with
  | some (c, a) => faultRecord die slot c agentNone 63 0 a 0 s
  | none => s

/-- Load the lines of a unit that the core does not hold. -/
def fillLines (die core slot : Nat) (pc : Word) (n : Nat) (s : State) : State :=
  let l0 := pc.toNat / codeLine * codeLine
  let l1 := (pc.toNat + n - 1) / codeLine * codeLine
  ([l0, l1].eraseDups.filter fun l => !(s.core die core).ilines.contains (slot, l)).foldl
    (fun s l => loadBreaks die core slot l s) s

/-- Whether a unit at an address holds a break bit that traps now: the lowest such word (16 R391, R392). -/
def brokenAt (s : State) (die core strand : Nat) (pc : Word) (n : Nat) : Option Nat :=
  let c := s.core die core
  if c.unchecked strand pc then none
  else (List.range (n / 8)).find? fun i => c.brk.contains (c.slot, pc.toNat + 8 * i)

/-- Reload the break bits of every line of a context that a die's cores hold (16 R391 `BRKSYNC`). -/
def syncBreaks (die slot : Nat) (s : State) : State :=
  ((s.die die).cores.map Prod.fst).foldl (fun s n =>
    (((s.core die n).ilines.filter fun x => x.1 = slot).map Prod.snd).foldl
      (fun s l => loadBreaks die n slot l s) s) s

/-- `BREAK_BIT_LOAD`: the core of the unit number fills the line at address a of its context and loads its break bits
(16 R391). -/
def execBreakBitLoad (s : State) : Host.Outcome State Fault Refusal :=
  if s.myCore.iter.isNone then stay s
  else act (loadBreaks s.cur.die s.cur.core s.mySlot (s.hand.ev.a.toNat / codeLine * codeLine) s)

/-- `BRKSYNC_WRITE`: the break bits of the context of the unit number are reloaded (16 R391). -/
def execBrksyncWrite (s : State) : Host.Outcome State Fault Refusal := act (syncBreaks s.cur.die (s.cur.unit % 16) s)

end Sys2Proof.Machine
end

