-- ==== Sys2Proof/Machine/Engine.lean ====
section
/-! DEFINITION. The engine queue, flag and guard instructions, 0x130 to 0x138, and the wait-for log (08 R202 to R211). -/

namespace Sys2Proof.Machine

namespace Forms

/-- `enq` (08, Instructions). -/
def enq : Form :=
  { strands := onHA, dst := [.scal, .none], a := .sNoX, b := .sNoX, x := fun n x => twm n x && fld x 1 7 = 0 }
/-- `enqn`: selector n is 1 to 16. -/
def enqn : Form := { enq with c := .sel 16, w := fun w => w.c.idx ≠ 0#6 }
/-- `deq`. -/
def deq : Form := { strands := onA, dst := [.scal], a := .sNoX, x := fun n x => twm n x && fld x 0 8 = 0 }
/-- `engst`. -/
def engst : Form := { deq with strands := onHA, b := .sNoX }
/-- The flag field: bit 7 zero, flag not 0. -/
def layFlag (z : Bool) (n : Nat) (x : BitVec 16) : Bool := twm n x && bit x 7 == z && fld x 0 7 ≠ 0
/-- `flw`. -/
def flw : Form := { strands := onHA, dst := [.scal, .none], a := .sNoX, x := layFlag false }
/-- `fls`. -/
def fls : Form := { strands := onHA, dst := [.none], a := .sNoX, x := layFlag false }
/-- `flr` and `flr.z`. -/
def flr (z : Bool) : Form := { strands := onHA, dst := [.scal], x := layFlag z }
/-- `gset`. -/
def gset : Form := { strands := onHAE, dst := [.none], a := .selPred, x := fun _ x => fld x 6 10 = 0 }
/-- `gset.clr`: any other mode is refused. -/
def gsetClr : Form := { strands := onHAE, dst := [.none], x := fun _ x => fld x 6 10 = 1 }
/-- `gqry`. -/
def gqry : Form := { strands := onHA, dst := [.scal], x := fun _ x => fld x 6 10 = 0 }

end Forms

/-- The ring a strand's instruction names, of the kind it needs (08 R205). -/
def nameRing (command : Bool) (v : Word) (s : State) : Except Stop Nat :=
  let n := v.toNat
  let r := s.ring s.cur.die n
  if decide (n < 64) && (if command then isCommandRing n else isResultRing n) && r.en && r.owner = s.mySlot then .ok n
  else trapOf cAddressClass

/-- Push words at the tail of a command ring in one instant (08 R206). -/
def ringPush (die n : Nat) (ws : List Word) (s : State) : State :=
  let r := s.ring die n
  let s := (List.range ws.length).foldl (fun s i => s.putWord (ringKey die r (r.tail + i)) (ws.getD i 0)) s
  s.modRing die n fun r => { r with tail := r.tail + ws.length }

/-- Push once the words are known: `nb` does not wait (08 R206). -/
def enqWords (op : Nat) (w : StrandWord) (n : Nat) (ws : List Word) (nb : Bool) (s : State) : Eff :=
  let r := s.ring s.cur.die n
  if r.free < ws.length then
    if nb then landWord op 1 w (BitVec.ofNat 64 (2 ^ 63 + r.free)) s else .error (.wait 10 0)
  else landWord op 1 w (BitVec.ofNat 64 (r.tail % 2 ^ 32)) (ringPush s.cur.die n ws (release s))

/-- `enq` (08 R206). -/
def execEnq (w : StrandWord) (s : State) : Host.Outcome State Fault Refusal :=
  issueTok Forms.enq w (fun s => do
    let (k, s) ← capture Forms.enq id w s
    let n ← nameRing true (lo64 k.a) s
    enqWords 0x130 w n [lo64 k.b] (bit k.x 0) s) s

/-- `enqn`: the words are loaded before anything else (08 R206). -/
def execEnqn (w : StrandWord) (s : State) : Host.Outcome State Fault Refusal :=
  issueTok Forms.enqn w (fun s => do
    let (k, s) ← capture Forms.enqn id w s
    let n ← nameRing true (lo64 k.a) s
    let (bs, s) ← loadOnce (loadRange (lo64 k.b) 8 w.c.idx.toNat) s
    keepLoaded bs s (enqWords 0x131 w n (wordsOfBytes bs) (bit k.x 0) s)) s

/-- Land several words in the queue a word's destination names, when it has room for them all. -/
def pushWords (op : Nat) (w : StrandWord) (vs : List Word) (s : State) : Eff :=
  match destQueue w with
  | none => trapOf cIllegalOperand
  | some q =>
    if s.myCore.consumer q ≠ 6 ∧ (s.myCore.queue q).room q s.cyc < vs.length then .error (.wait 2 q)
    else vs.foldlM (fun s v => deliver op 1 w { a := ofWord v } s) s

/-- `deq`: a report is one word; a fault record is four, and needs a queue (08 R207). -/
def execDeq (w : StrandWord) (s : State) : Host.Outcome State Fault Refusal :=
  issueTok Forms.deq w (fun s => do
    let (k, s) ← capture Forms.deq id w s
    let n ← nameRing false (lo64 k.a) s
    let len := if n < 24 then 1 else 4
    need (len = 1 || (destQueue w).isSome) cIllegalOperand
    let r := s.ring s.cur.die n
    orWait (decide (len ≤ r.tail - r.head)) 10 0
    match ringBad s.cur.die r r.head len s with
    | some a => trapAt cUncorrectable a
    | none => pure ()
    let vs := (List.range len).map fun i => s.word (ringKey s.cur.die r (r.head + i))
    let s := acquire (s.modRing s.cur.die n fun r => { r with head := r.head + len, ret := r.head + len })
    match vs with
    | [v] => deliver 0x132 1 w { a := ofWord v } s
    | vs => pushWords 0x132 w vs s) s

/-- Whether a command index has retired: (`RET` - i) mod 2^32 lies in 1 to 2^31 (08 R208). -/
def Ring.retired (r : Ring) (i : Nat) : Bool :=
  let d := (r.ret + 2 ^ 32 - i % 2 ^ 32) % 2 ^ 32
  decide (1 ≤ d) && decide (d ≤ 2 ^ 31)

/-- The status word of a command index (08 R208). -/
def Ring.status (r : Ring) (i : Nat) : Word :=
  let fault := r.state = 3 && !r.retired i
  let done := r.retired i || fault
  BitVec.ofNat 64 (b2n done * 2 ^ 63 + b2n fault * 2 ^ 62 + r.state % 4 * 2 ^ 60 +
    (if fault then r.cause.toNat * 2 ^ 48 else 0) + r.ret % 2 ^ 32)

/-- `engst`: a snapshot showing `DONE` without `FAULT` acquires (08 R208). -/
def execEngst (w : StrandWord) (s : State) : Host.Outcome State Fault Refusal :=
  issueTok Forms.engst w (fun s => do
    let (k, s) ← capture Forms.engst id w s
    let n ← nameRing true (lo64 k.a) s
    let v := (s.ring s.cur.die n).status (zx k.b 32)
    landWord 0x133 1 w v (if bit v 63 && !bit v 62 then acquire s else s)) s

/-- Cycles the executing strand has waited for a flag (08 R211). -/
def State.waited (f : Nat) (s : State) : Nat := if s.me.run = .blocked 8 f then s.cyc - s.me.waitFrom else 0

/-- `flw` (08 R204, R209, R211). -/
def execFlw (w : StrandWord) (s : State) : Host.Outcome State Fault Refusal :=
  issueTok Forms.flw w (fun s => do
    let (k, s) ← capture Forms.flw id w s
    let f := fld k.x 0 7
    let n := zx k.a 16
    let v := flagWord s.myCtx f
    if n = 0 then landWord 0x134 1 w v s
    else
      orWait (decide (n ≤ s.myCtx.flag f)) 8 f
      let s ← serve s.cur.die (thingFlag s.mySlot f) (64 + s.rank) s
      let s := logWait s.cur.die s.mySlot f (agentStrand s.cur.core s.cur.strand)
        (Tab.get 0#16 s.myCtx.flagWho f).toNat (s.waited f) s
      let s := s.modMyCtx fun c => { c with flags := Tab.put c.flags f (c.flag f - n) }
      landWord 0x134 1 w v (acquire s)) s

/-- `fls`: a release, and an increment observed from the next cycle (08 R202, R209). -/
def execFls (w : StrandWord) (s : State) : Host.Outcome State Fault Refusal :=
  issueTok Forms.fls w (fun s => do
    let (k, s) ← capture Forms.fls id w s
    .ok (flagInc s.cur.die s.mySlot (fld k.x 0 7) (zx k.a 16)
      (BitVec.ofNat 16 (agentStrand s.cur.core s.cur.strand)) (release s))) s

/-- `flr` (08 R209). -/
def execFlr (w : StrandWord) (s : State) : Host.Outcome State Fault Refusal :=
  issueTok (Forms.flr false) w (fun s => landWord 0x136 1 w (flagWord s.myCtx (fld w.x 0 7)) s) s

/-- `flr.z`: the flag is zeroed, and its increments acquired (08 R204, R209). -/
def execFlrZ (w : StrandWord) (s : State) : Host.Outcome State Fault Refusal :=
  issueTok (Forms.flr true) w (fun s => do
    let f := fld w.x 0 7
    let s ← serve s.cur.die (thingFlag s.mySlot f) (rankEngine s.rank) s
    let v := flagWord s.myCtx f
    landWord 0x136 1 w v (acquire (s.modMyCtx fun c =>
      { c with flags := Tab.put c.flags f 0, satf := Tab.put c.satf f false }))) s

/-- Change a guard at the end of the cycle (08 R203); `gset` is a release (08 R210). -/
def guardChange (g v : Nat) (s : State) : State :=
  (release s).modMyCore fun c => { c with gdSet := c.gdSet ++ [(s.cur.strand, g, v)] }

/-- `gset` (08 R210). -/
def execGset (w : StrandWord) (s : State) : Host.Outcome State Fault Refusal :=
  issue Forms.gset w (fun s => do
    let g := fld w.x 0 6
    need (s.myCtx.guard g = 0) cIllegalOperand
    .ok (guardChange g (if s.me.pred w.a.idx.toNat then 1 else 2) s)) s

/-- `gset.clr` (08 R210). -/
def execGsetClr (w : StrandWord) (s : State) : Host.Outcome State Fault Refusal :=
  issue Forms.gsetClr w (fun s => .ok (guardChange (fld w.x 0 6) 0 s)) s

/-- `gqry` (08 R210). -/
def execGqry (w : StrandWord) (s : State) : Host.Outcome State Fault Refusal :=
  issue Forms.gqry w (fun s => landWord 0x138 1 w (BitVec.ofNat 64 (s.myCtx.guard (fld w.x 0 6))) s) s

end Sys2Proof.Machine
end

