-- ==== Sys2Proof/Machine/Fabric.lean ====
section
/-!
DEFINITION. The rings between dies: slots in order, refusals and retries (13 R326 to R329; 07 R190), window handles and
the checks of a remote access (13 R330 to R333), and the watchpoints that writers other than strands meet (16 R396 to
R399).
-/

namespace Sys2Proof.Machine

/-! ### Dies by identity (01 R11) -/

/-- A die of this package by its identity; a die of another package is named by its identity plus 8. -/
def dieOf (ident : Nat) : Nat := if ident / 8 = Config.pkgNumber.toNat then ident % 8 else 8 + ident

/-! ### Slots (13 R326 to R329) -/

/-- The class of a slot: 0 request, 1 response, 2 message, 3 priority (13 R326). -/
def slotClass : SlotKind → Nat
  | .access => 0 | .team => 0 | .reply => 1 | .header => 2 | .pull => 2 | .pulled => 2 | _ => 3

/-- The slots of a class from one die to another that have not been taken, in sending order (13 R328). -/
def stream (s : State) (src dst cls : Nat) : List NetSlot :=
  s.net.filter fun x => decide (x.src = src) && decide (x.dst = dst) && decide (slotClass x.kind = cls)

/-- The slot an event names of a stream: its class in the low two bits of b, its place behind the oldest above them. -/
def namedSlot (s : State) (src dst b : Nat) : Option NetSlot := (stream s src dst (b % 4))[b / 4]?

/-- Whether a slot is the oldest of its stream: only that one is taken (13 R328). -/
def isOldest (s : State) (x : NetSlot) : Bool :=
  ((stream s x.src x.dst (slotClass x.kind)).head?.map NetSlot.id) = some x.id

/-- Update the slot of a number. -/
def modSlot (id : Nat) (f : NetSlot → NetSlot) (s : State) : State :=
  { s with net := s.net.map fun x => if x.id = id then f x else x }

/-- Word n of a slot. -/
def NetSlot.w (x : NetSlot) (n : Nat) : Word := x.words.getD n 0

/-- Whether an arrived transfer can be applied next: it is whole, and none of its class from its source stands before it (13
R328). -/
def isNext (box : List NetSlot) (x : NetSlot) : Bool :=
  decide (x.more = 0) &&
    ((box.find? fun y => decide (y.src = x.src) && decide (slotClass y.kind = slotClass x.kind)).map NetSlot.id) = some x.id

/-- The first arrived transfer of a kind at a die that can be applied and that a test allows, taken from those that have
arrived. -/
def takeInboxIf (die : Nat) (kind : SlotKind) (p : NetSlot → Bool) (s : State) : Option (NetSlot × State) :=
  let box := (s.die die).inbox
  match box.find? fun x => decide (x.kind = kind) && isNext box x && p x with
  | none => none
  | some x => some (x, s.modDie die fun d => { d with inbox := d.inbox.filter fun y => y.id ≠ x.id })

/-- The first arrived transfer of a kind at a die that can be applied. -/
def takeInbox (die : Nat) (kind : SlotKind) (s : State) : Option (NetSlot × State) := takeInboxIf die kind (fun _ => true) s

/-! ### Watchpoints met by other writers (16 R396 to R399) -/

/-- A write that is no strand's own, of enabled bytes at an address of a context, against its watchpoints: the hit's
number, information word and lowest byte, and the state with the hit recorded and, under `ACT` 2, the wave launched.
`akind`, `beat` and `skid` are those of the information word. -/
def watchOther (die slot agent akind sdie beat skid : Nat) (va : Word) (en : List Bool) (s : State) :
    Option (Nat × Word × Word) × State :=
  match watchHit (s.ctx die slot) va en with
  | none => (none, s)
  | some (i, m, a) =>
    let info := watchInfo m sdie akind i skid beat
    let how := watchAct (s.ctx die slot) info
    let s := countEv die 0x061 (some slot) none 1 (faultRecord die slot cWatchpoint agent 63 i a info s)
    (some (how, info, a), if how = 2 then launchWave die slot cWatchpoint agent 0 info s else s)

/-! ### Window handles (13 R330 to R332) -/

/-- What the checks at the source give: the target die's number, context slot, key and address, and the handle. -/
structure WinAcc where
  die : Nat
  slot : Nat
  key : BitVec 32
  va : Word
  handle : Nat
  deriving DecidableEq, Repr

/-- Usable handles of a context lie below this (13 R330). -/
def winCount (x : Ctx) : Nat := fld (x.reg 0x01F) 48 16

/-- Address of a window table entry (13 R330). -/
def winVa (x : Ctx) (h : Nat) : Word :=
  (BitVec.ofNat 56 (fld (x.reg 0x01F) 4 44 * 4096)).signExtend 64 + BitVec.ofNat 64 (32 * h)

/-- Read a window table entry in the source context: its four words (13 R332). -/
def winEntry (g : Agent) (h : Nat) (s : State) : Except Stop (List Word × State) := do
  let va := winVa (s.ctx g.die g.slot) h
  let (p, s) ← access s g va 32 8 .rd false
  let (bs, s) ← readPlace s p 32 va
  .ok (wordsOf 4 (ofBytes bs), s)

/-- Whether an entry is valid and sets no reserved bit (13 R330). -/
def winValid (e : List Word) : Bool :=
  bit (e.getD 0 0) 63 && fld (e.getD 0 0) 32 10 = 0 && fld (e.getD 2 0) 48 16 = 0 && e.getD 3 0 = 0

/-- A fault with an information word and no address. -/
def trapInfo {α : Type} (c : BitVec 8) (info : Nat) : Except Stop α := .error (.trap c (BitVec.ofNat 64 info) 0)

/-- Whether a die cannot be reached: it is fenced, or names no die of the field (13 R332). -/
def unreachable (s : State) (die : Nat) : Bool := if die < 8 then (s.die die).fenced else !Config.fieldHas (die - 8)

/-- The checks of a remote access at its source (13 R332). `right` is 0 for loads, 1 stores, 2 atomics, 3 launch
appends; a launch append names the queue and not `BASE`. -/
def winCheck (g : Agent) (a : Word) (o : Int) (n align right : Nat) (s : State) : Except Stop (WinAcc × State) := do
  let h := fld a 48 16
  let off : Int := (fld a 0 48 : Int) + o
  if h = 0 ∨ winCount (s.ctx g.die g.slot) ≤ h then trapInfo cWindowInvalid h
  else
    let (e, s) ← winEntry g h s
    let w0 := e.getD 0 0
    if !winValid e then trapInfo cWindowInvalid h
    else if !bit w0 (62 - right) then trapInfo cRights h
    else if right ≠ 3 ∧ (off < 0 ∨ (fld (e.getD 2 0) 0 48 : Int) < off + n) then
      .error (.trap cWindowLimit (BitVec.ofInt 64 off) 0)
    else
      let t := e.getD 1 0 + BitVec.ofInt 64 off
      if right ≠ 3 ∧ t.toNat % align ≠ 0 then .error (.trap cAlign t t)
      else
        let die := dieOf (fld w0 42 13)
        if unreachable s die then trapInfo cHomeFenced h
        else .ok ({ die, slot := fld w0 55 4, key := w0.extractLsb' 0 32, va := t, handle := h }, s)

/-- The key check at the target (13 R332). -/
def keyCheck (s : State) (w : WinAcc) : Except Stop Unit :=
  let x := s.ctx w.die w.slot
  let k : BitVec 32 := (x.reg 0x020).setWidth 32
  if x.state = 0 ∨ k = 0 ∨ k ≠ w.key then trapInfo cWindowKey w.handle else .ok ()

/-- The agent and address a remote access is checked as at the target: a pool address names its cluster in bits
[47:44] (13 R330). -/
def targetAgent (w : WinAcc) : Agent × Word :=
  if inAperture w.va ∧ fld w.va 48 4 = 2 then
    ({ die := w.die, core := 8 * fld w.va 44 4, slot := w.slot, strand := 6 }, setFld w.va 44 4 0)
  else ({ die := w.die, core := 0, slot := w.slot, strand := 6 }, w.va)

/-- The checks at the target of an access of n bytes: as a load, a store or an atomic (13 R332). -/
def targetCheck (w : WinAcc) (n right : Nat) (s : State) : Except Stop Found := do
  keyCheck s w
  let (g, va) := targetAgent w
  if canonical va && inAperture va && fld va 48 4 ≠ 2 && fld va 48 4 ≠ 3 then trapAt cAddressClass w.va
  else if right = 2 then locateAtom s g va n
  else locate s g va n 1 (if right = 0 then .rd else .wr) false

/-! ### The check cache (13 R333) -/

/-- Whether a strand's check cache holds a passed check. -/
def Strand.checked (t : Strand) (w : WinAcc) (right : Nat) : Bool :=
  t.checks.any fun c => decide (c.handle = w.handle) && decide (c.range = w.va.toNat / 65536) && decide (c.right = right) &&
    decide (c.die = w.die) && decide (c.slot = w.slot)

/-- Keep a passed check: 32 entries, the oldest leaves. -/
def Strand.keepCheck (t : Strand) (w : WinAcc) (right : Nat) : Strand :=
  if t.checked w right then t
  else { t with checks := ({ handle := w.handle, range := w.va.toNat / 65536, right, die := w.die, slot := w.slot } :: t.checks).take 32 }

/-! ### Requests that are answered later -/

/-- Reserve the queue entry of a request's result at its issue, when it has one (04 R96). -/
def askEntry (dest : Option Nat) (s : State) : Except Stop (State × Option (Nat × Nat)) :=
  match dest with
  | none => .ok (s, none)
  | some q =>
    if s.myCore.consumer q = 6 then .ok (s, none) else (reserveEntry q s).map fun (s, id) => (s, some (q, id))

/-- A request of the executing A strand whose result may go to a queue: the first time it reserves the result's entry and
sends its slots, and the strand waits at its PC; once the answer is there the instruction goes on with it, or faults with its
cause. `own` is what it keeps for the answer. -/
def askOwn (own : List (Option Byte)) (dest : Option Nat) (kind : SlotKind) (dst : Nat) (words : List Word) (data : List Byte)
    (k : Pend → State → Eff) (s : State) : Eff :=
  match s.me.pend with
  | none => do
    let (s, entry) ← askEntry dest s
    let p : Pend := { id := s.nextReq, dst, words, own, entry }
    let s := send kind s.cur.die dst (BitVec.ofNat 64 s.cur.core :: 0 :: words) data s
    .ok { s.modMe fun t => { t with pend := some p } with cur := { s.cur with hold := some (10, 0) } }
  | some p =>
    if !p.answered then .error (.wait 10 0)
    else if p.cause ≠ 0 then .error (.trap p.cause p.info p.addr)
    else k p { s.modMe fun t => { t with pend := none } with cur := { s.cur with entry := p.entry } }

/-- A request that keeps nothing of its own. -/
def ask (dest : Option Nat) (kind : SlotKind) (dst : Nat) (words : List Word) (data : List Byte) (k : Pend → State → Eff)
    (s : State) : Eff := askOwn [] dest kind dst words data k s

/-- An answer returns to the die its request came from (13 R326). -/
def answer (src : Nat) (x : NetSlot) (cause : BitVec 8) (info addr : Word) (data : List Byte) (s : State) : State :=
  send .reply src x.src [BitVec.ofNat 64 x.id, x.w 0, cause.setWidth 64, info, addr] data s

/-- The answer of a stopped check or access. -/
def answerStop (src : Nat) (x : NetSlot) (r : Stop) (s : State) : State :=
  match r with
  | .trap c i a => answer src x c i a [] s
  | _ => answer src x cUncorrectable 0 0 [] s

/-- A 128-byte value of free bits: what memory outside the module holds (log 4). -/
def takeFreeVec (s : State) : Vec × State :=
  (BitVec.ofNat 1024 ((List.range 16).foldl (fun a i => a + (Config.freeValue (s.free + i)).toNat * 2 ^ (64 * i)) 0),
   { s with free := s.free + 16 })

/-! ### Transport events -/

/-- Whether the home of an access refuses it with "moved": its page is migrating (07 R190). -/
def accessMoved (s : State) (w : WinAcc) : Bool :=
  let (g, va) := targetAgent w
  if inAperture va then false
  else match walk s g.die g.slot va with
    | .ok l => bit l.pte 51
    | .error _ => false

/-- The access a slot carries. -/
def slotAccess (x : NetSlot) : WinAcc :=
  { die := x.dst, slot := (x.w 4).toNat % 16, key := (x.w 5).setWidth 32, va := x.w 6, handle := (x.w 7).toNat }

/-- Whether the context of a slot is not resident: it has been evicted, or is being restored (13 R329). -/
def Ctx.away (c : Ctx) : Bool := decide (c.state = 6) || (decide (c.state = 0) && c.evict)

/-- Whether a post may take a message of a team and key (13 R338). -/
def Post.matchesKey (p : Post) (team : Word) (tag rank : Nat) : Bool :=
  let key : Word := BitVec.ofNat 64 (tag % 2 ^ 32 * 2 ^ 32 + rank % 2 ^ 24)
  decide (p.st = 0) && p.team = team && (key ^^^ p.pat) &&& ~~~p.wmask = 0

/-- Bytes of a context's eager buffer in use (13 R341). -/
def eagerUsed (c : Ctx) : Nat := c.unexp.foldl (fun a m => a + m.data.length) 0

/-- Words of a header slot after the first two: the target's context slot, the team's identity, the sender's rank, tag,
length, context slot, source address and flag. -/
def slotMsg (x : NetSlot) : Msg :=
  { team := x.w 3, rank := (x.w 4).toNat, tag := (x.w 5).toNat, len := (x.w 6).toNat, data := x.data, srcDie := x.src,
    srcSlot := (x.w 7).toNat, srcAddr := x.w 8, srcFlag := (x.w 9).toNat }

/-- The headers of eager messages for a context that have arrived, meet no post, and are not handled yet (13 R339, R341). -/
def headersIn (s : State) (die slot : Nat) : List Msg :=
  let c := s.ctx die slot
  ((s.die die).inbox.filter fun y =>
    decide (y.kind = .header) && decide ((y.w 2).toNat % 16 = slot)).map slotMsg |>.filter fun m =>
      !(c.posts.any fun p => p.matchesKey m.team m.tag m.rank)

/-- Whether the receive engine cannot take a message header now: no post meets it, and the context's unexpected queue is
full or the eager buffer has no room for it; or the context is not resident (13 R329, R341). -/
def headerFull (s : State) (x : NetSlot) : Bool :=
  let slot := (x.w 2).toNat % 16
  let c := s.ctx x.dst slot
  let m := slotMsg x
  let coming := headersIn s x.dst slot
  let bytes := coming.foldl (fun a m => a + if m.len ≤ 4096 then m.len else 0) (eagerUsed c)
  c.away ||
    (decide (c.state ≠ 0) && bit c.rxcfg 63 && !(c.posts.any fun p => p.matchesKey m.team m.tag m.rank) &&
      (decide (1024 ≤ c.unexp.length + coming.length) ||
        (decide (m.len ≤ 4096) && decide ((fld c.rxcfg 44 4 + 1) * 65536 < bytes + m.len))))

/-- Count a header refused for a context (13 R347 `mqry`). -/
def countRefused (die slot : Nat) (s : State) : State :=
  s.modCtx die slot fun c => { c with refused := min (c.refused + 1) (2 ^ 32 - 1) }

/-- Whether a destination refuses a slot: its input buffer is full, which the event says; its clocks are frozen (16 R420); the context it names is not
resident; its receive engine cannot take the message (13 R329). -/
def refuses (s : State) (full : Bool) (x : NetSlot) : Bool :=
  full || (s.die x.dst).frozenClk ||
    match x.kind with
    | .access => (s.ctx x.dst (slotAccess x).slot).away
    | .header => headerFull s x
    | .deliver => decide (512 ≤ (s.ctx x.dst ((x.w 2).toNat % 16)).heldReplies.length)
    | _ => false

/-- A slot of a transfer is taken in: as the transfer's first, or behind what has come of it. -/
def takeSlot (box : List NetSlot) (x : NetSlot) : List NetSlot :=
  match x.part with
  | none => box ++ [x]
  | some n => box.map fun y => if y.id = n then { y with data := y.data ++ x.data, more := y.more - 1 } else y

/-- A slot is refused: it goes around the ring once more, and back to its source the second time (13 R329). -/
def refuseSlot (x : NetSlot) (s : State) : State :=
  let s := if x.kind = .header ∧ x.part.isNone then countRefused x.dst ((x.w 2).toNat % 16) s else s
  countEv x.dst 0x021 none none 1 (modSlot x.id (fun y => { y with refused := y.refused + 1 }) s)

/-- `SLOT_ARRIVAL`: a slot of a stream from die a is offered at the die, and taken in order or refused: c says that the input
buffer is full. One behind a refused slot of its stream is refused as long as that one is (13 R328, R329). -/
def execSlotArrival (s : State) : Host.Outcome State Fault Refusal :=
  let e := s.hand.ev
  let die := s.cur.die
  match namedSlot s (e.a.toNat % 8) die e.b.toNat with
  | none => stay s
  | some x =>
    if x.retryAt.isSome || 2 ≤ x.refused then stay s
    else if !isOldest s x then
      if (stream s x.src die (slotClass x.kind)).any fun y => decide (y.id < x.id) && y.refused = 0 then stay s else act (refuseSlot x s)
    else if x.kind = .access && x.part.isNone && accessMoved s (slotAccess x) then
      act (countEv die 0x021 none none 1 (modSlot x.id (fun y => { y with refused := 2, moved := true }) s))
    else if (if x.part.isSome then e.c ≠ 0 || (s.die die).frozenClk else refuses s (e.c ≠ 0) x) then act (refuseSlot x s)
    else
      let s := { s with net := s.net.filter fun y => y.id ≠ x.id }
      act (s.modDie die fun d => { d with inbox := takeSlot d.inbox x })

/-- `SLOT_RETURN`: a slot refused twice is back at its source, which schedules its retry (13 R329). The event names
the slot's destination in a and the slot of the stream in b. -/
def execSlotReturn (s : State) : Host.Outcome State Fault Refusal :=
  let e := s.hand.ev
  match namedSlot s s.cur.die (e.a.toNat % 8) e.b.toNat with
  | none => stay s
  | some x =>
    if x.refused < 2 || x.moved || x.retryAt.isSome then stay s
    else
      act (modSlot x.id (fun y => { y with
        returns := y.returns + 1, retryAt := some (s.cyc + 32 * 2 ^ min y.returns 8) }) s)

/-- The context slot a request slot acts for at its source. -/
def slotOwner (s : State) (x : NetSlot) : Nat := (s.core x.src ((x.w 0).toNat % 128)).slot

/-- `SLOT_RETRY`: the time is over, and the source issues the slot again (13 R329). -/
def execSlotRetry (s : State) : Host.Outcome State Fault Refusal :=
  let e := s.hand.ev
  match namedSlot s s.cur.die (e.a.toNat % 8) e.b.toNat with
  | none => stay s
  | some x =>
    match x.retryAt with
    | none => stay s
    | some t =>
      if s.cyc < t then stay s
      else
        let s := modSlot x.id (fun y => { y with refused := 0, retryAt := none }) s
        act (countEv s.cur.die 0x020 (some (slotOwner s x)) none 1
          (s.modDie s.cur.die fun d => { d with retries := d.retries + 1 }))

/-- `MOVED_REISSUE`: a slot returned as moved goes out again to the new home once the page no longer moves (07 R190,
06 R141). -/
def execMovedReissue (s : State) : Host.Outcome State Fault Refusal :=
  match s.net.find? fun x => decide (x.src = s.cur.die) && x.moved with
  | none => stay s
  | some x =>
    if accessMoved s (slotAccess x) then stay s
    else act (modSlot x.id (fun y => { y with refused := 0, moved := false }) s)

/-- `LINK_FRAME_REPLAY`: a replay changes delivery times and nothing else (01 R24, 13 R328). -/
def execLinkFrameReplay (s : State) : Host.Outcome State Fault Refusal := act s

end Sys2Proof.Machine
end

