-- ==== Sys2Proof/Machine/Remote.lean ====
section
/-! DEFINITION. The remote access instructions, 0x170 to 0x177, and their slots at the target and back (13 R332 to R335). -/

namespace Sys2Proof.Machine

namespace Forms

/-- The remote layout (13 R334): `wd` and `ord` judge those fields. -/
def layR (wd ord : Nat → Bool) (n : Nat) (x : BitVec 16) : Bool :=
  twm n x && wd (fld x 4 4) && ord (fld x 2 2) && fld x 0 2 = 0
/-- `WD` of the S layout (06 R155). -/
def wdS (n : Nat) : Bool := n = 0 || decide (8 ≤ n)
/-- A field that is zero. -/
def zeroN (n : Nat) : Bool := n = 0

/-- `rld`. -/
def rld : Form := { strands := onA, dst := [.scal], a := .s, b := .s, x := layR wdS fun n => n ≤ 1 }
/-- `rst`. -/
def rst : Form := { strands := onA, dst := [.none], a := .s, b := .s, c := .s, x := layR wdS fun n => n = 0 || n = 2 }
/-- `rldv`. -/
def rldv : Form := { strands := onA, dst := [.vec], a := .s, b := .s, x := layR zeroN zeroN }
/-- `rstv`. -/
def rstv : Form := { strands := onA, dst := [.none], a := .s, b := .s, c := .vq, x := layR zeroN zeroN }
/-- `ratom`: the width field is that of the operation the selector names. -/
def ratom : Form :=
  { strands := onA, dst := [.scal, .none], a := .s, b := .s, c := .sel 9, x := layR (fun _ => true) fun _ => true,
    w := fun w =>
      let wd := fld (if xCount w = 0 then w.x else 0) 4 4
      let op := w.c.idx.toNat
      if op = 9 then wd = 0 else atomWd (op = 7 || op = 8) wd }
/-- `rcas`. -/
def rcas : Form :=
  { strands := onA, dst := [.scal, .none], a := .s, b := .s, c := .s, x := layR (atomWd false) fun _ => true }
/-- `rflush`. -/
def rflush : Form := { strands := onA, dst := [.none], a := .sNoX, x := layR zeroN zeroN }
/-- `winq`. -/
def winq : Form := { strands := onA, dst := [.scal], a := .sNoX, c := .sel 2, x := layR zeroN zeroN }

end Forms

/-! ### What the slots of an access carry -/

/-- The words of an access slot after the core's and the posted mark: operation, bytes, context slot, key, address,
handle, right, width field and two operands. -/
def accessWords (w : WinAcc) (op n right wd : Nat) (b c : Word) : List Word :=
  [BitVec.ofNat 64 (op * 2 ^ 16 + n), BitVec.ofNat 64 right, BitVec.ofNat 64 w.slot, w.key.setWidth 64, w.va,
   BitVec.ofNat 64 w.handle, BitVec.ofNat 64 wd, b, c]

/-- The stop slot of a watched remote access goes to the source strand (16 R398). -/
def sendWatchStop (die src core : Nat) (info addr : Word) (s : State) : State :=
  send .watchStop die src [BitVec.ofNat 64 core, info, addr] [] s

/-- A remote write applied at its home against the target context's watchpoints (16 R396, R398). -/
def watchRemote (die slot src core : Nat) (va : Word) (en : List Bool) (s : State) : State :=
  match watchOther die slot (agentStrand core 1) 2 (dieIdentity src) 0 0 va en s with
  | (some (how, info, a), s) => if how = 0 then s else sendWatchStop die src core info a s
  | (none, s) => s

/-- An atomic performed at its target (13 R332, R334): the old pattern. -/
def atomAtTarget (f : Found) (w : WinAcc) (src core op n wd : Nat) (b c : Word) (s : State) : Except Stop (Nat × State) := do
  let (g, va) := targetAgent w
  let (old, s) ← atomAt g va n f (accNew op wd n b c) s
  .ok (old, if (accNew op wd n b c old).isSome then watchRemote w.die w.slot src core va (List.replicate n true) s else s)

/-- The place of an access at its target. A posted one that has passed its check raises nothing there: where its page is no
longer what the check found, it goes where the check led it (13 R330, R333). -/
def placeAtTarget (x : NetSlot) (w : WinAcc) (n right : Nat) (s : State) : Except Stop Found :=
  match targetCheck w n right s with
  | .error (.trap c i a) =>
    if x.w 1 = 0 then .error (.trap c i a)
    else
      let key := (x.w 11).toNat
      .ok { place := { key, scope := 4, home := w.die, aper := if key < 2 ^ 48 then 16 else if key < 2 ^ 49 then 3 else 2 } }
  | r => r

/-- A posted write or atomic that meets a word with an uncorrectable error is not performed: the home reports it to the
source context, and the supervisor is notified (13 R333). -/
def reportPosted (die core slot : Nat) (va : Word) (s : State) : State :=
  let who := agentStrand core 1
  let s := faultRecord die slot cUncorrectable who 63 0 va 0 s
  notify die 8 cUncorrectable who 63 slot 0 va s

/-- A posted write of bytes is applied at its home (13 R332, R334): the source's L1 copy of the line takes it, and its next
`fence.sc` names the line (06 R164, 07 R178). -/
def applyPosted (src core : Nat) (f : Found) (bs : List Byte) (s : State) : State :=
  let s := homeWrite src core s { key := f.place.key, bytes := bs.map some }
  if f.place.aper = 16 then
    s.modStrand src core 1 fun t => { t with scLines := (f.place.key / lineSize :: t.scLines).eraseDups }
  else s

/-- Perform an access that has arrived: the bytes it answers with. -/
def performAccess (x : NetSlot) (s : State) : Except Stop (List Byte × State) := do
  let w := slotAccess x
  let op := (x.w 2).toNat / 2 ^ 16
  let n := (x.w 2).toNat % 2 ^ 16
  let core := (x.w 0).toNat % 128
  let (g, va) := targetAgent w
  if op = accLoad then
    let f ← targetCheck w n 0 s
    let (bs, s) ← readPlace s f.place n va
    .ok (bs, keepFound s g va f false)
  else if op = accCheck then
    let f ← targetCheck w n (x.w 3).toNat s
    .ok ([], keepFound s g va f false)
  else if op = accStore then
    let f ← placeAtTarget x w n 1 s
    let s := watchRemote w.die w.slot x.src core va (List.replicate n true) s
    if partialBad s f.place.key (x.data.map some) then .ok ([], reportPosted x.src core ((x.w 1).toNat - 1) w.va s)
    else .ok ([], applyPosted x.src core f x.data (keepFound s g va f (s.bytes f.place.key n != x.data)))
  else
    let f ← placeAtTarget x w n 2 s
    match atomAtTarget f w x.src core op n (x.w 8).toNat (x.w 9) (x.w 10) s with
    | .error (.trap c i a) =>
      if x.w 1 = 0 then .error (.trap c i a) else .ok ([], reportPosted x.src core ((x.w 1).toNat - 1) w.va s)
    | .error r => .error r
    | .ok (old, s) => .ok (toBytes n old, s)

/-- Whether an access that has arrived may be performed: every posted one that its strand sent before it in the package has
been (07 R181 edge 5). -/
def inTurn (s : State) (x : NetSlot) : Bool :=
  (s.flying x.src ((x.w 0).toNat % 128)).all fun y => x.id ≤ y.id

/-- `REMOTE_ACCESS_AT_TARGET`: the first access that has arrived and may be performed is checked and performed, and answered; a
posted one is acknowledged by being done (13 R332). -/
def execRemoteAccessAtTarget (s : State) : Host.Outcome State Fault Refusal :=
  let die := s.cur.die
  match takeInboxIf die .access (inTurn s) s with
  | none => stay s
  | some (x, s1) =>
    match performAccess x s1 with
    | .ok (bs, s2) => act (if x.w 1 = 0 then answer die x 0 0 0 bs s2 else s2)
    | .error (.wait _ _) => stay s
    | .error .absent => .fault .absentMemory
    | .error r => act (answerStop die x r s1)

/-- The answer of a request reaches the strand that waits for it. -/
def settlePend (die core id : Nat) (cause : BitVec 8) (info addr : Word) (val : Vec) (s : State) : State :=
  s.modStrand die core 1 fun t =>
    match t.pend with
    | some p => if p.id = id then { t with pend := some { p with answered := true, cause, info, addr, val } } else t
    | none => t

/-- Bytes over bytes: those that are known replace what came. -/
def overBytes (own : List (Option Byte)) (v : Vec) : Vec :=
  BitVec.ofNat 1024 (ofBytes ((toBytes 128 v.toNat).zipIdx.map fun (b, i) => (own.getD i none).getD b))

/-- `REMOTE_RESPONSE`: the first answer that has arrived reaches its strand (13 R333). With none there, a transfer that
went to another package is answered as the event says: its number in a, the cause in b, which is one that is raised (03 R81); a
value it brings is free, but for the bytes the strand itself stored there (07 R188). -/
def execRemoteResponse (s : State) : Host.Outcome State Fault Refusal :=
  let die := s.cur.die
  match takeInbox die .reply s with
  | some (x, s) =>
    act (settlePend die ((x.w 1).toNat % 128) (x.w 0).toNat ((x.w 2).setWidth 8) (x.w 3) (x.w 4)
      (BitVec.ofNat 1024 (ofBytes x.data)) s)
  | none =>
    match s.net.find? fun x => decide (x.src = die) && decide (8 ≤ x.dst) && x.part.isNone && x.id = s.hand.ev.a.toNat with
    | none => stay s
    | some x =>
      let fails := (x.kind = .access && x.w 1 = 0) || x.kind = .header || x.kind = .team
      let cause : BitVec 8 := if fails then s.hand.ev.b.setWidth 8 else 0
      if cause ≠ 0 && !causeWritable cause.toNat then stay s
      else
        let core := (x.w 0).toNat % 128
        let (v, s) := takeFreeVec s
        let s := { s with net := s.net.filter fun y => y.id ≠ x.id && y.part ≠ some x.id }
        let own := (((s.strand die core 1).pend.filter fun p => p.id = x.id).map Pend.own).getD []
        act (settlePend die core x.id cause 0 0 (overBytes own v) s)

/-! ### The instructions -/

/-- The access that a request names, as its source checked it when it was sent (13 R330). -/
def Pend.access (p : Pend) : WinAcc :=
  let w := fun n => p.words.getD n 0
  { die := p.dst, slot := (w 2).toNat % 16, key := (w 3).setWidth 32, va := w 4, handle := (w 5).toNat }

/-- A remote address and its offset (13 R332, R334): checked once, when the request is sent. -/
def winOf (k : Caps) (o : Int) (n align right : Nat) (s : State) : Except Stop (WinAcc × State) :=
  match s.me.pend with
  | some p => .ok (p.access, s)
  | none => winCheck s.agent (lo64 k.a) o n align right s

/-- What the strand has stored to n bytes at an address of another package and is not acknowledged: for each byte its latest
posted write, unless a posted atomic on it came later (07 R188). -/
def ownPosted (w : WinAcc) (n : Nat) (s : State) : List (Option Byte) :=
  ((s.posts s.cur.die s.cur.core).filter fun x =>
      decide (x.dst = w.die) && x.part.isNone && decide ((slotAccess x).slot = w.slot)).foldl (fun own x =>
    let op := (x.w 2).toNat / 2 ^ 16
    let m := (x.w 2).toNat % 2 ^ 16
    let data := x.data ++ ((s.net.filter fun y => y.part = some x.id).flatMap NetSlot.data)
    own.zipIdx.map fun (o, i) =>
      let a := (w.va + BitVec.ofNat 64 i - x.w 6).toNat
      if m ≤ a then o else if op = accStore then data[a]? else none) (List.replicate n none)

/-- A remote load of n bytes: the value as it comes back (13 R333, R334). -/
def remoteLoad (w : StrandWord) (k : Caps) (n : Nat) (fin : Vec → State → Eff) (s : State) : Eff := do
  let (x, s) ← winOf k (lo64 k.b).toInt n n 0 s
  askOwn (if 8 ≤ x.die then ownPosted x n s else []) (destQueue w) .access x.die (accessWords x accLoad n 0 0 0 0) []
    (fun p s => fin p.val (s.modMe fun t => t.keepCheck x 0)) (behindHeld s)

/-- Go on with a write or a posted atomic once its check has passed: from the check cache, or by a check slot (13 R333). -/
def withCheck (x : WinAcc) (n right : Nat) (k : State → Eff) (s : State) : Eff :=
  if s.me.checked x right && s.me.pend.isNone then k s
  else
    ask none .access x.die (accessWords x accCheck n right 0 0 0) []
      (fun _ s => k (s.modMe fun t => t.keepCheck x right)) s

/-- Where a checked access of n bytes leads in the package, or an address no memory has. -/
def checkedKey (x : WinAcc) (n right : Nat) (s : State) : Word :=
  match targetCheck x n right s with
  | .ok f => BitVec.ofNat 64 f.place.key
  | .error _ => BitVec.allOnes 64

/-- Post a checked write or atomic: it leaves after what the strand holds, and no later write of the strand overtakes it (07 R181;
13 R326, R334; log 8). A posted slot carries the context slot it acts for, plus 1, and where its check led. -/
def post (rel : Bool) (x : WinAcc) (words : List Word) (n right : Nat) (bs : List Byte) (s : State) : State :=
  let s := if rel || s.me.relAll then release s else behindHeld s
  send .access s.cur.die x.die
    (BitVec.ofNat 64 s.cur.core :: BitVec.ofNat 64 (s.mySlot + 1) :: words ++
      (if 8 ≤ x.die then [] else [checkedKey x n right s])) bs s

/-- A remote store of bytes at an offset. -/
def remoteStore (k : Caps) (rel : Bool) (bs : List Byte) (s : State) : Eff := do
  let n := bs.length
  let (x, s) ← winOf k (lo64 k.b).toInt n n 1 s
  withCheck x n 1 (fun s => .ok (post rel x (accessWords x accStore n 1 0 0 0) n 1 bs s)) s

/-- `rld` (13 R334). -/
def execRld (w : StrandWord) (s : State) : Host.Outcome State Fault Refusal :=
  issueTok Forms.rld w (fun s => do
    let (k, s) ← capture Forms.rld id w s
    let (sg, n) := wdFmt k.x
    remoteLoad w k n (fun v s => do
      let s ← landWord 0x170 1 w (extLoaded sg n (toBytes n v.toNat)) s
      .ok (if fld k.x 2 2 = 1 then acquire s else s)) s) s

/-- `rst` (13 R334). -/
def execRst (w : StrandWord) (s : State) : Host.Outcome State Fault Refusal :=
  issueTok Forms.rst w (fun s => do
    let (k, s) ← capture Forms.rst id w s
    remoteStore k (fld k.x 2 2 = 2) (toBytes (wdFmt k.x).2 (lo64 k.c).toNat) s) s

/-- `rldv`: 128 bytes into a vector queue (13 R334). -/
def execRldv (w : StrandWord) (s : State) : Host.Outcome State Fault Refusal :=
  issueTok Forms.rldv w (fun s => do
    let (k, s) ← capture Forms.rldv id w s
    remoteLoad w k 128 (fun v s => deliver 0x172 1 w { a := v } s) s) s

/-- `rstv` (13 R334). -/
def execRstv (w : StrandWord) (s : State) : Host.Outcome State Fault Refusal :=
  issueTok Forms.rstv w (fun s => do
    let (k, s) ← capture Forms.rstv id w s
    remoteStore k false (toBytes 128 k.c.toNat) s) s

/-- A remote atomic (13 R334): a posted one is checked and then sent in order; any other waits for the old value. -/
def remoteAtom (opc op n wd : Nat) (w : StrandWord) (k : Caps) (b c : Word) (s : State) : Eff := do
  let (x, s) ← winOf k 0 n n 2 s
  let ord := fld k.x 2 2
  let rel := decide (2 ≤ ord)
  let fin := fun (s : State) => if ord = 1 ∨ ord = 3 then acquire s else s
  if w.dk = .none then
    withCheck x n 2 (fun s => .ok (fin (post rel x (accessWords x op n 2 wd b c) n 2 [] s))) s
  else
    ask (destQueue w) .access x.die (accessWords x op n 2 wd b c) []
      (fun p s => do
        let s ← landWord opc 1 w (atomLands op wd b (p.val.toNat % 2 ^ (8 * n))) (s.modMe fun t => t.keepCheck x 2)
        .ok (fin s)) (if rel || s.me.relAll then release s else behindHeld s)

/-- `ratom` (13 R334). -/
def execRatom (w : StrandWord) (s : State) : Host.Outcome State Fault Refusal :=
  issueTok Forms.ratom w (fun s => do
    let op := w.c.idx.toNat
    let wd := fld (Forms.ratom.effX w) 4 4
    let fp := atomIsFp op
    let (k, s) ← capture { Forms.ratom with b := if fp then .sf else .s } (fun _ => atomLit wd) w s
    let n := if op = 9 then 8 else atomBytes fp wd
    remoteAtom 0x174 (accAtom op) n wd w k (lo64 k.b) 0 s) s

/-- `rcas` (13 R334). -/
def execRcas (w : StrandWord) (s : State) : Host.Outcome State Fault Refusal :=
  issueTok Forms.rcas w (fun s => do
    let (k, s) ← capture Forms.rcas id w s
    let wd := fld k.x 4 4
    remoteAtom 0x175 accCas (atomBytes false wd) wd w k (lo64 k.b) (lo64 k.c) s) s

/-- Whether a strand has posted writes outstanding, through a handle or through any (13 R335). -/
def handleOut (h : Nat) (s : State) : Bool :=
  (s.posts s.cur.die s.cur.core).any fun x => decide (h = 0) || x.w 7 = BitVec.ofNat 64 h

/-- `rflush`: the strand's remote writes are acknowledged (13 R335). -/
def execRflush (w : StrandWord) (s : State) : Host.Outcome State Fault Refusal :=
  issueTok Forms.rflush w (fun s => do
    let (k, s) ← capture Forms.rflush id w s
    let a := lo64 k.a
    need (fld a 0 48 = 0) cIllegalOperand
    let h := fld a 48 16
    let s ← if h = 0 then Except.ok s
      else if winCount s.myCtx ≤ h then trapInfo cWindowInvalid h
      else do
        let (e, s) ← winEntry s.agent h s
        if winValid e then Except.ok s else trapInfo cWindowInvalid h
    orWait (!handleOut h s) 10 0
    .ok s) s

/-- `winq`: a word of a window entry, its key read as zero (13 R335). -/
def execWinq (w : StrandWord) (s : State) : Host.Outcome State Fault Refusal :=
  issueTok Forms.winq w (fun s => do
    let (k, s) ← capture Forms.winq id w s
    let h := fld (lo64 k.a) 48 16
    let n := w.c.idx.toNat
    if h = 0 ∨ winCount s.myCtx ≤ h then landWord 0x177 1 w 0 s
    else
      let (e, s) ← winEntry s.agent h s
      landWord 0x177 1 w (if n = 0 then setFld (e.getD 0 0) 0 32 0 else e.getD n 0) s) s

end Sys2Proof.Machine
end

