-- ==== Sys2Proof/Machine/Queues.lean ====
section
/-!
DEFINITION. User-mode copy queues and launch queues (09 R214 to R220; 12 R297): their configuration, their headers,
claiming and filling a slot, when a slot may be taken, retiring one, and the stall notice; and the tokens that copies
count (09 R226).
-/

namespace Sys2Proof.Machine

/-! ### Headers and slots (09 R215, R216) -/

/-- The word at +8. -/
def PktQueue.word (q : PktQueue) : Word := BitVec.ofNat 64 (q.st * 2 ^ 62 + q.cause.toNat * 2 ^ 48 + q.rdix % 2 ^ 32)

/-- The word in which an engine that looks at a queue meets an uncorrectable error: its claim word, or, in a claimed slot, the
first word, or any of a valid packet (01 R10). -/
def PktQueue.badWord (q : PktQueue) (s : State) : Option Nat :=
  (s.badIn q.hdr 8).or (if !q.claimed s then none
    else (s.badIn (q.slot q.rdix) 8).or (if q.valid q.rdix s then s.badIn (q.slot q.rdix) 64 else none))

/-- Whether the slot at `RDIX` may be taken: it is valid, or cannot be read. -/
def PktQueue.takeable (q : PktQueue) (s : State) : Bool :=
  q.st ≠ 3 && ((q.claimed s && q.valid q.rdix s) || (q.badWord s).isSome)
/-- The packet in the slot of an index. -/
def PktQueue.packet (q : PktQueue) (i : Nat) (s : State) : Packet :=
  let w := fun n => s.word (q.slot i + 8 * n)
  { w0 := w 0, w1 := w 1, w2 := w 2, w3 := w 3, w4 := w 4, w5 := w 5, w6 := w 6, w7 := w 7 }

/-- What of the packet in a slot can be read: an unreadable word is zero, and without w7 the packet names no token (01 R10). -/
def PktQueue.readable (q : PktQueue) (i : Nat) (s : State) : Packet :=
  let w := fun n => if (s.badIn (q.slot i + 8 * n) 8).isSome then 0 else s.word (q.slot i + 8 * n)
  { w0 := if (s.badIn (q.slot i + 56) 8).isSome then setFld (w 0) 36 1 0 else w 0, w1 := w 1, w2 := w 2, w3 := w 3, w4 := w 4,
    w5 := w 5, w6 := w 6, w7 := w 7 }

/-- A packet of words. -/
def packetOf (ws : List Word) : Packet :=
  { w0 := ws.getD 0 0, w1 := ws.getD 1 0, w2 := ws.getD 2 0, w3 := ws.getD 3 0, w4 := ws.getD 4 0, w5 := ws.getD 5 0,
    w6 := ws.getD 6 0, w7 := ws.getD 7 0 }

/-- Key of a context's copy queue (09 R214). -/
def cqKey (slot queue : Nat) : Nat := 64 * slot + queue
/-- A copy queue that is enabled. -/
def State.cq (s : State) (die key : Nat) : Option PktQueue := ((s.die die).cqs.find? fun x => x.1 = key).map Prod.snd

/-- Update an enabled copy queue, and its word at +8 with it. -/
def modCq (die key : Nat) (f : PktQueue → PktQueue) (s : State) : State :=
  match s.cq die key with
  | none => s
  | some q =>
    (s.putHdr (q.hdr + 8) (f q).word).modDie die fun d => { d with cqs := Tab.put d.cqs key (f q) }

/-- Update a context's launch queue, and its word at +8 with it. -/
def modLq (die slot : Nat) (f : PktQueue → PktQueue) (s : State) : State :=
  match (s.ctx die slot).lq with
  | none => s
  | some q => (s.putHdr (q.hdr + 8) (f q).word).modCtx die slot fun c => { c with lq := some (f q) }

/-- A slot retires: `RDIX` advances and `LIM` rises in one instant (09 R218). -/
def PktQueue.retire (q : PktQueue) : PktQueue :=
  { q with rdix := (q.rdix + 1) % 2 ^ 32, st := 0, cause := 0, act := none, stall := 0,
           fmts := q.fmts.filter fun x => x.1 ≠ q.rdix }

/-- Raise `LIM` by 1. -/
def raiseLim (q : PktQueue) (s : State) : State :=
  let w := s.word q.hdr
  s.putHdr q.hdr (setFld w 32 32 (fld w 32 32 + 1))

/-- Retire the slot at `RDIX` of a copy queue. -/
def retireCq (die key : Nat) (s : State) : State :=
  match s.cq die key with
  | none => s
  | some q => modCq die key PktQueue.retire (raiseLim q s)

/-- Retire the slot at `RDIX` of a launch queue. -/
def retireLq (die slot : Nat) (s : State) : State :=
  match (s.ctx die slot).lq with
  | none => s
  | some q => modLq die slot PktQueue.retire (raiseLim q s)

/-- Claim one slot and fill it, its first word last (07 R176; 09 R236; 12 R320): the index, or none when no slot is
free. `w0` is given the phase of the index. -/
def PktQueue.append (q : PktQueue) (p : Packet) (s : State) : Option (Nat × State) :=
  match claim (q.claimWord s).toNat 1 with
  | (none, _) => none
  | (some v, i) =>
    let n := i.toNat
    let s := s.putHdr q.hdr (BitVec.ofNat 64 v)
    let w0 := setFld p.w0 63 1 (b2n (q.phase n))
    let ws := [p.w1, p.w2, p.w3, p.w4, p.w5, p.w6, p.w7]
    let s := (List.range 7).foldl (fun s j => s.putWord (q.slot n + 8 * (j + 1)) (ws.getD j 0)) s
    some (n, s.putWord (q.slot n) w0)

/-! ### Configuration (09 R214, 12 R297) -/

/-- A queue as enabling it leaves it: its header initialised; the words of it that only read as zero do (09 R215). -/
def startQueue (hdr log2n cluster : Nat) (s : State) : PktQueue × State :=
  ({ hdr, log2n, cluster },
   (List.range 7).foldl (fun s i => s.putHdr (hdr + 8 * (i + 1)) 0) (s.putHdr hdr (BitVec.ofNat 64 (2 ^ log2n * 2 ^ 32))))

/-- Bytes of a queue's area. -/
def queueBytes (log2n : Nat) : Nat := 64 + 64 * 2 ^ log2n

/-- Key of a copy queue's header when its area lies in the context's pool window (09 R214). -/
def cqHeader (s : State) (die slot : Nat) (v : Word) : Option Nat :=
  let cl := fld v 59 4
  (aperturePlace s { die, core := 8 * cl, slot, strand := 6 } 2 (fld v 0 16 * 64) (queueBytes (fld v 54 5))).map Place.key

/-- Key of a launch queue's header when its area lies in the context's die-common window (12 R297). -/
def lqHeader (s : State) (die slot : Nat) (v : Word) : Option Nat :=
  (aperturePlace s { die, core := 0, slot, strand := 6 } 3 (fld v 0 20 * 64) (queueBytes (fld v 58 5))).map Place.key

/-- Whether a write changes only `EN` of an enabled queue (09 R214). -/
def onlyEn (old v : Word) : Bool := !bit old 63 || setFld v 63 1 0 = setFld old 63 1 0

/-- The A strand record a token belongs to: of the context on the core, or of what a switch took off it. -/
def modHolder (die core slot : Nat) (f : Strand → Strand) (s : State) : State :=
  let key := 16 * core + slot
  if (s.core die core).home = some slot ∨ ((s.die die).parked.all fun x => x.1 ≠ key) then s.modStrand die core 1 f
  else s.modDie die fun d => { d with parked := Tab.put d.parked key ((Tab.get {} d.parked key).modStrand 1 f) }

/-- A copy that a token counted ends: the count falls, and a fault is kept (09 R226). A cancelled copy updates no token
(09 R239). -/
def Token.copyEnds (t : Token) (seq : Nat) (fault : Option (BitVec 8)) : Token :=
  let t := { t with count := t.count - 1, seqs := t.seqs.erase seq }
  match fault with
  | none => t
  | some c => { t with fault := true, cause := if t.fault then t.cause else c }

/-- Update the token a packet names (09 R226). -/
def endToken (slot : Nat) (p : Packet) (fault : Option (BitVec 8)) (s : State) : State :=
  let die := dieOf (fld p.w7 51 13)
  let seq := fld p.w7 0 32
  if !bit p.w0 36 ∨ 8 ≤ die then s
  else
    modHolder die (fld p.w7 44 7) slot (fun t =>
      if t.killed.contains seq then { t with killed := t.killed.erase seq }
      else t.modTok (fld p.w0 37 3) fun k => k.copyEnds seq fault) s

/-- Whether a packet's copy has been cancelled (09 R239). -/
def wasKilled (slot : Nat) (p : Packet) (s : State) : Bool :=
  let die := dieOf (fld p.w7 51 13)
  let core := fld p.w7 44 7
  let key := 16 * core + slot
  let c := if (s.core die core).home = some slot ∨ ((s.die die).parked.all fun x => x.1 ≠ key) then s.core die core
           else Tab.get {} (s.die die).parked key
  bit p.w0 36 && decide (die < 8) && (c.strand 1).killed.contains (fld p.w7 0 32)

/-- Source number of a copy queue in its engine: after the eight core ports (09 R212). -/
def queueSource (key : Nat) : Nat := 8 + key

/-- The source number of a packet in its engine (09 R212). -/
def sourceOf (sub : Submitted) : Nat :=
  match sub.queue with
  | some q => queueSource (cqKey sub.slot q)
  | none => sub.core % 8

/-- A source tile has been read (06 R154). -/
def dropReader (die : Nat) (r : CopyRun) (s : State) : State :=
  if r.kind = 7 then
    let k := (r.src.getD 0 0).toNat
    setReaders die k (tileRdr ((s.die die).tile k) - 1) s
  else s

/-- A copy leaves its engine. -/
def endRun (die cluster : Nat) (r : CopyRun) (s : State) : State :=
  dropReader die r (s.modCluster die cluster fun c =>
    { c with copies := c.copies.filter fun x => x.1 ≠ sourceOf r.sub })

/-- Disable a copy queue: a running copy stops, and it and the untaken packets are discarded without completion; the packet a queue
has stopped at has been taken (09 R214, R226). -/
def stopCq (die key : Nat) (s : State) : State :=
  match s.cq die key with
  | none => s
  | some q =>
    let slot := key / 64
    let n := (fld (q.claimWord s) 0 32 + 2 ^ 32 - q.rdix) % 2 ^ 32
    let run := ((s.cluster die q.cluster).copies.find? fun x => x.1 = queueSource key).map Prod.snd
    let taken := if run.isSome || q.st = 3 then 1 else 0
    let s := match run with
      | some r => endToken slot r.sub.packet none (endRun die q.cluster r s)
      | none => s
    let s := ((List.range (min n q.size)).drop taken).foldl (fun s k =>
      let i := (q.rdix + k) % 2 ^ 32
      if q.valid i s then endToken slot (q.packet i s) none s else s) s
    s.modDie die fun d => { d with cqs := d.cqs.filter fun x => x.1 ≠ key }

/-- Write `CQCFG` for the queue `CQSEL` selects (09 R214). -/
def writeCqcfg (die : Nat) (v : Word) (s : State) : Eff :=
  let d := s.die die
  let slot := fld d.cqsel 6 4
  let key := cqKey slot (fld d.cqsel 0 6)
  let old := Tab.get (0x0180000000000000#64) d.cqcfg key
  let l := fld v 54 5
  if fld v 16 38 ≠ 0 ∨ l < 6 ∨ 16 < l ∨ !onlyEn old v then trapOf cReservedField
  else
    let set := fun (s : State) => s.modDie die fun d => { d with cqcfg := Tab.put d.cqcfg key v }
    if bit v 63 then
      match cqHeader s die slot v with
      | none => trapOf cReservedField
      | some hdr =>
        if bit old 63 then .ok (set s)
        else
          let (q, s) := startQueue hdr l (fld v 59 4) s
          .ok ((set s).modDie die fun d => { d with cqs := Tab.put d.cqs key q })
    else .ok (set (stopCq die key s))

/-- Write `LQCFGk` (12 R297). -/
def writeLqcfg (die slot : Nat) (v : Word) (s : State) : Eff :=
  let old := (s.ctx die slot).lqcfg
  let l := fld v 58 5
  let set := fun (s : State) => s.modCtx die slot fun c => { c with lqcfg := v }
  if fld v 20 38 ≠ 0 ∨ l < 4 ∨ 12 < l ∨ !onlyEn old v then trapOf cReservedField
  else if bit v 63 then
    match lqHeader s die slot v with
    | none => trapOf cReservedField
    | some hdr =>
      if bit old 63 then .ok (set s)
      else
        let (q, s) := startQueue hdr l 0 s
        .ok ((set s).modCtx die slot fun c => { c with lq := some q })
  else .ok ((set s).modCtx die slot fun c => { c with lq := none })

/-! ### Stalls (09 R217) -/

/-- Whether a queue is due its stall notice. -/
def stallDue (d : Die) (q : PktQueue) : Bool :=
  decide (q.st < 2) && fld d.cqtmo 0 32 ≠ 0 && decide (fld d.cqtmo 0 32 ≤ q.stall)

/-- `QUEUE_STALL`: the notice of copy queue a (64 times the context, plus the queue), or of the launch queue of context
a when b is not 0 (09 R217, 12 R297). -/
def execQueueStall (s : State) : Host.Outcome State Fault Refusal :=
  let e := s.hand.ev
  let die := s.cur.die
  let d := s.die die
  if e.b = 0 then
    match s.cq die (e.a.toNat % 1024) with
    | none => stay s
    | some q =>
      if !stallDue d q then stay s
      else
        let key := e.a.toNat % 1024
        let s := modCq die key (fun q => { q with st := 2 }) s
        act (notify die 2 0 (agentEngine (2 + q.cluster)) 63 (key / 64)
          (BitVec.ofNat 64 (key % 64 * 2 ^ 32 + q.rdix)) 0 s)
  else
    let slot := e.a.toNat % 16
    match (s.ctx die slot).lq with
    | none => stay s
    | some q =>
      if !stallDue d q then stay s
      else
        let s := modLq die slot (fun q => { q with st := 2 }) s
        act (notify die 2 0 (agentEngine 21) 63 slot (BitVec.ofNat 64 (2 ^ 38 + q.rdix)) 0 s)

/-- A register write by the supervisor through the host's windows: accepted, or refused and without effect (15 R373). -/
def hostWriteOf (s : State) (r : Eff) : Host.Outcome State Fault Refusal :=
  match r with
  | .ok s => act s
  | .error .absent => .fault .absentMemory
  | .error _ => stay s

/-- `CQCFG_WRITE`: value a is written for the queue `CQSEL` selects (09 R214). -/
def execCqcfgWrite (s : State) : Host.Outcome State Fault Refusal := hostWriteOf s (writeCqcfg s.cur.die s.hand.ev.a s)

/-- `LQCFG_WRITE`: value a is written for the context of the unit number (12 R297). -/
def execLqcfgWrite (s : State) : Host.Outcome State Fault Refusal :=
  hostWriteOf s (writeLqcfg s.cur.die (s.cur.unit % 16) s.hand.ev.a s)

end Sys2Proof.Machine
end

