-- ==== Sys2Proof/Machine/CopyOps.lean ====
section
/-!
DEFINITION. What a copy engine does with a packet it runs (09 R221 to R233): reading and writing its two sides in beats,
converting in flight, faults and how a copy ends.
-/

namespace Sys2Proof.Machine

/-! ### Bytes of a context, as an engine reaches them -/

/-- Offsets and lengths of the pieces of n bytes from an address, cut where the address is a multiple of 256: each has
one home (06 R139, R145). -/
def chunks : Nat → Nat → Nat → Nat → List (Nat × Nat)
  | 0, _, _, _ => []
  | fuel + 1, a, o, n =>
    if n = 0 then []
    else
      let l := min n (256 - (a + o) % 256)
      (o, l) :: chunks fuel a (o + l) (n - l)

/-- The pieces of n bytes from an address. -/
def piecesOf (a : Word) (n : Nat) : List (Nat × Nat) := chunks n a.toNat 0 n

/-- n free bytes: what another package's memory holds (log 4). -/
def takeFreeBytes (n : Nat) (s : State) : List Byte × State :=
  ((List.range n).map fun i => (Config.freeValue (s.free + i)).setWidth 8, { s with free := s.free + n })

/-- The checks of an access at a die of another package: they pass, or fail with a cause that is raised, as a free value says
(log 4). -/
def foreignCheck (s : State) : Except Stop State :=
  let (v, s) := s.takeFree
  if causeWritable (v.toNat % 256) then trapOf (v.setWidth 8) else .ok s

/-- Read one piece (06 R142, R170). -/
def readPiece (g : Agent) (va : Word) (n : Nat) (s : State) : Except Stop (List Byte × State) := do
  let f ← locate s g va n 1 .rd false
  let (bs, s) ← readPlace s f.place n va
  .ok (bs, keepFound s g va f false)

/-- Read one piece through a window handle (13 R332, R336). -/
def readWindow (g : Agent) (a : Word) (o n : Nat) (s : State) : Except Stop (List Byte × State) := do
  let (w, s) ← winCheck g a o n 1 0 s
  if 8 ≤ w.die then (foreignCheck s).map (takeFreeBytes n)
  else
    let f ← targetCheck w n 0 s
    let (tg, va) := targetAgent w
    let (bs, s) ← readPlace s f.place n va
    .ok (bs, keepFound s tg va f false)

/-- Who writes for an engine: the agent, its identity, its kind in a watch information word (16 R397), and the beat. -/
structure Writer where
  g : Agent
  who : Nat
  akind : Nat
  beat : Nat := 0
  skid : Nat := 0
  deriving DecidableEq, Repr

/-- What a write that may hit a watchpoint gives: the hit's `ACT`, information word and byte, and the state. -/
abbrev Watched := Option (Nat × Word × Word) × State

/-- Write one piece (06 R142, R170; 16 R398). -/
def writePiece (w : Writer) (va : Word) (bs : List (Option Byte)) (s : State) : Except Stop Watched := do
  let f ← locate s w.g va bs.length 1 .wr false
  if partialBad s f.place.key bs then trapAt cUncorrectable va
  else
    let s := (keepFound s w.g va f (memChanges s f.place.key bs)).putBytes f.place.key bs
    .ok (watchOther w.g.die w.g.slot w.who w.akind (dieIdentity w.g.die) w.beat w.skid va (bs.map Option.isSome) s)

/-- A write of an engine leaves for a die of another package: a posted slot that is no strand's (13 R326; log 4). -/
def sendForeign (w : Writer) (x : WinAcc) (bs : List Byte) (s : State) : State :=
  send .access w.g.die x.die
    (BitVec.ofNat 64 agentNone :: BitVec.ofNat 64 (w.g.slot + 1) :: accessWords x accStore bs.length 1 0 0 0) bs s

/-- Write one piece through a window handle (13 R332, R336). -/
def writeWindow (w : Writer) (a : Word) (o : Nat) (bs : List (Option Byte)) (s : State) : Except Stop Watched := do
  let (x, s) ← winCheck w.g a o bs.length 1 1 s
  if 8 ≤ x.die then (foreignCheck s).map fun s => (none, sendForeign w x (bs.map fun b => b.getD 0) s)
  else
    let f ← targetCheck x bs.length 1 s
    let (tg, va) := targetAgent x
    if partialBad s f.place.key bs then trapAt cUncorrectable va
    else
      let s := (keepFound s tg va f (memChanges s f.place.key bs)).putBytes f.place.key bs
      .ok (none, (watchOther x.die x.slot w.who 2 (dieIdentity w.g.die) 0 0 va (bs.map Option.isSome) s).2)

/-- A stop that names no address names that of the first byte of its piece. -/
def atByte {α : Type} (va : Word) (r : Except Stop α) : Except Stop α :=
  match r with
  | .error (.trap c i 0) => .error (.trap c i va)
  | r => r

/-! ### Runs of bytes: pieces, and the byte a stop names (09 R230; 13 R340) -/

/-- Go through n bytes from offset o in pieces whose lengths `cut` gives, until one stops. -/
def byPieces {α : Type} (cut : Nat → Nat → α → Except Stop Nat) (f : Nat → Nat → α → Option Stop × α) :
    Nat → Nat → Nat → α → Option Stop × α
  | 0, _, _, x => (none, x)
  | fuel + 1, o, n, x =>
    if n = 0 then (none, x)
    else
      match cut o n x with
      | .error e => (some e, x)
      | .ok l =>
        match f o l x with
        | (some e, x) => (some e, x)
        | (none, x) => byPieces cut f fuel (o + l) (n - l) x

/-- Do a piece whole, or, where it stops, go through it in smaller ones. -/
def orFiner {α : Type} (f : Nat → Nat → α → Except Stop α) (finer : Nat → Nat → α → Option Stop × α) (o l : Nat) (x : α) :
    Option Stop × α :=
  match f o l x with
  | .ok x => (none, x)
  | .error _ => finer o l x

/-- Go through n bytes in pieces of 256: one that stops goes by words, and a word that stops by bytes, so that every byte below the
one the stop names is done, and none from it on. `at_` is the address a byte of the run is reached at. -/
def wholeRun {α : Type} (at_ : Nat → α → Except Stop Nat) (f : Nat → Nat → α → Except Stop α) (n : Nat) (x : α) :
    Option Stop × α :=
  let cut := fun (g o n : Nat) (x : α) => (at_ o x).map fun a => min n (g - a % g)
  let bytes := fun (o l : Nat) (x : α) =>
    byPieces (cut 1) (orFiner f fun o l x => match f o l x with | .ok x => (none, x) | .error e => (some e, x)) l o l x
  let words := fun (o l : Nat) (x : α) => byPieces (cut 8) (orFiner f bytes) l o l x
  byPieces (cut 256) (orFiner f words) n 0 n x

/-- The address a byte of a run is reached at: through a handle, the one its window leads to. -/
def runAt (g : Agent) (handle : Bool) (a : Word) (right o : Nat) (s : State) : Except Stop Nat :=
  if handle then (atByte (a + BitVec.ofNat 64 o) (winCheck g a o 1 1 right s)).map fun x => x.1.va.toNat
  else .ok (a + BitVec.ofNat 64 o).toNat

/-- Read n bytes from an address, or through a handle, in ascending order: those below a stop. -/
def readSome (g : Agent) (handle : Bool) (a : Word) (n : Nat) (s : State) : Option Stop × List Byte × State :=
  wholeRun (fun o (x : List Byte × State) => runAt g handle a 0 o x.2)
    (fun o l x =>
      let va := a + BitVec.ofNat 64 o
      (atByte va (if handle then readWindow g a o l x.2 else readPiece g va l x.2)).map fun r => (x.1 ++ r.1, r.2))
    n ([], s)

/-- Read n bytes at an offset of an address: `handle` says that the address holds a window handle. -/
def readRun (g : Agent) (handle : Bool) (a : Word) (o n : Nat) (s : State) : Except Stop (List Byte × State) :=
  match readSome g handle (a + BitVec.ofNat 64 o) n s with
  | (some e, _, _) => .error e
  | (none, r) => .ok r

/-- Write bytes at an offset of an address in ascending order: the first fault stops it with the bytes below it written (09 R230);
the first watchpoint hit is reported back. -/
def writeRun (w : Writer) (handle : Bool) (a : Word) (o : Nat) (bs : List (Option Byte)) (s : State) : Option Stop × Watched :=
  let a := a + BitVec.ofNat 64 o
  wholeRun (fun o (x : Watched) => runAt w.g handle a 1 o x.2)
    (fun o l x =>
      let va := a + BitVec.ofNat 64 o
      let part := (bs.drop o).take l
      (atByte va (if handle then writeWindow w a o part x.2 else writePiece w va part x.2)).map fun r =>
        (if x.1.isSome then x.1 else r.1, r.2))
    bs.length (none, s)

/-! ### Elements in flight (09 R228) -/

/-- The exact value of an element's pattern in a scalar format (05 R104, R105). -/
def scalarVal (fmt pat : Nat) : FVal :=
  match fmtOfCode fmt with
  | some f => f.decode (pat % 2 ^ elemBits fmt)
  | none =>
    let v := wrapInt (intFmt fmt).1 (intFmt fmt).2 pat
    .fin (decide (v < 0)) v.natAbs 0

/-- The exact value of a block element: code value times scale (05 R106 to R108). -/
def blockVal (fmt sw code : Nat) : FVal :=
  let t := scaleT sw
  let isB8 := fmt = 20
  if (isB8 && t ≠ 0) || scaleE sw = 255 then .nan false
  else
    let neg := !isB8 && t ≠ 0 && code / 8 % 2 = 1
    if scaleE sw = 0 then .fin neg 0 0
    else
      let u := if isB8 then amp8 code else amp4 t code
      let unitE : Int := if isB8 then 0 else if t = 1 then -1 else if t = 2 then -3 else 0
      let d := (scaleVal sw).mul { n := u, e := unitE }
      .fin (neg || decide (d.n < 0)) d.n.natAbs d.e

/-- The value of an element of any format. -/
def elemVal (fmt pat sw : Nat) : FVal := if isBlockFmt fmt then blockVal fmt sw pat else scalarVal fmt pat

/-- Round a value once to a scalar format (09 R228; 05 R124). -/
def roundTo (fmt mode : Nat) (sat : Bool) (v : FVal) : Nat :=
  match fmtOfCode fmt with
  | some f =>
    match v with
    | .nan _ => f.qnan
    | .inf neg => (f.infRes sat neg fNone).bits
    | .fin neg m e => (f.roundDyad mode sat (dyadOf neg m e) neg).bits
  | none =>
    let (sg, w) := intFmt fmt
    let r : Int := match v with
      | .nan _ => 0
      | .inf neg => clampInt sg w (if neg then -(2 ^ 70) else 2 ^ 70)
      | .fin neg m e =>
        let k : Int := ((roundAt mode neg m e false 0).1 : Nat)
        clampInt sg w (if neg then -k else k)
    (BitVec.ofInt 64 r).toNat

/-- One element's pattern in another scalar format (09 R228). -/
def convScalar (sf df mode : Nat) (sat conv : Bool) (pat sw : Nat) : Nat :=
  if !conv then pat
  else if isBlockFmt sf then roundTo df mode sat (blockVal sf sw pat)
  else (convertElem sf df mode sat pat).bits

/-- A block element as the quantiser takes it from another block: rounded to `f32` under `rne` (09 R228). -/
def viaF32 (v : FVal) : FVal := f32.decode (roundTo 1 0 false v)

/-- Quantise 96 elements of a source format into a block (09 R228, 05 R128): the codes and the scale word. -/
def quantElems (sf df : Nat) (sat : Bool) (xs : List (Nat × Nat)) : List Nat × Nat :=
  let vs := xs.map fun x => if isBlockFmt sf then viaF32 (elemVal sf x.1 x.2) else elemVal sf x.1 x.2
  let isInf := fun (v : FVal) => match v with | .inf _ => true | _ => false
  let isNan := fun (v : FVal) => match v with | .nan _ => true | _ => false
  let fin := fun (v : FVal) => match v with
    | .fin neg m e => (neg, m, e)
    | .inf neg => (neg, 2 ^ 24 - 1, 104)
    | .nan _ => (false, 0, 0)
  let q := quantVals df (vs.any isNan || (!sat && vs.any isInf)) (vs.any isInf) (vs.map fin)
  (q.codes, q.scale)

/-! ### The two sides of a tensor copy (09 R227, R233; 06 R146, R147) -/

/-- One side: a tensor's record and the window's origin in it, or a tile's key, entry and first row. -/
structure Side where
  tlr : Tlr := []
  org : List Nat := []
  tile : Option Nat := none
  entry : Word := 0
  row0 : Nat := 0
  fmt : Nat
  deriving DecidableEq, Repr

/-- Elements of a window. -/
def winElems (ext : List Nat) : Nat := ext.foldl (· * ·) 1

/-- Local coordinates of element e of a window, c0 varying fastest. -/
def localCoords : List Nat → Nat → List Nat
  | [], _ => []
  | x :: xs, e => e % x :: localCoords xs (e / x)

/-- Where an element stands: its byte, the nibble in it, and its scale word; none beyond the ragged edge. -/
def Side.place (d : Side) (ext : List Nat) (e : Nat) : Option (Word × Nat × Word) :=
  let bits := elemBits d.fmt
  match d.tile with
  | some k =>
    let x0 := ext.getD 0 1
    let i := e % x0
    let row := tileVa k d.entry + BitVec.ofNat 64 ((e / x0 + d.row0) * tileRowBytes d.entry)
    some (row + BitVec.ofNat 64 (i * bits / 8), i % 2, row + BitVec.ofNat 64 (ceilDiv (x0 * bits) 8 + 2 * (i / 96)))
  | none =>
    let c := (localCoords ext e).zipIdx.map fun (x, j) => x + d.org.getD j 0
    let inside := (List.range 5).all fun j => if j < tlrRank d.tlr then decide (c.getD j 0 < tlrD d.tlr j) else decide (c.getD j 0 = 0)
    if !inside then none
    else
      let off := tlrOff d.tlr c
      some (tlrW d.tlr 0 + BitVec.ofNat 64 (off * bits / 8), off % 2, tlrW d.tlr 10 + BitVec.ofNat 64 (2 * (off / 96)))

/-- What an element beyond the ragged edge reads as: its pattern and scale word (06 R147). -/
def edgeElem (t : Tlr) (fmt : Nat) : Nat × Nat :=
  if tlrFe t then ((tlrW t 9).toNat % 2 ^ elemBits fmt, if isBlockFmt fmt then fld (tlrW t 9) 48 16 else 0) else (0, 0)

/-- Read an element: its pattern and, in a block format, its scale word. -/
def readElem (g : Agent) (d : Side) (ext : List Nat) (e : Nat) (s : State) : Except Stop ((Nat × Nat) × State) := do
  match d.place ext e with
  | none => .ok (edgeElem d.tlr d.fmt, s)
  | some (va, nib, sva) =>
    let bits := elemBits d.fmt
    let (bs, s) ← readRun g false va 0 (ceilDiv bits 8) s
    let v := ofBytes bs
    let pat := if bits = 4 then v / 16 ^ nib % 16 else v
    if isBlockFmt d.fmt then
      let (sb, s) ← readRun g false sva 0 2 s
      .ok ((pat, ofBytes sb), s)
    else .ok ((pat, 0), s)

/-- Read elements in order. -/
def readElems (g : Agent) (d : Side) (ext es : List Nat) (s : State) : Except Stop (List (Nat × Nat) × State) :=
  es.foldlM (fun acc e => do
    let (x, s) ← readElem g d ext e acc.2
    .ok (acc.1 ++ [x], s)) ([], s)

/-! ### Bytes of a beat, by address -/

/-- Bytes to be written: by address, the bits that change and their values. -/
abbrev Puts := Tab (BitVec 8 × BitVec 8)

/-- Change some bits of the byte at an address. -/
def Puts.bits (p : Puts) (va : Word) (mask v : BitVec 8) : Puts :=
  let x := Tab.get (0#8, 0#8) p va.toNat
  Tab.put p va.toNat (x.1 ||| mask, (x.2 &&& ~~~mask) ||| (v &&& mask))

/-- Write whole bytes from an address. -/
def Puts.bytes (p : Puts) (va : Word) (bs : List Byte) : Puts :=
  bs.zipIdx.foldl (fun p b => p.bits (va + BitVec.ofNat 64 b.2) 0xFF b.1) p

/-- The bytes of one element: a 4-bit one changes half of its byte; one beyond the ragged edge is discarded. -/
def Side.put (d : Side) (ext : List Nat) (p : Puts) (x : Nat × Nat) : Puts :=
  match d.place ext x.1 with
  | none => p
  | some (va, nib, _) =>
    let bits := elemBits d.fmt
    if bits = 4 then p.bits va (if nib = 0 then 0x0F else 0xF0) (BitVec.ofNat 8 (x.2 % 16 * 17))
    else p.bytes va (toBytes (bits / 8) x.2)

/-- The scale word of the block that starts at an element. -/
def Side.putScale (d : Side) (ext : List Nat) (e sw : Nat) (p : Puts) : Puts :=
  match d.place ext e with
  | none => p
  | some (_, _, sva) => p.bytes sva (toBytes 2 sw)

/-- The byte of an address as a change of some of its bits leaves it. -/
def mixByte (g : Agent) (va : Nat) (x : BitVec 8 × BitVec 8) (s : State) : Byte :=
  if x.1 = 0xFF then x.2
  else
    match locate s g (BitVec.ofNat 64 va) 1 1 .wr false with
    | .ok f => (BitVec.ofNat 8 (s.num f.place.key 1) &&& ~~~x.1) ||| x.2
    | .error _ => x.2

/-- The runs of adjacent bytes, by rising address. -/
def Puts.runs (byte : Nat → BitVec 8 × BitVec 8 → Byte) : Puts → List (Nat × List Byte)
  | [] => []
  | (a, x) :: t =>
    match Puts.runs byte t with
    | (b, bs) :: r => if b = a + 1 then (a, byte a x :: bs) :: r else (a, [byte a x]) :: (b, bs) :: r
    | [] => [(a, [byte a x])]

/-- Land the bytes of a beat in ascending order of address: those below a failing one, and none from it on (09 R230). -/
def Puts.land (w : Writer) (p : Puts) (s : State) : Option Stop × Watched :=
  (p.runs fun a x => mixByte w.g a x s).foldl (fun acc r =>
    match acc with
    | (some e, x) => (some e, x)
    | (none, hit, s) =>
      let (e, h, s) := writeRun w false (BitVec.ofNat 64 r.1) 0 (r.2.map some) s
      (e, (if hit.isSome then hit else h), s)) (none, none, s)

/-! ### A copy's sides and sizes -/

/-- Five 12-bit coordinates of an origin word (02 R55). -/
def origin (v : Word) : List Nat := (List.range 5).map fun j => fld v (12 * j) 12

/-- The window of a record: its copy window below `RANK`, 1 above (09 R227). -/
def copyWindow (t : Tlr) : List Nat := (List.range 5).map fun j => if j < tlrRank t then tlrTile (tlrW t 6) j else 1

/-- Agent identity of a copy engine (09 R212). -/
def agentCopy (cluster : Nat) : Nat := agentEngine (2 + cluster)

/-- The agent a copy acts as: its context, and the core that submitted it where that core is of the engine's cluster
(09 R212; log 16). -/
def copyAgent (die cluster : Nat) (sub : Submitted) : Agent :=
  { die, core := if sub.core < 128 ∧ sub.core / 8 = cluster then sub.core else 8 * cluster, slot := sub.slot, strand := 6 }

/-- The source side of a tensor copy. -/
def CopyRun.srcSide (r : CopyRun) : Side :=
  let p := r.sub.packet
  if r.kind = 7 then
    { tile := some ((r.src.getD 0 0).toNat), entry := r.src.getD 1 0, row0 := fld p.w4 0 12, fmt := r.sf }
  else { tlr := r.src, org := origin p.w3, fmt := r.sf }

/-- The destination side of a tensor copy: the destination origin is w4 for a tensor window, w3 for a tile's (09 R221). -/
def CopyRun.dstSide (r : CopyRun) : Side :=
  let p := r.sub.packet
  if r.kind = 6 then
    { tile := some ((r.dst.getD 0 0).toNat), entry := r.dst.getD 1 0, row0 := fld p.w4 0 12, fmt := r.df }
  else { tlr := r.dst, org := origin (if r.kind = 7 then p.w3 else p.w4), fmt := r.df }

/-- The window of a tensor copy (09 R227). -/
def CopyRun.window (r : CopyRun) : List Nat := copyWindow (if r.kind = 7 then r.dst else r.src)

/-! ### Ending a copy -/

/-- The `INFO` of a copy's fault record (09 R230). -/
def copyInfo (sub : Submitted) (landed : Nat) : Word :=
  BitVec.ofNat 64 (landed % 2 ^ 32 * 2 ^ 32 + fld sub.packet.w0 56 7 * 2 ^ 24 + (sub.queue.getD 0xFF) % 256 * 2 ^ 16)

/-- A copy faults (09 R219, R226, R230): the record, the notice, the token, and a queue stops. -/
def copyFault (die cluster : Nat) (sub : Submitted) (cause : BitVec 8) (addr : Word) (landed : Nat) (s : State) : State :=
  let info := copyInfo sub landed
  let idx := match sub.queue with | some _ => sub.index | none => fld sub.packet.w7 0 32
  let s := faultRecord die sub.slot cause (agentCopy cluster) 63 idx addr info s
  let s := notify die 1 cause (agentCopy cluster) 63 sub.slot
    (BitVec.ofNat 64 (fld info 16 16 * 2 ^ 32 + idx % 2 ^ 32)) addr s
  let s := endToken sub.slot sub.packet (some cause) s
  match sub.queue with
  | some q => modCq die (cqKey sub.slot q) (fun x => { x with st := 3, cause }) s
  | none => s

/-- Give up a copy that has been cancelled (09 R239). -/
def copyCancelled (die cluster : Nat) (r : CopyRun) (s : State) : State :=
  let s := endToken r.sub.slot r.sub.packet none (endRun die cluster r s)
  match r.sub.queue with
  | some q => retireCq die (cqKey r.sub.slot q) s
  | none => s

/-! ### Beats (09 R227) -/

/-- Bytes of one beat. -/
def beatBytes : Nat := 256

/-- The elements of the beat that starts after `done` destination bytes. -/
def beatElems (r : CopyRun) (ext : List Nat) : List Nat :=
  let bits := elemBits r.df
  let e0 := r.done * 8 / bits
  let e1 := min (winElems ext) ((r.done + beatBytes) * 8 / bits)
  (List.range (e1 - e0)).map (· + e0)

/-- One beat of a linear copy or a fill. -/
def linearBeat (g : Agent) (w : Writer) (r : CopyRun) (s : State) : Option Stop × Watched :=
  let p := r.sub.packet
  let n := min beatBytes (r.total - r.done)
  let wr := fun (bs : List Byte) (s : State) => writeRun w (fld p.w0 32 2 = 2) p.w2 r.done (bs.map some) s
  if r.kind = 2 then
    wr ((List.range n).map fun i => BitVec.ofNat 8 (fld p.w1 (8 * ((r.done + i) % 8)) 8)) s
  else
    let db := elemBits r.df / 8
    let sb := elemBits r.sf / 8
    let cnt := if r.conv then n / db else n
    let at_ := if r.conv then r.done / db * sb else r.done
    match readRun g (fld p.w0 34 2 = 2) p.w1 at_ (if r.conv then cnt * sb else n) s with
    | .error e => (some e, none, s)
    | .ok (bs, s) =>
      if r.conv then
        wr ((List.range cnt).flatMap fun i =>
          toBytes db (convertElem r.sf r.df r.rm r.sat (ofBytes ((bs.drop (sb * i)).take sb))).bits) s
      else wr bs s

/-- One beat of a tensor copy to a scalar format. -/
def scalarBeat (g : Agent) (w : Writer) (r : CopyRun) (s : State) : Option Stop × Watched :=
  let ext := r.window
  let es := beatElems r ext
  match readElems g r.srcSide ext es s with
  | .error e => (some e, none, s)
  | .ok (xs, s) =>
    Puts.land w ((es.zip (xs.map fun x => convScalar r.sf r.df r.rm r.sat r.conv x.1 x.2)).foldl (r.dstSide.put ext) []) s

/-- What the elements of a beat that lie in the block from element e land: its 96 values are quantised together, and the beat that
holds its first element lands its scale word (09 R228; log 16). -/
def blockPuts (g : Agent) (r : CopyRun) (es : List Nat) (acc : Puts × State) (e : Nat) : Except Stop (Puts × State) := do
  let ext := r.window
  let block := (List.range 96).map (· + e)
  let (xs, s) ← readElems g r.srcSide ext block acc.2
  let (codes, sw) := if r.conv then quantElems r.sf r.df r.sat xs else (xs.map Prod.fst, (xs.getD 0 (0, 0)).2)
  let p := ((block.zip codes).filter fun x => es.contains x.1).foldl (r.dstSide.put ext) acc.1
  .ok (if es.contains e then r.dstSide.putScale ext e sw p else p, s)

/-- One beat of a tensor copy to a block format. -/
def blockBeat (g : Agent) (w : Writer) (r : CopyRun) (s : State) : Option Stop × Watched :=
  let es := beatElems r r.window
  match (es.map fun e => e / 96 * 96).eraseDups.foldlM (blockPuts g r es) ([], s) with
  | .error e => (some e, none, s)
  | .ok (p, s) => Puts.land w p s

/-- Bytes of a context's instruction store window that lie at or above an offset (06 R133). -/
def storeLeft (x : Ctx) (off : Nat) : Nat :=
  let r := x.reg 0x01E
  min (winSize r 4096) (65536 - winBase r 4096) - off

/-- Address of an offset in the instruction store aperture (06 R132). -/
def storeVa (off : Nat) : Word := BitVec.ofNat 64 (0xFFF5 * 2 ^ 48 + off)

/-- One beat into an instruction store (09 R231): whole words change, and their lines' break bits are loaded anew (16
R391). The words beyond the context's window stop it (09 R225). -/
def storeBeat (g : Agent) (r : CopyRun) (s : State) : Option Stop × Watched :=
  let p := r.sub.packet
  let core := fld p.w2 16 7
  let x := s.ctx g.die r.sub.slot
  let base := winBase (x.reg 0x01E) 4096
  let off := fld p.w2 0 16 + r.done
  let n := min beatBytes (r.total - r.done)
  match readRun g (fld p.w0 34 2 = 2) p.w1 r.done n s with
  | .error e => (some e, none, s)
  | .ok (bs, s) =>
    let m := min n (storeLeft x off)
    let s := s.putBytes (keyIs g.die core (base + off)) ((bs.take m).map some)
    (if m < n then some (.trap cAddressClass 0 (storeVa (off + m))) else none, none,
     s.modCore g.die core fun c => { c with ilines := c.ilines.filter fun x => x.2 < 2 ^ 63 })

/-- The words of a copy to a command ring, read whole (09 R232). -/
def ringBeat (g : Agent) (r : CopyRun) (s : State) : Except Stop (List Word × State) := do
  let p := r.sub.packet
  let n := fld p.w0 0 24
  if bit p.w0 26 then .ok ((List.range (n / 8)).map fun _ => p.w1, s)
  else
    let (bs, s) ← readRun g (fld p.w0 34 2 = 2) p.w1 0 n s
    .ok (wordsOfBytes bs, s)

end Sys2Proof.Machine
end

