-- ==== Sys2Proof/Machine/Copy.lean ====
section
/-!
DEFINITION. Copies: the instructions 0x140 to 0x146, the packets a copy engine takes, and its events (09 R212 to R239).
-/

namespace Sys2Proof.Machine

namespace Forms

/-- `cpy` (09 R234). -/
def cpy : Form :=
  { strands := onA, dst := [.none], a := .sNoX, b := .sNoX, c := .sNoX, x := fun n x => twm n x && fld x 3 5 = 0 }
/-- `cpyt`: rounding 5 and 6 are refused (09 R235). -/
def cpyt : Form := { cpy with x := fun n x => twm n x && fld x 4 3 ≠ 5 && fld x 4 3 ≠ 6 }
/-- `cpyx`. -/
def cpyx : Form := { cpy with b := .none, c := .none }
/-- `cpyq`. -/
def cpyq : Form := { cpy with dst := [.scal, .none], c := .none, x := fun n x => twm n x && fld x 4 4 = 0 }
/-- `twait`. -/
def twait : Form := { strands := onA, dst := [.scal, .none], x := fun _ x => fld x 8 8 = 0 }
/-- `tstat`. -/
def tstat : Form := { strands := onA, dst := [.scal], x := fun _ x => fld x 3 13 = 0 }
/-- `tkill`. -/
def tkill : Form := { strands := onA, dst := [.none], x := fun _ x => fld x 3 13 = 0 }

end Forms

/-! ### Submission (09 R223, R226, R235, R236) -/

/-- A format field of a packet's first word with 0x3F resolved (09 R223). -/
def resolveField (w0 : Word) (lo f : Nat) : Word := if fld w0 lo 8 = 63 then setFld w0 lo 8 f else w0

/-- The packet as a strand submits it: its token, its submitter and sequence number, its formats resolved. -/
def stampPacket (p : Packet) (tok : Nat) (s : State) : Packet :=
  let f := capturedFmt s
  let w0 := resolveField (resolveField p.w0 48 f) 40 f
  { p with w0 := setFld (setFld w0 37 3 tok) 36 1 1,
           w7 := BitVec.ofNat 64 (dieIdentity s.cur.die % 8192 * 2 ^ 51 + s.cur.core % 128 * 2 ^ 44 + s.me.seqno.toNat) }

/-- Count a submission in its token and number it (09 R226, R235). -/
def countSubmit (tok : Nat) (s : State) : State :=
  s.modMe fun t =>
    { (t.modTok tok fun k => { k with count := k.count + 1, seqs := t.seqno.toNat :: k.seqs }) with seqno := t.seqno + 1 }

/-- Hand a packet to the core's port: it waits while the token counts 255 or the port holds 16 packets (09 R235). The
submission is a release. -/
def submit (p : Packet) (tok : Nat) (auto : Bool) (s : State) : Eff := do
  orWait (decide ((s.me.tok tok).count < 255)) 9 tok
  orWait (decide (s.myCore.port.length < 16)) 10 0
  let sub : Submitted := { packet := stampPacket p tok s, slot := s.mySlot, core := s.cur.core, fmt3f := capturedFmt s,
                           rm := roundingMode 7 s.me.fsr, auto }
  .ok ((countSubmit tok (release s)).modMyCore fun c => { c with port := c.port ++ [sub] })

/-- An empty packet. -/
def packet0 : Packet := packetOf []

/-- `cpy` (09 R235). -/
def execCpy (w : StrandWord) (s : State) : Host.Outcome State Fault Refusal :=
  issueTok Forms.cpy w (fun s => do
    let (k, s) ← capture Forms.cpy id w s
    let n := (lo64 k.c).toNat
    need (decide (n < 2 ^ 24)) cIllegalOperand
    submit { packet0 with w0 := BitVec.ofNat 64 (2 ^ 56 + n), w1 := lo64 k.b, w2 := lo64 k.a } (fld k.x 0 3) false s) s

/-- `cpyt` (09 R235). -/
def execCpyt (w : StrandWord) (s : State) : Host.Outcome State Fault Refusal :=
  issueTok Forms.cpyt w (fun s => do
    let (k, s) ← capture Forms.cpyt id w s
    let o := lo64 k.c
    need (fld o 60 4 = 0) cIllegalOperand
    let len := fld k.x 7 1 * 8 + roundingMode (fld k.x 4 3) s.me.fsr
    submit { packet0 with w0 := BitVec.ofNat 64 (2 * 2 ^ 56 + len), w1 := lo64 k.b, w2 := lo64 k.a, w3 := o,
                          w4 := if bit k.x 3 then 0 else o } (fld k.x 0 3) true s) s

/-- Load the 64 bytes of a packet, once (09 R235, R236). -/
def loadPacket (va : Word) (s : State) : Except Stop (Packet × State) := do
  let (bs, s) ← loadOnce (load va 64 (multiple 64 va) false false) s
  .ok (packetOf (wordsOfBytes bs), s)

/-- The bytes of a packet. -/
def packetBytes (p : Packet) : List Byte := p.words.flatMap fun v => toBytes 8 v.toNat

/-- `cpyx` (09 R235). -/
def execCpyx (w : StrandWord) (s : State) : Host.Outcome State Fault Refusal :=
  issueTok Forms.cpyx w (fun s => do
    let (k, s) ← capture Forms.cpyx id w s
    let (p, s) ← loadPacket (lo64 k.a) s
    keepLoaded (packetBytes p) s (submit p (fld k.x 0 3) false s)) s

/-- Place a packet in a queue (09 R236): `nb` does not wait for a slot. -/
def queuePacket (w : StrandWord) (key : Nat) (q : PktQueue) (p : Packet) (tok : Nat) (nb : Bool) (s : State) : Eff :=
  match q.append (stampPacket p tok s) (release s) with
  | none => if nb then landWord 0x143 1 w (BitVec.ofNat 64 (2 ^ 63)) s else .error (.wait 10 0)
  | some (i, s') => do
    orWait (decide ((s.me.tok tok).count < 255)) 9 tok
    let s := (countSubmit tok s').modDie s'.cur.die fun d =>
      { d with cqs := d.cqs.map fun (k, x) =>
          (k, if k = key then { x with fmts := Tab.put x.fmts i (capturedFmt s) } else x) }
    landWord 0x143 1 w (BitVec.ofNat 64 i) s

/-- `cpyq` (09 R236). -/
def execCpyq (w : StrandWord) (s : State) : Host.Outcome State Fault Refusal :=
  issueTok Forms.cpyq w (fun s => do
    let (k, s) ← capture Forms.cpyq id w s
    let n := (lo64 k.a).toNat
    let key := cqKey s.mySlot (n % 64)
    match (if n < 64 then s.cq s.cur.die key else none) with
    | none => trapOf cAddressClass
    | some q =>
      let (p, s) ← loadPacket (lo64 k.b) s
      keepLoaded (packetBytes p) s (queuePacket w key q p (fld k.x 0 3) (bit k.x 3) s)) s

/-! ### Tokens (09 R237 to R239) -/

/-- `twait` (09 R237). -/
def execTwait (w : StrandWord) (s : State) : Host.Outcome State Fault Refusal :=
  issue Forms.twait w (fun s => do
    let mask := fld w.x 0 8
    let named := (List.range 8).filter fun i => mask.testBit i
    match named.find? fun i => (s.me.tok i).count ≠ 0 with
    | some i => .error (.wait 9 i)
    | none =>
      let v := named.foldl (fun a i => a + b2n (s.me.tok i).fault * 2 ^ i) 0
      landWord 0x144 1 w (BitVec.ofNat 64 v) (acquire s)) s

/-- A token's snapshot (09 R238). -/
def tokenWord (t : Token) : Word :=
  BitVec.ofNat 64 (b2n (t.count = 0 || t.fault) * 2 ^ 63 + b2n t.fault * 2 ^ 62 + t.cause.toNat * 2 ^ 48 + t.count % 256)

/-- `tstat`: a snapshot showing `DONE` without `FAULT` acquires (09 R238). -/
def execTstat (w : StrandWord) (s : State) : Host.Outcome State Fault Refusal :=
  issue Forms.tstat w (fun s =>
    let t := s.me.tok (fld w.x 0 3)
    landWord 0x145 1 w (tokenWord t) (if t.count = 0 && !t.fault then acquire s else s)) s

/-- Whether a running copy of the executing strand has been cancelled and has not stopped yet (09 R239). -/
def killedRunning (s : State) : Bool :=
  (s.die s.cur.die).clusters.any fun (_, c) => c.copies.any fun (_, r) =>
    let w7 := r.sub.packet.w7
    decide (r.sub.slot = s.mySlot) && decide (dieOf (fld w7 51 13) = s.cur.die) && decide (fld w7 44 7 = s.cur.core) &&
      s.me.killed.contains (fld w7 0 32)

/-- `tkill`: the copies counted are cancelled; once the running ones have stopped the token is zeroed (09 R239). -/
def execTkill (w : StrandWord) (s : State) : Host.Outcome State Fault Refusal :=
  issue Forms.tkill w (fun s =>
    let i := fld w.x 0 3
    let s := s.modMe fun t => { (t.modTok i fun k => { k with seqs := [] }) with killed := t.killed ++ (t.tok i).seqs }
    if killedRunning s then .ok { s with cur := { s.cur with hold := some (9, i) } }
    else .ok (s.modMe fun t => t.modTok i fun _ => {})) s

/-! ### The take (09 R221 to R225) -/

/-- Where a packet stands: the die, the engine's cluster and what its submission captured. A packet that comes with no
submission of its own acts for context 0. -/
def inHand (s : State) : Submitted :=
  { (s.cur.sub.getD { packet := s.hand.packet, slot := s.mySlot, core := s.cur.core }) with packet := s.hand.packet }

/-- The checks of 02 R56 and the flag, route and completion rules of 09 R221 to R224 that depend on the packet alone.
`kind` is the run's kind (`CopyRun.kind`). -/
def packetOk (kind : Nat) (p : Packet) : Bool :=
  let k := fld p.w0 56 7
  let cv := bit p.w0 25
  let fl := bit p.w0 26
  let is := bit p.w0 27
  let cs := bit p.w0 28
  let fo := bit p.w0 24
  let src := fld p.w0 34 2
  let dst := fld p.w0 32 2
  let w4ok := fld p.w4 4 60 = 0 && fld p.w4 0 3 ≠ 5 && fld p.w4 0 3 ≠ 6
  let lenT := fld p.w0 4 20 = 0 && fld p.w0 0 3 ≠ 5 && fld p.w0 0 3 ≠ 6
  fld p.w0 29 3 = 0 && fld p.w3 60 4 = 0 && fld p.w6 10 54 = 0 && !bit p.w6 7 && fld p.w7 32 12 = 0 &&
    !(cs && is) && (fo || p.w5 = 0) && (fo || fld p.w6 8 2 = 0) &&
    (k = 1 || (!cs && !is && !fl)) &&
    (!fo || (fld p.w5 48 8 < 128 && drillLen (fld p.w5 40 8) = some 1)) &&
    (match k with
      | 0 => src = 0 && dst = 0 && p.w1 = 0 && p.w2 = 0 && p.w3 = 0 && p.w4 = 0 && fld p.w0 0 24 = 0
      | 1 => (src = 0 || src = 2) && (dst = 0 || (dst = 2 && !cs && !is)) && p.w3 = 0 && (!cv || w4ok)
      | 2 => src = 0 && dst = 0 && fld p.w4 60 4 = 0 && lenT
      | 3 => src = 0 && dst = 1 && fld p.w4 12 52 = 0 && lenT
      | _ => src = 1 && dst = 0 && fld p.w4 12 52 = 0 && lenT) &&
    (match kind with
      | 3 => fld p.w2 23 41 = 0 && fld p.w2 0 3 = 0 && fld p.w0 0 3 = 0 && !cv && !fl
      | 4 => fld p.w2 6 58 = 0 && !cv && fld p.w0 0 3 = 0 && decide (8 ≤ fld p.w0 0 24)
      | _ => true)

/-- A format code of a packet or record as a packet's engine resolves it: 0x3F stands for the entry its submission
captured, and for nothing where none was (09 R223). -/
def packetFmt (sub : Submitted) (c : Nat) : Except Stop Nat :=
  let f := if c = 63 then sub.fmt3f else c
  if fmtAssigned f then .ok f else trapOf cReservedField

/-- The rounding mode of a packet: 7 means the submitting strand's, as captured (09 R223). -/
def packetRm (sub : Submitted) (c : Nat) : Nat := if c = 7 then sub.rm else c

/-- The follow-on's ring and a command ring as a destination must be enabled rings of the context (09 R224, R232). -/
def ringsOk (die kind : Nat) (sub : Submitted) (s : State) : Except Stop Unit := do
  let p := sub.packet
  let fr := s.ring die (fld p.w6 8 2)
  need (!bit p.w0 24 || (fr.en && fr.owner = sub.slot)) cAddressClass
  let n := fld p.w2 0 6
  let r := s.ring die n
  need (kind ≠ 4 || (isCommandRing n && r.en && r.owner = sub.slot)) cAddressClass
  need (kind ≠ 4 || decide (fld p.w0 0 24 ≤ 8 * r.size)) cReservedField

/-- The token a queue packet names must be one of an A strand of the package (09 R226; log 16). -/
def tokenOk (sub : Submitted) : Bool :=
  let p := sub.packet
  sub.queue.isNone || !bit p.w0 36 || decide (dieOf (fld p.w7 51 13) < 8)

/-- The formats a packet names, resolved, and the alignment of a linear copy to them (09 R223): a linear copy that converts takes
only some formats; a tensor copy's must be codes, unless its records alone give them. Those of any other copy are not read. -/
def packetFormats (kind : Nat) (sub : Submitted) : Except Stop (Nat × Nat) := do
  let p := sub.packet
  if (kind = 1 ∨ kind = 2) ∧ bit p.w0 25 then
    let sf ← packetFmt sub (fld p.w0 48 8)
    let df ← packetFmt sub (fld p.w0 40 8)
    need (cvtFmt sf && cvtFmt df) cReservedField
    if kind = 1 ∧ fld p.w0 34 2 = 0 ∧ p.w1.toNat % (elemBits sf / 8) ≠ 0 then trapAt cAlign p.w1
    else if fld p.w0 32 2 = 0 ∧ p.w2.toNat % (elemBits df / 8) ≠ 0 then trapAt cAlign p.w2
    else .ok (sf, df)
  else if 5 ≤ kind ∧ !sub.auto then
    let sf ← packetFmt sub (fld p.w0 48 8)
    let df ← packetFmt sub (fld p.w0 40 8)
    .ok (sf, df)
  else .ok (8, 8)

/-- The first checks of a take, in order (09 R225 steps 1 to 3): what the packet itself says, its formats, its rings, its token. -/
def takeChecks (die kind : Nat) (sub : Submitted) (s : State) : Except Stop Unit := do
  need (packetOk kind sub.packet) cReservedField
  let _ ← packetFormats kind sub
  ringsOk die kind sub s
  need (tokenOk sub) cReservedField

/-- Whether a tensor copy may convert between two formats (05 R124, R128, R129). -/
def convertible (c : Nat) : Bool := cvtFmt c || isBlockFmt c

/-- The formats of a tensor copy against those its packet names (09 R223, R235): `CV` must be set where they differ. -/
def checkFormats (sub : Submitted) (sf df : Nat) : Except Stop Bool := do
  let p := sub.packet
  if sub.auto then
    need (sf = df || (convertible sf && convertible df)) cReservedField
    .ok (sf ≠ df)
  else
    let cv := bit p.w0 25
    let both := convertible sf && convertible df
    let (a, b) ← packetFormats 5 sub
    need (a = sf && b = df && (sf = df || (cv && both))) cReservedField
    .ok (cv && both)

/-- The tile a packet's word names (06 R151, 09 R222). -/
def packetTile (v : Word) : Except Stop Nat :=
  let cl := fld v 12 4
  match tileKey cl (v &&& 0xFFF) with
  | none => trapOf cAddressClass
  | some k => if fld v 16 48 ≠ 0 ∨ (k < 4096 ∧ cl ≠ 0) then trapOf cAddressClass else .ok k

/-- The agent that reaches a tile: of the tile's cluster. -/
def tileAgent (g : Agent) (k : Nat) : Agent := if 4096 ≤ k then { g with core := (k - 4096) / 256 * 8 } else g

/-- The tile-side rules of 09 R233: the format, and the window's runs and rows. -/
def tileRules (entry : Word) (row0 fmt : Nat) (ext : List Nat) : Except Stop Unit := do
  let x0 := ext.getD 0 1
  let run := ceilDiv (x0 * elemBits fmt) 8 + (if isBlockFmt fmt then 2 * ceilDiv x0 96 else 0)
  need (fld entry 50 8 = fmt) cReservedField
  need (decide (run ≤ tileRowBytes entry) && decide (row0 + winElems (ext.drop 1) ≤ fld entry 38 12)) cReservedField

/-- Start a copy whose checks have passed. -/
def startRun (die cluster : Nat) (r : CopyRun) (s : State) : State :=
  let s := match r.sub.queue with
    | some q => modCq die (cqKey r.sub.slot q) (fun x => { x with st := 1, act := none }) s
    | none => s
  s.modCluster die cluster fun c => { c with copies := Tab.put c.copies (sourceOf r.sub) r }

/-- End a take: the copy runs, or faults before any byte is read (09 R225); a copy that must wait is not taken. -/
def endTake (die cluster : Nat) (sub : Submitted) (s : State) (r : Except Stop (CopyRun × State)) :
    Host.Outcome State Fault Refusal :=
  match r with
  | .ok (run, s) => act (startRun die cluster run s)
  | .error (.trap c _ a) => act (copyFault die cluster sub c a 0 s)
  | .error (.wait _ _) => stay s
  | .error .absent => .fault .absentMemory

/-- The engine that takes the packet in hand: its die and cluster. -/
def takeHere (s : State) : Nat × Nat := (s.cur.die, s.cur.unit % 16)

/-- `COPY_NOOP` (09 R221). -/
def execCopyNoop (s : State) : Host.Outcome State Fault Refusal :=
  let sub := inHand s
  let (die, cl) := takeHere s
  endTake die cl sub s (do
    takeChecks die 0 sub s
    .ok ({ sub }, s))

/-- The formats, mode and length of a linear copy (09 R221, R223). -/
def linearRun (sub : Submitted) : Except Stop CopyRun := do
  let p := sub.packet
  let n := fld p.w0 0 24
  let (sf, df) ← packetFormats 1 sub
  if !bit p.w0 25 then .ok { sub, kind := 1, sf, df, total := n }
  else
    .ok { sub, kind := 1, sf, df, conv := true, rm := packetRm sub (fld p.w4 0 3), sat := bit p.w4 3,
          total := n * (elemBits df / 8) }

/-- `COPY_LINEAR` (09 R227). -/
def execCopyLinear (s : State) : Host.Outcome State Fault Refusal :=
  let sub := inHand s
  let (die, cl) := takeHere s
  endTake die cl sub s (do
    takeChecks die 1 sub s
    let r ← linearRun sub
    .ok (r, s))

/-- `COPY_FILL` (09 R227). -/
def execCopyFill (s : State) : Host.Outcome State Fault Refusal :=
  let sub := inHand s
  let (die, cl) := takeHere s
  endTake die cl sub s (do
    takeChecks die 2 sub s
    .ok ({ sub, kind := 2, sf := 8, df := 8, total := fld sub.packet.w0 0 24 }, s))

/-- `COPY_TO_INSTRUCTION_STORE` (09 R231). -/
def execCopyToInstructionStore (s : State) : Host.Outcome State Fault Refusal :=
  let sub := inHand s
  let (die, cl) := takeHere s
  endTake die cl sub s (do
    takeChecks die 3 sub s
    .ok ({ sub, kind := 3, sf := 8, df := 8, total := fld sub.packet.w0 0 24 }, s))

/-- `COPY_TO_COMMAND_RING` (09 R232). -/
def execCopyToCommandRing (s : State) : Host.Outcome State Fault Refusal :=
  let sub := inHand s
  let (die, cl) := takeHere s
  endTake die cl sub s (do
    takeChecks die 4 sub s
    .ok ({ sub, kind := 4, sf := 8, df := 8, total := fld sub.packet.w0 0 24 }, s))

/-- Whether a window and an origin suit a block format at the destination (09 R228). -/
def blockAligned (df : Nat) (org : Word) (ext : List Nat) : Bool :=
  !isBlockFmt df || (fld org 0 12 % 96 = 0 && ext.getD 0 1 % 96 = 0)

/-- Destination bytes of a tensor copy. -/
def tensorBytes (df : Nat) (ext : List Nat) : Nat := ceilDiv (winElems ext * elemBits df) 8

/-- `COPY_TENSOR` (09 R227). -/
def execCopyTensor (s : State) : Host.Outcome State Fault Refusal :=
  let sub := inHand s
  let (die, cl) := takeHere s
  let p := sub.packet
  let g := copyAgent die cl sub
  endTake die cl sub s (do
    takeChecks die 5 sub s
    let (t1, s) ← readTlr sub.fmt3f g p.w1 s
    let (t2, s) ← readTlr sub.fmt3f g p.w2 s
    let sf := tlrFmt t1
    let df := tlrFmt t2
    let conv ← checkFormats sub sf df
    let ext := copyWindow t1
    need (blockAligned df p.w4 ext) cReservedField
    .ok ({ sub, kind := 5, sf, df, conv, rm := packetRm sub (fld p.w0 0 3), sat := bit p.w0 3, src := t1, dst := t2,
           total := tensorBytes df ext }, s))

/-- `COPY_TENSOR_TO_TILE`: the tile must be empty and the context's own, and begins filling (09 R233). -/
def execCopyTensorToTile (s : State) : Host.Outcome State Fault Refusal :=
  let sub := inHand s
  let (die, cl) := takeHere s
  let p := sub.packet
  let g := copyAgent die cl sub
  endTake die cl sub s (do
    takeChecks die 6 sub s
    let (t1, s) ← readTlr sub.fmt3f g p.w1 s
    let sf := tlrFmt t1
    let k ← packetTile p.w2
    let e := (s.die die).tile k
    need ((s.die die).owned k && tileCtx e = sub.slot && tileSt e = 0) cAddressClass
    let df := fld e 50 8
    let conv ← checkFormats sub sf df
    let ext := copyWindow t1
    tileRules e (fld p.w4 0 12) df ext
    need (blockAligned df 0 ext) cReservedField
    let s ← serveOne die (thingTile k) s
    .ok ({ sub, kind := 6, sf, df, conv, rm := packetRm sub (fld p.w0 0 3), sat := bit p.w0 3, src := t1,
           dst := [BitVec.ofNat 64 k, e], total := tensorBytes df ext }, setTile die k (setFld e 62 2 1) s))

/-- `COPY_TILE_TO_TENSOR`: the tile is read as a reader, once it is ready (09 R233). -/
def execCopyTileToTensor (s : State) : Host.Outcome State Fault Refusal :=
  let sub := inHand s
  let (die, cl) := takeHere s
  let p := sub.packet
  let g := copyAgent die cl sub
  endTake die cl sub s (do
    takeChecks die 7 sub s
    let (t2, s) ← readTlr sub.fmt3f g p.w2 s
    let df := tlrFmt t2
    let k ← packetTile p.w1
    let e := (s.die die).tile k
    need ((s.die die).owned k && tileCtx e = sub.slot) cAddressClass
    let sf := fld e 50 8
    let conv ← checkFormats sub sf df
    let ext := copyWindow t2
    tileRules e (fld p.w4 0 12) sf ext
    need (blockAligned df p.w3 ext) cReservedField
    orWait (tileSt e = 2) 10 0
    let s ← serveOne die (thingTile k) s
    .ok ({ sub, kind := 7, sf, df, conv, rm := packetRm sub (fld p.w0 0 3), sat := bit p.w0 3,
           src := [BitVec.ofNat 64 k, e], dst := t2, total := tensorBytes df ext }, setReaders die k (tileRdr e + 1) s))

/-! ### Events of a running copy (09 R227 to R230) -/

/-- The copy an event names: its engine's die and cluster, and its source in a. -/
def namedRun (s : State) : Option CopyRun :=
  let (die, cl) := takeHere s
  ((s.cluster die cl).copies.find? fun x => x.1 = s.hand.ev.a.toNat).map Prod.snd

/-- Who a copy engine reads as: a tile is reached from its cluster (09 R222, R233). -/
def copyReader (die cl : Nat) (r : CopyRun) : Agent :=
  let g := copyAgent die cl r.sub
  if r.kind = 7 then tileAgent g ((r.src.getD 0 0).toNat) else g

/-- Who a copy engine writes as, at the beat a copy stands at. -/
def copyWriter (die cl : Nat) (r : CopyRun) (skid : Nat) : Writer :=
  let g := copyAgent die cl r.sub
  { g := if r.kind = 6 then tileAgent g ((r.dst.getD 0 0).toNat) else g,
    who := agentCopy cl, akind := 1, beat := r.done / beatBytes, skid }

/-- The destination bytes of the beat a copy stands at. -/
def beatSize (r : CopyRun) : Nat := min beatBytes (r.total - r.done)

/-- One beat of a copy: what is written, and the words of a copy to a command ring. -/
def runBeat (g : Agent) (w : Writer) (r : CopyRun) (s : State) : Option Stop × Watched × CopyRun :=
  match r.kind with
  | 4 =>
    match ringBeat g r s with
    | .ok (ws, s) => (none, (none, s), { r with src := ws, done := r.total })
    | .error e => (some e, (none, s), r)
  | 3 => let x := storeBeat g r s; (x.1, x.2, { r with done := r.done + beatSize r })
  | 1 => let x := linearBeat g w r s; (x.1, x.2, { r with done := r.done + beatSize r })
  | 2 => let x := linearBeat g w r s; (x.1, x.2, { r with done := r.done + beatSize r })
  | _ =>
    let x := if isBlockFmt r.df then blockBeat g w r s else scalarBeat g w r s
    (x.1, x.2, { r with done := r.done + beatSize r })

/-- Beats still to land after a hit: from 0 to 2, as the engine happens to stop (16 R398; log 4), and no more than the
copy has. -/
def skidOf (r : CopyRun) (s : State) : Nat × State :=
  let (v, s) := s.takeFree
  (min (v.toNat % 3) (ceilDiv (r.total - r.done - beatSize r) beatBytes), s)

/-- Keep a copy as it stands after a beat. -/
def putRun (die cl : Nat) (r : CopyRun) (s : State) : State :=
  s.modCluster die cl fun c => { c with copies := Tab.put c.copies (sourceOf r.sub) r }

/-- A copy that a watchpoint stops at this beat boundary faults under `ACT` 1 (16 R398); under `ACT` 2 the wave it
launched has stopped it. -/
def watchEnd (die cl : Nat) (r : CopyRun) (s : State) : State :=
  match r.watch with
  | some (0, info, a) =>
    if watchAct (s.ctx die r.sub.slot) info = 1 then
      copyFault die cl r.sub cWatchpoint a r.done (endRun die cl r s)
    else putRun die cl { r with watch := none } s
  | _ => putRun die cl r s

/-- `COPY_BEAT`: one beat of the copy of source a lands at its homes (09 R227, R230; 16 R398). -/
def execCopyBeat (s : State) : Host.Outcome State Fault Refusal :=
  let (die, cl) := takeHere s
  match namedRun s with
  | none => stay s
  | some r =>
    let skidding := r.watch.isSome
    if !(enginesRun (s.ctx die r.sub.slot) || skidding) then stay s
    else if wasKilled r.sub.slot r.sub.packet s then act (copyCancelled die cl r s)
    else if r.total ≤ r.done then stay s
    else
      let (skid, s1) := if (s.ctx die r.sub.slot).brkRegs.isEmpty then (0, s) else skidOf r s
      let (e, (hit, s2), r2) := runBeat (copyReader die cl r) (copyWriter die cl r skid) r s1
      match e with
      | some .absent => .fault .absentMemory
      | some (.trap c _ a) => act (copyFault die cl r.sub c a r.done (endRun die cl r s2))
      | some (.wait _ _) => stay s
      | none =>
        let s3 := countEv die 0x040 (some r.sub.slot) none (beatSize r) s2
        let watch := match r.watch, hit with
          | some (n + 1, i, a), _ => some (n, i, a)
          | some (0, i, a), _ => some (0, i, a)
          | none, some (how, i, a) => if how = 0 then none else some (skid, i, a)
          | none, none => none
        act (watchEnd die cl { r2 with watch } s3)

/-- The checks of a copy of no bytes: a 1-byte read, of a copy that reads, and a 1-byte write (09 R227, 06 R169). -/
def zeroCopy (g : Agent) (r : CopyRun) (s : State) : Except Stop State := do
  let p := r.sub.packet
  let one := fun (right : Nat) (handle : Bool) (a : Word) (s : State) =>
    if handle then do
      let (w, s) ← winCheck g a 0 1 1 right s
      if 8 ≤ w.die then foreignCheck s
      else
        let _ ← targetCheck w 1 right s
        .ok s
    else do
      let f ← locate s g a 1 1 (if right = 0 then .rd else .wr) false
      .ok (keepFound s g a f false)
  let s ← if r.kind = 2 then .ok s else one 0 (fld p.w0 34 2 = 2) p.w1 s
  if r.kind = 3 then
    let off := fld p.w2 0 16
    if storeLeft (s.ctx g.die r.sub.slot) off = 0 then trapAt cAddressClass (storeVa off) else .ok s
  else one 1 (fld p.w0 32 2 = 2) p.w2 s

/-- Finish a copy whose bytes have landed: its push, its tile, its token, its flag and its queue slot (09 R229, R232,
R233, R218). -/
def finishCopy (die cl : Nat) (r : CopyRun) (s : State) : State :=
  let p := r.sub.packet
  let s := if r.kind = 4 then ringPush die (fld p.w2 0 6) r.src s else s
  let s := if bit p.w0 24 then ringPush die (fld p.w6 8 2) [p.w5] s else s
  let s := if r.kind = 6 then
      let k := (r.dst.getD 0 0).toNat
      setTile die k (setFld ((s.die die).tile k) 62 2 2) s
    else s
  let s := endToken r.sub.slot p none (endRun die cl r s)
  let s := flagInc die r.sub.slot (fld p.w6 0 7) 1 (BitVec.ofNat 16 (agentCopy cl)) s
  match r.sub.queue with
  | some q => retireCq die (cqKey r.sub.slot q) s
  | none => s

/-- Words a copy pushes to a ring as it retires: none, or the ring has room for them (09 R229, R232). -/
def pushRoom (die : Nat) (r : CopyRun) (s : State) : Bool :=
  let p := r.sub.packet
  let a := fld p.w2 0 6
  let b := fld p.w6 8 2
  let na := if r.kind = 4 then r.src.length else 0
  let nb := b2n (bit p.w0 24)
  decide (na + (if a = b then nb else 0) ≤ (s.ring die a).free) && decide (nb ≤ (s.ring die b).free)

/-- `COPY_RETIRE`: the copy of source a has landed every byte and retires, once its pushes have room (09 R229). -/
def execCopyRetire (s : State) : Host.Outcome State Fault Refusal :=
  let (die, cl) := takeHere s
  match namedRun s with
  | none => stay s
  | some r =>
    if !enginesRun (s.ctx die r.sub.slot) then stay s
    else if wasKilled r.sub.slot r.sub.packet s then act (copyCancelled die cl r s)
    else if r.done < r.total || r.watch.isSome || !pushRoom die r s then stay s
    else if r.total = 0 ∧ 1 ≤ r.kind ∧ r.kind ≤ 3 then
      match zeroCopy (copyAgent die cl r.sub) r s with
      | .ok s => act (finishCopy die cl r s)
      | .error .absent => .fault .absentMemory
      | .error (.trap c _ a) => act (copyFault die cl r.sub c a 0 (endRun die cl r s))
      | .error (.wait _ _) => stay s
    else act (finishCopy die cl r s)

/-- The copy queue an event names: 64 times the context plus the queue, in a. -/
def namedQueue (s : State) : Option (Nat × PktQueue) :=
  let key := s.hand.ev.a.toNat % 1024
  (s.cq s.cur.die key).map fun q => (key, q)

/-- `COPY_QUEUE_ACT_RETRY`: the slot at `RDIX` of a stopped queue is taken again as it now stands (09 R220). -/
def execCopyQueueActRetry (s : State) : Host.Outcome State Fault Refusal :=
  match namedQueue s with
  | some (key, q) =>
    if q.act = some 1 then act (modCq s.cur.die key (fun q => { q with st := 0, cause := 0, act := none }) s) else stay s
  | none => stay s

/-- `COPY_QUEUE_ACT_SKIP`: the slot at `RDIX` of a stopped queue retires without effect, and the token it names counts it as
discarded (09 R220, R226). -/
def execCopyQueueActSkip (s : State) : Host.Outcome State Fault Refusal :=
  match namedQueue s with
  | some (key, q) => if q.act = some 2 then act (retireCq s.cur.die key (endToken (key / 64) (q.packet q.rdix s) none s)) else stay s
  | none => stay s

/-- Make a stopped queue's engine look at its slot once more: a packet whose kind is reserved faults like any other
reserved field (02 R56, 09 R221). -/
def rejectPacket (s : State) : Host.Outcome State Fault Refusal :=
  let (die, cl) := takeHere s
  act (copyFault die cl (inHand s) cReservedField 0 0 s)

end Sys2Proof.Machine
end

