-- ==== Sys2Proof/Machine/SchedOps.lean ====
section
/-!
DEFINITION. What the scheduler does inside other steps: named events and their waiters, tasks becoming ready and
completing, an iteration ending (12 R304 to R313; 01 R27).
-/

namespace Sys2Proof.Machine

/-! ### The check caches (13 R333) -/

/-- A core forgets the passed checks that a test picks out. -/
def Core.forget (c : Core) (p : Check → Bool) : Core :=
  { c with strands := c.strands.map fun (n, t) => (n, { t with checks := t.checks.filter fun x => !p x }) }

/-- A change of what a target context checks by clears every check passed at it, in the whole field (13 R333). -/
def clearChecks (die slot : Nat) (s : State) : State :=
  let f := fun (k, c) => (k, Core.forget c fun x => decide (x.die = die) && decide (x.slot = slot))
  { s with dies := s.dies.map fun (i, d) => (i, { d with cores := d.cores.map f, parked := d.parked.map f }) }

/-! ### Events and tasks -/

/-- Agent identity of the scheduler (08 R209). -/
def agentScheduler : Nat := agentEngine 21

/-- An agent acting for a context with no strand: an engine or the scheduler. -/
def engineAgent (die slot : Nat) : Agent := { die, core := 0, slot, strand := 6 }

/-- Virtual address of the bitmap byte of an event (12 R305). -/
def eventVa (c : Ctx) (n : Nat) : Word :=
  ((c.evcfg.setWidth 56 &&& ~~~0x1FFF#56).signExtend 64) + BitVec.ofNat 64 (n / 8)

/-- Whether a context's events are usable (12 R305). -/
def eventsOn (c : Ctx) : Bool := bit c.evcfg 63

/-- All events of a context are clear when it is created (12 R305): the piece of the bitmap that an event lies in is zeroed when it
is first touched (log 16). -/
def freshEvents (die slot n : Nat) (s : State) : Except Stop State := do
  let c := s.ctx die slot
  let i := n / 2048
  if !c.evStale.contains i then .ok s
  else
    let va := eventVa c (2048 * i)
    let (p, s) ← access s (engineAgent die slot) va 256 1 .wr false
    .ok ((s.putRaw p.key (List.replicate 256 (some 0))).modCtx die slot fun c => { c with evStale := c.evStale.erase i })

/-- Whether an event is set (12 R306): its bit in the bitmap. -/
def eventSet (s : State) (die slot n : Nat) : Except Stop (Bool × State) := do
  let s ← freshEvents die slot n s
  let va := eventVa (s.ctx die slot) n
  let (p, s) ← access s (engineAgent die slot) va 1 1 .rd false
  let (bs, s) ← readPlace s p 1 va
  .ok (bit (bs.headD 0) (n % 8), s)

/-- Write an event's bit. -/
def eventWrite (s : State) (die slot n : Nat) (v : Bool) : Except Stop State := do
  let s ← freshEvents die slot n s
  let va := eventVa (s.ctx die slot) n
  let (p, s) ← access s (engineAgent die slot) va 1 1 .wr false
  let (bs, s) ← readPlace s p 1 va
  .ok (s.putBytes p.key [some (setFld (bs.headD 0) (n % 8) 1 (b2n v))])

/-- A waiter is released: a task's dependence is observed, a strand's wait is over, a stream goes on (12 R306, R309). -/
def releaseWaiter (die slot : Nat) (w : Nat × Nat × Nat) (s : State) : State :=
  let (ev, kind, num) := w
  match kind with
  | 0 => s.modDie die fun d =>
      { d with tasks := d.tasks.map fun t =>
          if t.num = num then
            let deps := t.deps.erase ev
            { t with deps, ready := if deps.isEmpty && t.ready.isNone then some d.cyc else t.ready }
          else t }
  | 1 => s.modCtx die slot fun c => { c with evSeen := (ev, num) :: c.evSeen }
  | _ => s.modDie die fun d =>
      { d with streams := Tab.put d.streams num { (Tab.get {} d.streams num) with waitEv := none } }

/-- Release every waiter of an event: those in the table in the order they arrived, then those of the overflow ring
from oldest to newest (12 R306). -/
def releaseAll (die slot n : Nat) (s : State) : State :=
  let c := s.ctx die slot
  let ws := (c.evWait.filter fun w => w.1 = n) ++
    (if c.evAllSpill || c.evSpill.contains n then c.evRing.filter fun w => w.1 = n else [])
  let s := ws.foldl (fun s w => releaseWaiter die slot w s) s
  s.modCtx die slot fun c =>
    let ring := c.evRing.filter fun w => w.1 ≠ n
    { c with evWait := c.evWait.filter fun w => w.1 ≠ n, evRing := ring,
             evSpill := if ring.isEmpty then [] else c.evSpill.filter (· ≠ n), evAllSpill := !ring.isEmpty && c.evAllSpill }

/-- Set an event (12 R306 to R308). -/
def setEvent (die slot n : Nat) (s : State) : Except Stop State := do
  let s ← eventWrite s die slot n true
  .ok (releaseAll die slot n s)

/-- The active entries of a die's scheduler table, by context and event: those of waiters, and those that only spill. -/
def tableEntries (d : Die) : List (Nat × Nat) :=
  (d.ctxs.flatMap fun (k, c) => (c.evWait.map Prod.fst ++ c.evSpill).map fun n => (k, n)).eraseDups

/-- A waiter's record goes to the overflow ring behind the bitmap. What the record's bytes are is the device's own (12 R305): they
are free (log 4). -/
def spillRecord (die slot : Nat) (w : Nat × Nat × Nat) (s : State) : Except Stop State := do
  let c := s.ctx die slot
  let va := eventVa c 65536 + BitVec.ofNat 64 (8 * (c.evTail % 2 ^ fld c.evcfg 58 5))
  let (p, s) ← access s (engineAgent die slot) va 8 8 .wr false
  let (v, s) := s.takeFree
  .ok ((s.putWord p.key v).modCtx die slot fun c => { c with evRing := c.evRing ++ [w], evTail := c.evTail + 1 })

/-- Add a waiter on a clear event (12 R306): it takes an entry and a waiter slot. With no slot free its record goes to the overflow
ring and its entry spills; with no entry, the context does; with the ring full it waits for room. -/
def addWaiter (die slot : Nat) (w : Nat × Nat × Nat) (s : State) : Except Stop State := do
  let d := s.die die
  let c := s.ctx die slot
  let es := tableEntries d
  let entry := es.contains (slot, w.1) || decide (es.length < 4096)
  if entry && decide ((d.ctxs.foldl (fun a x => a + x.2.evWait.length) 0) < 16384) then
    .ok (s.modCtx die slot fun c => { c with evWait := c.evWait ++ [w] })
  else
    orWait (decide (c.evRing.length < 2 ^ fld c.evcfg 58 5)) 10 0
    let s ← spillRecord die slot w s
    .ok (s.modCtx die slot fun c =>
      if entry then { c with evSpill := if c.evSpill.contains w.1 then c.evSpill else w.1 :: c.evSpill } else { c with evAllSpill := true })

/-- A scheduler fault record (12 R304). -/
def schedFault (die slot : Nat) (cause : BitVec 8) (idx : Nat) (addr info : Word) (s : State) : State :=
  faultRecord die slot cause agentScheduler 63 idx addr info s

/-- A task completes: it leaves the table, and its completion event is set; when the context's events have been
disabled a fault record is appended instead (12 R310). -/
def completeTask (die : Nat) (t : Task) (s : State) : State :=
  let s := s.modDie die fun d => { d with tasks := d.tasks.filter fun x => x.num ≠ t.num }
  let cev := fld (t.lnr.getD 3 0) 48 16
  if cev = 0 then s
  else
    let info : Word := BitVec.ofNat 64 (cev * 2 ^ 48 + t.num)
    if !eventsOn (s.ctx die t.slot) then schedFault die t.slot cAddressClass t.idx 0 info s
    else
      match serve die (thingEvent t.slot cev) rankLast s >>= setEvent die t.slot cev with
      | .ok s => s
      | .error (.trap c _ a) => schedFault die t.slot c t.idx a info s
      | .error _ => s

/-- The iteration of a core ends: the core is free, and the task completes with its last iteration (01 R27, 12 R310). -/
def endIteration (die core : Nat) (s : State) : State :=
  match (s.core die core).iter with
  | none => s
  | some it =>
    let s := s.modCore die core fun c =>
      let c := { c with iter := none, freeFrom := (s.die die).cyc + 1, due := none, dlk := 0, grant := none }
      (List.range 6).foldl (fun c n => c.modStrand n fun t => { t with run := .idle }) c
    let s := s.modDie die fun d =>
      { d with tasks := d.tasks.map fun t => if t.num = it.task then { t with ended := t.ended + 1 } else t }
    match (s.die die).tasks.find? fun t => t.num = it.task with
    | some t => if t.started && t.next = t.total && t.ended = t.total then completeTask die t s else s
    | none => s

end Sys2Proof.Machine
end

