-- ==== Sys2Proof/Machine/Team.lean ====
section
/-!
DEFINITION. Teams: descriptors and rank tables in memory, the team slots of an A strand, and the team instructions,
0x15A to 0x15D (12 R322 to R325).
-/

namespace Sys2Proof.Machine

namespace Forms

/-- The team layout: `h` allows `X[2]`. -/
def layTeam (h : Bool) (n : Nat) (x : BitVec 16) : Bool := twm n x && fld x 3 5 = 0 && (h || !bit x 2)
/-- `join` and `join.h`. -/
def join : Form := { strands := onA, dst := [.scal], a := .sNoX, x := layTeam true }
/-- `leave` and `tbar`. -/
def team : Form := { strands := onA, dst := [.none], x := layTeam false }
/-- `tinfo`. -/
def tinfo : Form := { strands := onA, dst := [.scal], c := .sel 3, x := layTeam false }

end Forms

/-! ### Reaching a descriptor (12 R322, R323) -/

/-- Where a team address leads: the key of the descriptor, or none for another package, and that package's die. The key is
the team's identity: the home die and physical address. -/
structure TeamAt where
  key : Option Nat
  die : Nat
  va : Word
  deriving DecidableEq, Repr

/-- Reach n bytes at an offset of a team address, as an atomic is checked: directly, or through a window handle. -/
def reachTeam (g : Agent) (handle : Bool) (a : Word) (o n : Nat) (s : State) : Except Stop (TeamAt × State) := do
  if handle then
    let (w, s) ← winCheck g a o n n 2 s
    if 8 ≤ w.die then .ok ({ key := none, die := w.die, va := w.va }, s)
    else
      let f ← targetCheck w n 2 s
      if f.place.aper = 2 then trapAt cAddressClass w.va
      let (tg, va) := targetAgent w
      .ok ({ key := some f.place.key, die := w.die, va := w.va }, keepFound s tg va f false)
  else
    let va := a + BitVec.ofNat 64 o
    if canonical va && inAperture va && fld va 48 4 ≠ 3 then trapAt cAddressClass va
    else
      let f ← locateAtom s g va n
      .ok ({ key := some f.place.key, die := f.place.home, va }, keepFound s g va f false)

/-- The identity of a team (12 R323; 13 R338): for another package, its die and the address there. -/
def TeamAt.ident (t : TeamAt) : Word :=
  match t.key with
  | some k => BitVec.ofNat 64 k
  | none => BitVec.ofNat 64 (2 ^ 63 + t.die % 8192 * 2 ^ 50) + t.va

/-- A descriptor's words 0 to 2 and `LIMIT`, as counts. -/
structure TeamDesc where
  gen : Nat
  arr : Nat
  size : Nat
  nextr : Nat
  jnext : Nat
  lnext : Nat
  limit : Nat
  deriving DecidableEq, Repr

/-- Read a descriptor: a reserved bit, or a limit outside 1 to 2^24, faults (12 R322). -/
def readTeam (k : Nat) (s : State) : Except Stop TeamDesc := do
  if (s.badIn k 64).isSome then trapOf cUncorrectable
  else
    let w := fun n => s.word (k + 8 * n)
    let d : TeamDesc :=
      { gen := fld (w 0) 32 32, arr := fld (w 0) 0 32, size := fld (w 1) 32 32, nextr := fld (w 1) 0 32,
        jnext := fld (w 2) 32 32, lnext := fld (w 2) 0 32, limit := fld (w 3) 0 32 }
    need (fld (w 3) 32 32 = 0 && w 4 = 0 && w 5 = 0 && w 6 = 0 && w 7 = 0 && decide (1 ≤ d.limit) &&
      decide (d.limit ≤ 2 ^ 24)) cReservedField
    .ok d

/-- Write a word at its home as an atomic does: no L1 of the package keeps its line (07 R175). -/
def teamPut (k : Nat) (v : Word) (s : State) : State := l1DropAll (k / lineSize) (s.putWord k v)

/-- Write the words of a descriptor that team operations change. -/
def writeTeam (k : Nat) (d : TeamDesc) (s : State) : State :=
  let pair := fun h l => BitVec.ofNat 64 (h % 2 ^ 32 * 2 ^ 32 + l % 2 ^ 32)
  teamPut (k + 16) (pair d.jnext d.lnext) (teamPut (k + 8) (pair d.size d.nextr) (teamPut k (pair d.gen d.arr) s))

/-- `complete_if_due` (12 R325). -/
def TeamDesc.completeIfDue (d : TeamDesc) : TeamDesc :=
  if d.arr = d.size then
    { d with gen := (d.gen + 1) % 2 ^ 32, size := d.size + d.jnext - d.lnext, arr := 0, jnext := 0, lnext := 0 }
  else d

/-- One more arrival in the current generation (12 R325). -/
def TeamDesc.arrive (d : TeamDesc) : TeamDesc := { d with arr := (d.arr + 1) % 2 ^ 32 }.completeIfDue

/-- A member joins: its rank and generation (12 R324). -/
def TeamDesc.join (d : TeamDesc) : Nat × TeamDesc :=
  let d' := { d with nextr := (d.nextr + 1) % 2 ^ 32 }
  if d.arr = 0 then (d.gen, { d' with size := (d.size + 1) % 2 ^ 32 })
  else ((d.gen + 1) % 2 ^ 32, { d' with jnext := (d.jnext + 1) % 2 ^ 32 })

/-- A member of a generation leaves (12 R324). -/
def TeamDesc.leave (d : TeamDesc) (gen : Nat) : TeamDesc :=
  if d.gen < gen then { d with jnext := (d.jnext + 2 ^ 32 - 1) % 2 ^ 32 }
  else { d with arr := (d.arr + 1) % 2 ^ 32, lnext := (d.lnext + 1) % 2 ^ 32 }.completeIfDue

/-- Offset of a rank entry from its descriptor (12 R322). -/
def rankOff (r : Nat) : Nat := 64 + 8 * r

/-- Reach a rank entry, which has its own translation and home (12 R322). -/
def reachRank (g : Agent) (handle : Bool) (a : Word) (r : Nat) (s : State) : Except Stop (Nat × State) := do
  let (t, s) ← reachTeam g handle a (rankOff r) 8 s
  match t.key with
  | some k => if (s.badIn k 8).isSome then trapAt cUncorrectable t.va else .ok (k, s)
  | none => .ok (0, s)

/-- A member's rank entry with `V` 1 (12 R322, R324). -/
def rankWord (die core slot : Nat) : Word :=
  BitVec.ofNat 64 (dieIdentity die % 8192 * 2 ^ 51 + core % 128 * 2 ^ 44 + slot % 16 * 2 ^ 40 + 1)

/-- A member's leave at the home of its team (12 R324): nothing for a team of another package, which a slot reaches. -/
def leaveTeam (g : Agent) (m : TeamSlot) (s : State) : Except Stop State := do
  let (t, s) ← reachTeam g m.handle m.desc 0 64 s
  match t.key with
  | none => .ok s
  | some k =>
    let d ← readTeam k s
    let (rk, s) ← reachRank g m.handle m.desc m.rank s
    .ok (writeTeam k (d.leave m.gen.toNat) (teamPut rk (s.word rk &&& ~~~1#64) s))

/-! ### The instructions -/

/-- A team slot of a strand. -/
def Strand.team (t : Strand) (n : Nat) : TeamSlot := Tab.get {} t.teams n
/-- Replace a team slot. -/
def Strand.setTeam (t : Strand) (n : Nat) (m : TeamSlot) : Strand := { t with teams := Tab.put t.teams n m }

/-- Operations of a team slot on the rings: 0 join, 1 leave, 2 barrier, 3 snapshot. -/
def teamWordsOf (op : Nat) (a : Word) (n : Nat) : List Word := [BitVec.ofNat 64 op, a, BitVec.ofNat 64 n]

/-- The descriptor of a team as the executing strand reaches it. A request to another package has been checked when it was sent
(13 R330). -/
def teamOnce (handle : Bool) (a : Word) (s : State) : Except Stop (TeamAt × State) :=
  match s.me.pend with
  | some p => .ok ({ key := none, die := p.dst, va := p.words.getD 1 0 }, s)
  | none => reachTeam s.agent handle a 0 64 s

/-- `join` (12 R324). Another package answers with a rank and a generation that are free. -/
def execJoin (w : StrandWord) (s : State) : Host.Outcome State Fault Refusal :=
  issueTok Forms.join w (fun s => do
    let (k, s) ← capture Forms.join id w s
    let n := fld k.x 0 2
    let handle := bit k.x 2
    need (!(s.me.team n).valid) cIllegalOperand
    let (t, s) ← teamOnce handle (lo64 k.a) (drainMine s)
    match t.key with
    | none =>
      ask (destQueue w) .team t.die (teamWordsOf 0 t.va 0) [] (fun p s =>
        let r := zx p.val 24
        if bit p.val 24 then landWord 0x15A 1 w (BitVec.ofNat 64 (2 ^ 63)) s
        else landWord 0x15A 1 w (BitVec.ofNat 64 r) (s.modMe fun x =>
          x.setTeam n { valid := true, desc := lo64 k.a, rank := r, gen := p.val.extractLsb' 32 32, handle })) s
    | some key =>
      let d ← readTeam key s
      if d.nextr = d.limit then landWord 0x15A 1 w (BitVec.ofNat 64 (2 ^ 63)) s
      else
        let (rk, s) ← reachRank s.agent handle (lo64 k.a) d.nextr s
        let (gen, d') := d.join
        let s := writeTeam key d' (teamPut rk (rankWord s.cur.die s.cur.core s.mySlot) s)
        landWord 0x15A 1 w (BitVec.ofNat 64 d.nextr) (s.modMe fun x =>
          x.setTeam n { valid := true, desc := lo64 k.a, rank := d.nextr, gen := BitVec.ofNat 32 gen, handle })) s

/-- The executing strand leaves a team slot, and goes on (12 R324). -/
def leaveSlot (n : Nat) (k : State → Eff) (s : State) : Eff := do
  let m := s.me.team n
  let (t, s) ← teamOnce m.handle m.desc s
  let empty := fun (s : State) => s.modMe fun x => x.setTeam n {}
  if t.key.isSome then
    let s ← leaveTeam s.agent m s
    k (empty s)
  else ask none .team t.die (teamWordsOf 1 t.va m.rank) [] (fun _ s => k (empty s)) s

/-- Leave every joined slot among some, then go on. -/
def leaveSlots : List Nat → (State → Eff) → State → Eff
  | [], k, s => k s
  | n :: ns, k, s => if (s.me.team n).valid then leaveSlot n (leaveSlots ns k) s else leaveSlots ns k s

/-- `leave`: a release (12 R324). -/
def execLeave (w : StrandWord) (s : State) : Host.Outcome State Fault Refusal :=
  issueTok Forms.team w (fun s => do
    let n := fld w.x 0 2
    need (s.me.team n).valid cIllegalOperand
    leaveSlot n .ok (release s)) s

/-- The barrier of a slot at the home of its team: it waits out an earlier generation, arrives once, and completes when
its generation has ended (12 R325). -/
def barrier (n key : Nat) (s : State) : Eff := do
  let m := s.me.team n
  let d ← readTeam key s
  let pass := fun (g : Nat) (s : State) =>
    acquire (s.modMe fun x => x.setTeam n { m with gen := BitVec.ofNat 32 (g + 1), arrived := none })
  match m.arrived with
  | some g => if g.toNat < d.gen then .ok (pass g.toNat s) else .error (.wait 10 0)
  | none =>
    orWait (decide (m.gen.toNat ≤ d.gen)) 10 0
    let d' := d.arrive
    let s := writeTeam key d' s
    if d.gen < d'.gen then .ok (pass d.gen s)
    else .ok { s.modMe fun x => x.setTeam n { m with arrived := some (BitVec.ofNat 32 d.gen) } with
               cur := { s.cur with hold := some (10, 0) } }

/-- `tbar`: every arrival is a release, and the completion acquires (12 R325). -/
def execTbar (w : StrandWord) (s : State) : Host.Outcome State Fault Refusal :=
  issueTok Forms.team w (fun s => do
    let n := fld w.x 0 2
    let m := s.me.team n
    need m.valid cIllegalOperand
    let (t, s) ← teamOnce m.handle m.desc (release s)
    match t.key with
    | some key => barrier n key s
    | none =>
      ask none .team t.die (teamWordsOf 2 t.va m.gen.toNat) [] (fun p s =>
        .ok (acquire (s.modMe fun x => x.setTeam n { m with gen := p.val.extractLsb' 32 32 }))) s) s

/-- `tinfo`: a snapshot without acquire (12 R323). -/
def execTinfo (w : StrandWord) (s : State) : Host.Outcome State Fault Refusal :=
  issueTok Forms.tinfo w (fun s => do
    let m := s.me.team (fld w.x 0 2)
    need m.valid cIllegalOperand
    match w.c.idx.toNat with
    | 0 => landWord 0x15D 1 w (BitVec.ofNat 64 m.rank) s
    | 3 => landWord 0x15D 1 w m.desc s
    | i =>
      let (t, s) ← teamOnce m.handle m.desc (behindHeld s)
      match t.key with
      | some key =>
        let d ← readTeam key s
        landWord 0x15D 1 w (BitVec.ofNat 64 (if i = 1 then d.size else d.gen)) s
      | none =>
        ask (destQueue w) .team t.die (teamWordsOf 3 t.va i) [] (fun p s => landWord 0x15D 1 w (BitVec.ofNat 64 (zx p.val 32)) s) s) s

end Sys2Proof.Machine
end

