-- ==== Sys2Proof/Machine/Collective.lean ====
section
/-!
DEFINITION. Collectives: reduction slots of ring stations, the instructions 0x190 to 0x195, what a station does with what
arrives, and deliveries to contributors (14 R349 to R364).
-/

namespace Sys2Proof.Machine

namespace Forms

/-- `cslot`. -/
def cslot : Form := { strands := onA, dst := [.scal], a := .sNoX, x := fun n x => twm n x && fld x 2 6 = 0 }
/-- `cred`, `cbcast`, `cbar`: `X[6:0]` is a flag or 0. -/
def contribute : Form :=
  { strands := onA, dst := [.none], a := .sNoX, b := .sNoX, c := .sNoX, x := fun n x => twm n x && !bit x 7 }
/-- `cfree`. -/
def cfree : Form := { strands := onA, dst := [.none], a := .sNoX, b := .sNoX, x := fun n x => twm n x && fld x 0 8 = 0 }
/-- `cqry`. -/
def cqry : Form := { strands := onA, dst := [.scal], a := .sNoX, c := .sel 2, x := fun n x => twm n x && fld x 0 8 = 0 }

end Forms

/-! ### Stations, descriptors and handles (14 R349 to R353) -/

/-- The collective unit's identity (08 R209). -/
def agentCollective : Nat := agentEngine 20

/-- Where a station selector leads: a die of this package and the first key of the station's slots there; another
package's or a field stile's die number; or nowhere. -/
def station (stn : Nat) : Option (Nat × Nat) :=
  let sid := stn % 8192
  match stn / 8192 with
  | 0 => some (dieOf sid, 0)
  | 1 => if sid % 8 = 2 ∨ sid % 8 = 6 then some (dieOf sid, 1024) else none
  | 2 => some (2 ^ 16 + sid, 0)
  | _ => none

/-- A slot's operation as a descriptor or handle gives it. -/
structure CollOp where
  cop : Nat
  fsel : Nat
  cntm1 : Nat
  elm1 : Nat
  deriving DecidableEq, Repr

/-- The table of 14 R353. -/
def CollOp.ok (o : CollOp) : Bool :=
  let len := decide (o.elm1 ≤ if o.fsel = 1 then 31 else 15)
  match o.cop with
  | 3 => decide (o.fsel ≤ 1) && len
  | 4 => decide (o.fsel = 2) && len
  | 5 => decide (o.fsel = 2) && len
  | 7 => decide (o.fsel = 0) && decide (o.elm1 = 0)
  | _ => decide (o.fsel ≤ 2) && len

/-- Bytes of an element. -/
def collElem (fsel : Nat) : Nat := if fsel = 1 then 2 else 4
/-- Data size of a slot in bytes (14 R353). -/
def CollOp.size (o : CollOp) : Nat := if o.cop = 7 then 0 else (o.elm1 + 1) * collElem o.fsel

/-- A slot's operation. -/
def RSlot.op (x : RSlot) : CollOp := { cop := x.cop, fsel := x.fsel, cntm1 := x.cntm1, elm1 := x.elm1 }

/-- A handle (14 R352). -/
def handleOf (stn slot : Nat) (x : RSlot) : Word :=
  BitVec.ofNat 64 (stn * 2 ^ 49 + slot % 512 * 2 ^ 40 + x.cop * 2 ^ 37 + x.fsel * 2 ^ 35 + x.cntm1 * 2 ^ 29 + x.elm1 * 2 ^ 24 +
    x.ser % 65536)

/-- `STN` of a handle. -/
def hStn (h : Word) : Nat := fld h 49 15
/-- Operation of a handle. -/
def hOp (h : Word) : CollOp := { cop := fld h 37 3, fsel := fld h 35 2, cntm1 := fld h 29 6, elm1 := fld h 24 5 }

/-- The checks of a handle at issue (14 R354). -/
def handleOk (h : Word) (idx : Nat) (cops : List Nat) : Bool :=
  fld h 16 8 = 0 && decide (hStn h / 8192 ≠ 3) && (hOp h).ok && decide (idx ≤ (hOp h).cntm1) && cops.contains (hOp h).cop

/-- A station's slot. -/
def State.rslot (s : State) (die n : Nat) : RSlot := Tab.get {} (s.die die).slots n
/-- Update a station's slot. -/
def modRslot (die n : Nat) (f : RSlot → RSlot) (s : State) : State :=
  s.modDie die fun d => { d with slots := Tab.put d.slots n (f (Tab.get {} d.slots n)) }

/-- Field time of a die as a number. -/
def nowOf (s : State) (die : Nat) : Nat := (s.die die).ftime.toNat

/-- The deadline in force: while a fallow wave stops it, it moves with field time (14 R364). -/
def RSlot.deadline (x : RSlot) (now : Nat) : Nat :=
  match x.stopAt with
  | none => x.dl
  | some t => x.dl + (now - t)

/-! ### The fold (14 R358, R359) -/

/-- An element of contributed data as a pattern. -/
def collAt (fsel : Nat) (bs : List Byte) (k : Nat) : Nat := ofBytes ((bs.drop (k * collElem fsel)).take (collElem fsel))

/-- The floating format of a slot; none for `i32`. -/
def collFmt (fsel : Nat) : Option FFmt := if fsel = 0 then some f32 else if fsel = 1 then some bf16 else none

/-- Whether an element is a NaN. -/
def collNan (fsel v : Nat) : Bool := match collFmt fsel with | some f => f.isNan v | none => false

/-- One step of the fold of an element: the result and whether an `i32` sum left its range. -/
def collStep (cop fsel : Nat) (r x : Nat) : Nat × Bool :=
  match collFmt fsel with
  | some f =>
    match cop with
    | 0 => ((f.add 0 false false r x).bits, false)
    | 1 => ((f.max false r x).bits, false)
    | 2 => ((f.min false r x).bits, false)
    | _ => ((f.max false r (f.mag x)).bits, false)
  | none =>
    let a := wrapInt true 32 r
    let b := wrapInt true 32 x
    match cop with
    | 0 => ((r + x) % 2 ^ 32, decide (a + b < -(2 ^ 31)) || decide (2 ^ 31 ≤ a + b))
    | 1 => (if a < b then x else r, false)
    | 2 => (if b < a then x else r, false)
    | 4 => (r &&& x, false)
    | _ => (r ||| x, false)

/-- The first value of the fold of an element. -/
def collFirst (cop fsel x : Nat) : Nat :=
  match collFmt fsel with
  | some f => if cop = 0 then (if f.isNan x then f.quiet x else x) else if cop = 3 then f.mag x else x
  | none => x

/-- One element folded over the in-time contributions in ascending index (14 R358): max, min and amax with any NaN give
the canonical NaN (14 R359). -/
def collFold (cop fsel : Nat) (xs : List Nat) : Nat × Bool :=
  match collFmt fsel with
  | some f =>
    if cop ≠ 0 ∧ xs.any f.isNan then (f.qnan, false)
    else match xs with
      | [] => (0, false)
      | x :: rest => (rest.foldl (fun r y => (collStep cop fsel r y).1) (collFirst cop fsel x), false)
  | none =>
    match xs with
    | [] => (0, false)
    | x :: rest => rest.foldl (fun (r, o) y => let (v, b) := collStep cop fsel r y; (v, o || b)) (collFirst cop fsel x, false)

/-- The contributions a result folds: all in time, or index 0's alone for a broadcast. -/
def RSlot.folded (x : RSlot) : List (Nat × Contrib) := if x.cop = 6 then x.contribs.filter fun c => c.1 = 0 else x.contribs

/-- A slot's result: its bytes, whether an element is NaN, `OVF`, and `NANIX` (14 R358, R359). -/
def RSlot.outcome (x : RSlot) : List Byte × Bool × Bool × Nat :=
  let cs := x.folded
  let es := (List.range (x.elm1 + 1)).map fun k =>
    let xs := cs.map fun c => collAt x.fsel c.2.data k
    if x.cop = 6 then (xs.headD 0, false) else collFold x.cop x.fsel xs
  if x.cop = 7 then ([], false, false, 255)
  else
    let nan := es.any fun e => collNan x.fsel e.1
    let ix := ((cs.find? fun c => (List.range (x.elm1 + 1)).any fun k => collNan x.fsel (collAt x.fsel c.2.data k)).map
      Prod.fst).getD 255
    (es.flatMap fun e => toBytes (collElem x.fsel) e.1, nan, es.any Prod.snd, if nan then ix else 255)

/-! ### Deliveries (14 R360) -/

/-- Arrival mask of a slot. -/
def RSlot.amask (x : RSlot) : Nat := x.contribs.foldl (fun a c => a + 2 ^ c.1) 0

/-- The status words of a delivery of a condition; that of a refused contribution has `PARTIAL` 0 (14 R360, and the status
`TIMEOUT` of run 2 of its worked example). -/
def collStatus (x : RSlot) (cstat : Nat) : List Word :=
  let gone := cstat = 2
  let w0 := 2 ^ 63 + (if cstat = 0 then b2n x.partial_ * 2 ^ 62 else 0) + (if gone then 0 else b2n x.nan * 2 ^ 61 + b2n x.ovf * 2 ^ 60) +
    cstat * 2 ^ 56 + (if cstat = 0 then x.nanix else 255) * 2 ^ 40 + (if gone then 0 else x.contribs.length) * 2 ^ 32
  [BitVec.ofNat 64 w0, BitVec.ofNat 64 (if gone then 0 else x.amask)]

/-- Send a delivery: status alone, or 64 result bytes before it. -/
def sendDelivery (die : Nat) (c : Contrib) (status : List Word) (result : Option (List Byte)) (s : State) : State :=
  let data := match result with
    | some bs => bs ++ List.replicate (64 - bs.length) 0
    | none => []
  send .deliver die c.die ([0, 1, BitVec.ofNat 64 c.slot, c.addr, BitVec.ofNat 64 c.flag, c.handle] ++ status) data s

/-- Deliver a slot's result to every in-time contributor that has none yet. -/
def serveAll (die n : Nat) (bytes : Bool) (s : State) : State :=
  let x := s.rslot die n
  let res := x.outcome.1
  let s := (x.contribs.filter fun c => !c.2.served).foldl (fun s c =>
    sendDelivery die c.2 (collStatus x 0) (if bytes then some res else none) s) s
  modRslot die n (fun x => { x with contribs := x.contribs.map fun (i, c) => (i, { c with served := true }) }) s

/-- A free slot: only its serial stays (14 R350). -/
def RSlot.freeUp (x : RSlot) : RSlot := { ser := x.ser }

/-- A done slot that every index has freed is free (14 R350). -/
def RSlot.freeIfDone (x : RSlot) : RSlot := if x.state = 2 ∧ x.freed.length = x.cntm1 + 1 then x.freeUp else x

/-- `finish` (14 R357 to R359). -/
def finishSlot (die n : Nat) (part : Bool) (s : State) : State :=
  let s := modRslot die n (fun x =>
    let (_, nan, ovf, ix) := x.outcome
    { x with state := 2, partial_ := part, nan, ovf, nanix := ix }) s
  let x := s.rslot die n
  modRslot die n RSlot.freeIfDone (serveAll die n (x.cop ≠ 7 && (x.cop ≠ 6 || !x.folded.isEmpty)) s)

/-- A broadcast's members that have arrived receive the result once index 0 is there (14 R359). -/
def serveBroadcast (die n : Nat) (s : State) : State :=
  let x := s.rslot die n
  if x.state = 1 ∧ x.cop = 6 ∧ !x.folded.isEmpty then
    let s := modRslot die n (fun x => let (_, nan, ovf, ix) := x.outcome; { x with nan, ovf, nanix := ix }) s
    serveAll die n true s
  else s

/-! ### What arrives at a station (14 R355, R357, R362) -/

/-- The outcome of a slot request at a station (14 R355): the reply and the state. The request's words: team, key, job,
operation, deadline. -/
def slotRequest (die base stn : Nat) (team : Word) (key : Nat) (job : BitVec 16) (o : CollOp) (dl : Nat) (s : State) :
    Word × State :=
  let all := List.range 512
  let now := nowOf s die
  match all.find? fun n => let x := s.rslot die (base + n); x.state ≠ 0 && x.team = team && x.key = key && x.job = job with
  | some n =>
    let x := s.rslot die (base + n)
    if x.op = o ∧ x.dl0 = dl then (handleOf stn n x, s) else (BitVec.ofNat 64 (2 ^ 63 + 2), s)
  | none =>
    if !(decide (now < dl) && decide (dl ≤ now + 2 ^ 32)) then (BitVec.ofNat 64 (2 ^ 63 + 3), s)
    else match all.find? fun n => (s.rslot die (base + n)).state = 0 with
      | none => (BitVec.ofNat 64 (2 ^ 63 + 1), s)
      | some n =>
        let x : RSlot :=
          { state := 1, ser := ((s.rslot die (base + n)).ser + 1) % 65536, team, key, job, cop := o.cop, fsel := o.fsel,
            cntm1 := o.cntm1, elm1 := o.elm1, dl0 := dl, dl }
        (handleOf stn n x, modRslot die (base + n) (fun _ => x) s)

/-- A station serves the requests of one cycle in ascending source die, then core (14 R355; log 7). -/
def stationServe (die base : Nat) (x : NetSlot) (s : State) : Except Stop State :=
  serve die (thingStation base) (x.src * 128 + (x.w 0).toNat % 128 + 1) s

/-- `CSLOT_AT_STATION`: the first request that has arrived at the die's stations (14 R355). -/
def execCslotAtStation (s : State) : Host.Outcome State Fault Refusal :=
  let die := s.cur.die
  match takeInbox die .slotReq s with
  | none => stay s
  | some (x, s) =>
    let stn := (x.w 3).toNat
    let base := ((station stn).map Prod.snd).getD 0
    match stationServe die base x s with
    | .error _ => stay s
    | .ok s =>
      let (r, s) := slotRequest die base stn (x.w 4) (x.w 5).toNat ((x.w 6).setWidth 16) (hOp (x.w 7)) (x.w 8).toNat s
      act (answer die x 0 0 0 (toBytes 8 r.toNat) s)

/-- Key of the slot a handle names at its station. -/
def handleKey (h : Word) : Nat := ((station (hStn h)).map Prod.snd).getD 0 + fld h 40 9

/-- A contribution as a slot carries it: the contributor. -/
def slotContrib (x : NetSlot) : Contrib :=
  { die := x.src, slot := (x.w 2).toNat, addr := x.w 5, flag := (x.w 6).toNat, handle := x.w 3, data := x.data }

/-- `CONTRIBUTION_ARRIVAL`: the first contribution that has arrived is judged, and kept or answered (14 R357). -/
def execContributionArrival (s : State) : Host.Outcome State Fault Refusal :=
  let die := s.cur.die
  match takeInbox die .contrib s with
  | none => stay s
  | some (x, s) =>
    let h := x.w 3
    let idx := (x.w 4).toNat
    let n := handleKey h
    let r := s.rslot die n
    let c := slotContrib x
    let refuse := fun st => act (sendDelivery die c (collStatus r st) none s)
    if r.state = 0 ∨ r.ser ≠ fld h 0 16 then refuse 2
    else if r.state = 2 ∨ r.deadline (nowOf s die) ≤ nowOf s die then refuse 1
    else if r.contribs.any fun y => y.1 = idx then refuse 3
    else
      let s := serveBroadcast die n (modRslot die n (fun r => { r with contribs := Tab.put r.contribs idx c }) s)
      act (if (s.rslot die n).contribs.length = r.cntm1 + 1 then finishSlot die n false s else s)

/-- The slot an event names: number a, of the rack stile when b is not 0. -/
def evSlot (s : State) : Nat := s.hand.ev.a.toNat % 512 + (if s.hand.ev.b = 0 then 0 else 1024)

/-- `SLOT_DEADLINE`: field time has reached the deadline of slot a and it finishes with what has come (14 R357). -/
def execSlotDeadline (s : State) : Host.Outcome State Fault Refusal :=
  let die := s.cur.die
  let n := evSlot s
  let x := s.rslot die n
  if x.state ≠ 1 || decide (nowOf s die < x.deadline (nowOf s die)) then stay s else act (finishSlot die n true s)

/-- `SLOT_FREE_TIMEOUT`: a done slot frees 1,000,000 ns after its deadline (14 R350). -/
def execSlotFreeTimeout (s : State) : Host.Outcome State Fault Refusal :=
  let die := s.cur.die
  let n := evSlot s
  let x := s.rslot die n
  if x.state ≠ 2 || decide (nowOf s die < x.deadline (nowOf s die) + 1000000) then stay s
  else act (modRslot die n RSlot.freeUp s)

/-- An index is finished with a slot; a done slot whose indices all are is free (14 R350, R362). -/
def RSlot.noteFree (x : RSlot) (idx : Nat) : RSlot :=
  RSlot.freeIfDone { x with freed := (idx :: x.freed).eraseDups }

/-- `CFREE_AT_STATION`: the first `cfree` that has arrived (14 R362). -/
def execCfreeAtStation (s : State) : Host.Outcome State Fault Refusal :=
  let die := s.cur.die
  match takeInbox die .free s with
  | none => stay s
  | some (x, s) =>
    let h := x.w 3
    let n := handleKey h
    let r := s.rslot die n
    let s := if r.state = 0 ∨ r.ser ≠ fld h 0 16 then s else modRslot die n (fun r => r.noteFree (x.w 4).toNat) s
    act (answer die x 0 0 0 [] s)

/-- Write one part of a delivery; a fault is recorded with the result's address (14 R360). -/
def deliverWrite (die slot : Nat) (result va handle : Word) (bs : List Byte) (s : State) : Bool × State :=
  let w : Writer := { g := engineAgent die slot, who := agentCollective, akind := 6 }
  match (writeRun w false va 0 (bs.map some) s) with
  | (none, _, s) => (true, s)
  | (some (.trap c _ _), _, s) => (false, faultRecord die slot c agentCollective 63 0 result handle s)
  | (some _, _, s) => (false, s)

/-- Apply a delivery: the result bytes, the status, the flag (14 R360). -/
def applyDelivery (die : Nat) (ws : List Word) (data : List Byte) (s : State) : State :=
  let slot := (ws.getD 2 0).toNat % 16
  let va := ws.getD 3 0
  let h := ws.getD 5 0
  let (ok, s) := if data.isEmpty then (true, s) else deliverWrite die slot va va h data s
  let st := toBytes 8 (ws.getD 6 0).toNat ++ toBytes 8 (ws.getD 7 0).toNat
  let s := if ok then (deliverWrite die slot va (va + 64) h st s).2 else s
  flagInc die slot ((ws.getD 4 0).toNat % 128) 1 (BitVec.ofNat 16 agentCollective) s

/-- The oldest reply a context's collective unit holds is applied, when the context runs (14 R364). -/
def applyHeld (die slot : Nat) (s : State) : Option State :=
  let c := s.ctx die slot
  match c.heldReplies with
  | [] => none
  | (ws, data) :: rest =>
    if enginesRun c then some (applyDelivery die ws data (s.modCtx die slot fun c => { c with heldReplies := rest })) else none

/-- Whether a slot holds no context and keeps nothing for an evicted one (14 R364). -/
def Ctx.empty (c : Ctx) : Bool := decide (c.state = 0) && !c.evict

/-- `COLLECTIVE_DELIVERY`: the first delivery that has arrived joins its context's replies and the oldest is applied if
the context runs; with none there, the oldest reply of the context of slot a; else the delivery of a station outside the
package to the contribution of number a, whose result and status are free but for what 14 R360 fixes (log 4). -/
def execCollectiveDelivery (s : State) : Host.Outcome State Fault Refusal :=
  let die := s.cur.die
  match takeInbox die .deliver s with
  | some (x, s) =>
    let slot := (x.w 2).toNat % 16
    if (s.ctx die slot).empty then act s
    else
      let s := s.modCtx die slot fun c => { c with heldReplies := c.heldReplies ++ [(x.words, x.data)] }
      act ((applyHeld die slot s).getD s)
  | none =>
    match applyHeld die (s.hand.ev.a.toNat % 16) s with
    | some s => act s
    | none =>
      match s.net.find? fun x => decide (x.src = die) && decide (8 ≤ x.dst) && decide (x.kind = .contrib) &&
          x.id = s.hand.ev.a.toNat with
      | none => stay s
      | some x =>
        let (v, s) := takeFreeVec s
        let size := (hOp (x.w 3)).size
        let s := { s with net := s.net.filter fun y => y.id ≠ x.id }
        let slot := (x.w 2).toNat % 16
        let status := [(lo64 (v >>> 512)) ||| (1#64 <<< 63), lo64 (v >>> 576)]
        let data := if size = 0 ∨ bit v 640 then [] else toBytes size v.toNat ++ List.replicate (64 - size) 0
        if (s.ctx die slot).empty then act s
        else
          let ws := [0, 1, BitVec.ofNat 64 slot, x.w 5, x.w 6, x.w 3] ++ status
          let s := s.modCtx die slot fun c => { c with heldReplies := c.heldReplies ++ [(ws, data)] }
          act ((applyHeld die slot s).getD s)

/-! ### The instructions -/

/-- What `cslot` asks of which die, once its descriptor has been checked: nothing where its station cannot be reached (14 R355). -/
def slotWanted (n : Nat) (va : Word) (s : State) : Except Stop (Option (Nat × List Word) × State) := do
  let m := s.me.team n
  need m.valid cIllegalOperand
  if !multiple 32 va then trapAt cAlign va else
  let (db, s) ← load va 32 true false false s
  let d := wordsOfBytes db
  let w0 := d.getD 0 0
  let stn := fld w0 17 15
  let o : CollOp := { cop := fld w0 14 3, fsel := fld w0 12 2, cntm1 := fld w0 6 6, elm1 := fld w0 1 5 }
  need (!bit w0 0 && d.getD 2 0 = 0 && d.getD 3 0 = 0 && o.ok && decide (stn / 8192 ≠ 3) &&
    (stn / 8192 ≠ 2 || stn % 256 = 0)) cReservedField
  let (t, s) ← reachTeam s.agent m.handle m.desc 0 64 s
  match station stn with
  | none => .ok (none, s)
  | some (die, _) =>
    if unreachable s die then .ok (none, s)
    else
      let op := handleOf stn 0 { cop := o.cop, fsel := o.fsel, cntm1 := o.cntm1, elm1 := o.elm1 }
      .ok (some (die, [BitVec.ofNat 64 s.mySlot, BitVec.ofNat 64 stn, t.ident, BitVec.ofNat 64 (fld w0 32 32),
        s.myCtx.job.setWidth 64, op, d.getD 1 0]), s)

/-- `cslot` (14 R355): once it has asked, it checks nothing again. -/
def execCslot (w : StrandWord) (s : State) : Host.Outcome State Fault Refusal :=
  issueTok Forms.cslot w (fun s => do
    let (k, s) ← capture Forms.cslot id w s
    let (r, s) ← match s.me.pend with
      | some p => Except.ok (some (p.dst, p.words), s)
      | none => slotWanted (fld k.x 0 2) (lo64 k.a) s
    match r with
    | none => landWord 0x190 1 w (BitVec.ofNat 64 (2 ^ 63 + 4)) s
    | some (die, words) => ask (destQueue w) .slotReq die words [] (fun p s => landWord 0x190 1 w (lo64 p.val) s) s) s

/-- The contribution of an index with its data (14 R356). -/
def contributeTo (k : Caps) (idx : Nat) (data : State → Except Stop (List Byte × State)) (s : State) : Eff := do
  let h := lo64 k.a
  let f ← locateIf s s.agent (lo64 k.c) 80 (multiple 128 (lo64 k.c)) .wr false
  let s := keepFound s s.agent (lo64 k.c) f false
  let (bs, s) ← data s
  let s := release s
  let die := ((station (hStn h)).map Prod.fst).getD (2 ^ 17)
  .ok (send .contrib s.cur.die die
    [BitVec.ofNat 64 s.cur.core, 1, BitVec.ofNat 64 s.mySlot, h, BitVec.ofNat 64 idx, lo64 k.c, BitVec.ofNat 64 (fld k.x 0 7)] bs s)

/-- Read a contribution's source bytes at B (14 R356). -/
def contribData (k : Caps) (s : State) : Except Stop (List Byte × State) :=
  let n := (hOp (lo64 k.a)).size
  let b := lo64 k.b
  load (b &&& ~~~63#64) n true false false s

/-- `cred` (14 R354, R356). -/
def execCred (w : StrandWord) (s : State) : Host.Outcome State Fault Refusal :=
  issueTok Forms.contribute w (fun s => do
    let (k, s) ← capture Forms.contribute id w s
    let idx := fld (lo64 k.b) 0 6
    need (handleOk (lo64 k.a) idx [0, 1, 2, 3, 4, 5]) cIllegalOperand
    contributeTo k idx (contribData k) s) s

/-- `cbcast`: index 0 brings the data (14 R354, R356). -/
def execCbcast (w : StrandWord) (s : State) : Host.Outcome State Fault Refusal :=
  issueTok Forms.contribute w (fun s => do
    let (k, s) ← capture Forms.contribute id w s
    let idx := fld (lo64 k.b) 0 6
    need (handleOk (lo64 k.a) idx [6] && (idx = 0 || fld (lo64 k.b) 6 58 = 0)) cIllegalOperand
    contributeTo k idx (if idx = 0 then contribData k else fun s => .ok ([], s)) s) s

/-- `cbar` (14 R354, R356). -/
def execCbar (w : StrandWord) (s : State) : Host.Outcome State Fault Refusal :=
  issueTok Forms.contribute w (fun s => do
    let (k, s) ← capture Forms.contribute id w s
    let idx := fld (lo64 k.b) 0 6
    need (handleOk (lo64 k.a) idx [7]) cIllegalOperand
    contributeTo k idx (fun s => .ok ([], s)) s) s

/-- Every operation (14 R354). -/
def anyCop : List Nat := [0, 1, 2, 3, 4, 5, 6, 7]

/-- `cfree`: it completes on the station's reply (14 R362). -/
def execCfree (w : StrandWord) (s : State) : Host.Outcome State Fault Refusal :=
  issueTok Forms.cfree w (fun s => do
    let (k, s) ← capture Forms.cfree id w s
    let h := lo64 k.a
    let idx := fld (lo64 k.b) 0 6
    need (handleOk h idx anyCop) cIllegalOperand
    ask none .free (((station (hStn h)).map Prod.fst).getD (2 ^ 17)) [BitVec.ofNat 64 s.mySlot, h, BitVec.ofNat 64 idx] []
      (fun _ s => .ok s) s) s

/-- What `cqry` shows of a slot (14 R363). -/
def collQuery (x : RSlot) (h : Word) (now w : Nat) : Word :=
  let live := x.state ≠ 0 && x.ser = fld h 0 16
  match w with
  | 0 => BitVec.ofNat 64 ((if live then x.state * 2 ^ 62 else 0) + x.contribs.length * 2 ^ 32 + x.ser)
  | 1 => BitVec.ofNat 64 (if live then x.amask else 0)
  | _ => BitVec.ofNat 64 (if live then x.deadline now else 0)

/-- `cqry`: a snapshot without acquire (14 R363). -/
def execCqry (w : StrandWord) (s : State) : Host.Outcome State Fault Refusal :=
  issueTok Forms.cqry w (fun s => do
    let (k, s) ← capture Forms.cqry id w s
    let h := lo64 k.a
    need (handleOk h 0 anyCop) cIllegalOperand
    let die := ((station (hStn h)).map Prod.fst).getD (2 ^ 17)
    if die < 8 then
      landWord 0x195 1 w (collQuery (s.rslot die (handleKey h)) h (nowOf s die) w.c.idx.toNat) s
    else ask (destQueue w) .free die [BitVec.ofNat 64 s.mySlot, h, 0] [] (fun p s => landWord 0x195 1 w (lo64 p.val) s) s) s

end Sys2Proof.Machine
end

