-- ==== Sys2Proof/Machine/Rings.lean ====
section
/-!
DEFINITION. How an engine takes the commands of its rings: the command at the head, its wait, its signal, retirement,
rejection and stops (02 R52, R53; 03 R79; 08 R195 to R199, R204, R211).
-/

namespace Sys2Proof.Machine

/-- Words of a command by its engine opcode, when the ring's engine has it. -/
def cmdLen (n eop : Nat) : Option Nat := if n < 4 then drillLen eop else rxeLen eop

/-- The command word at the head of a ring, as the ring's state lets its engine examine it (08 R198). -/
def headCmd (die n : Nat) (s : State) : Option Word :=
  let r := s.ring die n
  if isCommandRing n && r.en && r.state ≠ 3 && decide (r.head < r.tail) && (ringBad die r r.head 1 s).isNone then
    some (headWord die n 0 s)
  else none

/-- Words of the command at a head: one with no length of its own counts as one (03 R79). -/
def cmdWords (n : Nat) (v : Word) : Nat := (cmdLen n (fld v 40 8)).getD 1

/-- Whether a command word is rejected, and why (03 R79; 13 R348). -/
def cmdRejected (n : Nat) (v : Word) : Option (BitVec 8) :=
  if (cmdLen n (fld v 40 8)).isNone then some cIllegalOpcode
  else if 128 ≤ fld v 48 8 then some cReservedField
  else none

/-- Whether all words of the command at the head lie before `TAIL` (08 R198). -/
def headWhole (die n : Nat) (v : Word) (s : State) : Bool :=
  let r := s.ring die n
  decide (r.head + cmdWords n v ≤ r.tail)

/-- The ring an engine's step acts on. -/
def ringHere (s : State) : Nat := s.cur.unit % 64

/-- The command in hand: its words, as many as it has. -/
def handLen (s : State) (n : Nat) : Nat := (cmdLen n (fld (headWord s.cur.die n 0 s) 40 8)).getD 1

/-- Apply a command's signal (02 R53). -/
def applySignal (die n sg : Nat) (s : State) : State :=
  if 1 ≤ sg ∧ sg ≤ 127 then flagInc die (s.ring die n).owner sg 1 (BitVec.ofNat 16 (ringAgent n)) s else s

/-- The ring's head passes a command of some words, which is taken (08 R196, R198). -/
def takeCmd (die n len : Nat) (s : State) : State :=
  s.modRing die n fun r => { r with head := r.head + len, granted := false, state := 1 }

/-- The oldest command of a ring retires: it has some words and a signal (08 R198). -/
def retireCmd (die n len sg : Nat) (s : State) : State :=
  let s := s.modRing die n fun r =>
    let r := { r with ret := r.ret + len }
    { r with state := if 2 ≤ r.state then r.state else if r.ret = r.tail then 0 else 1 }
  applySignal die n sg s

/-- A command that retires as it is taken (08 R198). -/
def takeRetire (die n len sg : Nat) (s : State) : State := retireCmd die n len sg (takeCmd die n len s)

/-- End an engine's command: a stop of its effect stops the ring on it (08 R199); a wait leaves it at the head. -/
def cmdEnd (s : State) (r : Eff) : Host.Outcome State Fault Refusal :=
  match r with
  | .ok s => act s
  | .error (.trap c i a) => act (ringStop s.cur.die (ringHere s) c (ringAgent (ringHere s)) a i s)
  | .error .absent => .fault .absentMemory
  | .error (.wait _ _) => stay s

/-- A command with no effect of its own but on registers of its engine: reserved operand bits stop the ring, else it
takes effect and retires at its take. -/
def simpleCmd (ok : Bool) (eff : State → Eff) (s : State) : Host.Outcome State Fault Refusal :=
  let n := ringHere s
  cmdEnd s (do
    need ok cReservedField
    let s' ← eff s
    .ok (takeRetire s.cur.die n (handLen s n) s.hand.cmd.sg.toNat s'))

/-! ### Retirement and the body of a `dloop` (08 R198; 11 R281) -/

/-- Whether the body of a `dloop` that starts at index i of a ring and ends before index e holds a `dloop`. -/
def loopInside (die n e : Nat) : Nat → Nat → State → Bool
  | 0, _, _ => false
  | fuel + 1, i, s =>
    if e ≤ i then false
    else
      let v := s.word (ringKey die (s.ring die n) i)
      fld v 40 8 = 0x0F || loopInside die n e fuel (i + (drillLen (fld v 40 8)).getD 1) s

/-- Where the body of the first `dloop` pushed and not yet taken starts, as the commands from index i on read. -/
def loopAhead (die n : Nat) : Nat → Nat → State → Option Nat
  | 0, _, _ => none
  | fuel + 1, i, s =>
    let r := s.ring die n
    let v := s.word (ringKey die r i)
    match drillLen (fld v 40 8) with
    | none => none
    | some l =>
      if r.tail < i + l then none
      else if fld v 40 8 = 0x0F ∧ fld v 16 16 ≠ 0 ∧ fld v 0 16 ≠ 0 ∧ fld v 0 16 ≤ i then some (i - fld v 0 16)
      else loopAhead die n fuel (i + l) s

/-- The first body word of a `dloop` that has made its last pass and has not retired. -/
def loopLast (d : Drill) : Option Nat :=
  d.taken.findSome? fun t => match t.loop with
    | some (i, b, _) => if t.idx = i then some b else none
    | none => none

/-- The index that `RET` may not pass: the first body word of a `dloop` that has not retired. -/
def loopHold (die n : Nat) (s : State) : Option Nat :=
  let r := s.ring die n
  match r.loop.map fun x => x.2.1 with
  | some b => some b
  | none => (loopLast (s.drill die n)).or (loopAhead die n (r.tail - r.head) r.head s)

/-- `RET` once every command before an index has retired. -/
def retTo (r : Ring) (hold : Option Nat) (i : Nat) : Nat :=
  max r.ret (match hold with | some h => min h i | none => i)

/-- The ring's state once a command has retired: a ring that holds a command or has stopped stays so. -/
def Ring.afterRetire (r : Ring) (more : Bool) : Nat :=
  if 2 ≤ r.state then r.state else if more || decide (r.head < r.tail) then 1 else 0

/-- Retire the commands at the front of a ring that have nothing more to do. -/
def retireFront (die k : Nat) : Nat → State → State
  | 0, s => s
  | fuel + 1, s =>
    match (s.drill die k).taken with
    | [] => s
    | t :: ts =>
      if t.job ≠ .ready then s
      else
        let s := s.modDrill die k fun d => { d with taken := ts }
        let hold := loopHold die k s
        let s := s.modRing die k fun r =>
          let r := { r with ret := retTo r hold (t.idx + t.len) }
          { r with state := r.afterRetire (!ts.isEmpty) }
        retireFront die k fuel (applySignal die k t.sg s)

/-- A command at the head of a ring is discarded with its signal applied (08 R198): a drill command retires behind those
still taken. -/
def discardHead (die n len sg : Nat) (s : State) : State :=
  if 4 ≤ n then takeRetire die n len sg s
  else
    let d := s.drill die n
    let t : TakenCmd := { id := d.nextId, idx := (s.ring die n).head, len, sg, job := .ready, set := d.set, sess := d.sess,
                          bcIn := d.bcIn, loop := (s.ring die n).loop }
    let s := s.modDrill die n fun d => { d with taken := d.taken ++ [t], nextId := d.nextId + 1 }
    retireFront die n 8 (takeCmd die n len s)

/-! ### When a ring's head is examined (08 R198; 10 R264; 11 R270, R280) -/

/-- Arbitration weight of ring k. -/
def omeWeight (w : Word) (k : Nat) : Nat := fld w (16 * k + 12) 4
/-- Whether the drill may take the next command of a ring: it has a weight, fewer than four commands under way, and no
`dfence` to pass (10 R264; 11 R270, R280). -/
def drillMayTake (die k : Nat) (s : State) : Bool :=
  let d := s.drill die k
  decide (omeWeight (s.die die).omeshr k ≠ 0) &&
    decide (d.taken.length + b2n (s.ring die k).loop.isSome < 4) && d.taken.all fun t => t.job ≠ .fence

/-- Whether the engine of a ring examines the command at its head: its owner runs; the drill may take a command, and has not come
to the end of a `dloop`'s pass. -/
def mayExamine (die n : Nat) (s : State) : Bool :=
  let r := s.ring die n
  isCommandRing n && enginesRun (s.ctx die r.owner) &&
    (decide (4 ≤ n) || (drillMayTake die n s && (r.loop.all fun x => x.1 ≠ r.head)))

/-- What the wait field of the command at the head has come to: satisfied, decided against it, or neither yet (08 R198). -/
def waitMet (die n : Nat) (v : Word) (s : State) : Option Bool :=
  let r := s.ring die n
  let x := s.ctx die r.owner
  let wt := fld v 56 8
  let g := x.guard (wt % 64)
  if wt = 0 ∨ r.granted then some true
  else if wt < 128 then (if x.flag wt = 0 then none else some true)
  else if g = 0 then none
  else some (decide (g = if wt < 192 then 1 else 2))

/-! ### Waits at the head (02 R53; 08 R198, R204) -/

/-- Mark the command at the head as held: its wait began when it was first held. -/
def holdHead (die n : Nat) (s : State) : State :=
  s.modRing die n fun r => { r with state := 2, waitFrom := if r.state = 2 then r.waitFrom else (s.die die).cyc }

/-- The flag that the command at the head waits for serves it: it is decremented by 1, and the wait is over (08 R198, R204, R211). -/
def grantFlag (die n f : Nat) (s : State) : Except Stop State := do
  let r := s.ring die n
  let s ← serve die (thingFlag r.owner f) (n + 1) s
  let waited := if r.state = 2 then (s.die die).cyc - r.waitFrom else 0
  let s := logWait die r.owner f (ringAgent n) (Tab.get 0xC00#16 (s.ctx die r.owner).flagWho f).toNat waited s
  let s := s.modCtx die r.owner fun c => { c with flags := Tab.put c.flags f (c.flag f - 1) }
  .ok (s.modRing die n fun r => { r with granted := true, state := 1 })

/-- The ring's engine takes the command it has decided on before anything else happens (08 R198). -/
def thenTake (die n : Nat) (s : State) : State := { s with agenda := .ring die n :: s.agenda }

/-- The command at the head of the ring that an event names, when its engine examines it. -/
def headHere (s : State) : Option Word :=
  let die := s.cur.die
  let n := ringHere s
  match headCmd die n s with
  | some v => if mayExamine die n s && headWhole die n v s then some v else none
  | none => none

/-- `COMMAND_FLAG_SATISFIED`: the flag the held command of the ring waits for is at least 1, and is decremented; the
command is taken next (08 R198, R204). A rejected one consumes no flag (03 R79). -/
def execCommandFlagSatisfied (s : State) : Host.Outcome State Fault Refusal :=
  let die := s.cur.die
  let n := ringHere s
  match headHere s with
  | none => stay s
  | some v =>
    let f := fld v 56 8
    if (s.ring die n).granted || (cmdRejected n v).isSome || decide (128 ≤ f) || decide (f = 0) || waitMet die n v s ≠ some true then stay s
    else
      match grantFlag die n f s with
      | .ok s => act (thenTake die n s)
      | .error _ => stay s

/-- `COMMAND_GUARD_DECIDED`: the guard the held command waits for is resolved. It is taken next, or discarded with its signal
applied (08 R198). -/
def execCommandGuardDecided (s : State) : Host.Outcome State Fault Refusal :=
  let die := s.cur.die
  let n := ringHere s
  match headHere s with
  | none => stay s
  | some v =>
    if (s.ring die n).granted || decide (fld v 56 8 < 128) then stay s
    else
      match waitMet die n v s with
      | none => stay s
      | some true => act (thenTake die n (s.modRing die n fun r => { r with granted := true, state := 1 }))
      | some false => act (discardHead die n (cmdWords n v) (fld v 48 8) s)

/-- `DRILL_COMMAND_REJECT`: the word at the head has a reserved opcode or signal, its wait is over, and the ring stops on it (03
R79; 11 R269; 13 R348). -/
def execDrillCommandReject (s : State) : Host.Outcome State Fault Refusal :=
  let die := s.cur.die
  let n := ringHere s
  match headHere s with
  | none => stay s
  | some v =>
    match cmdRejected n v with
    | none => stay s
    | some c => if waitMet die n v s = some true then act (ringStop die n c (ringAgent n) 0 (ringInfo die n s) s) else stay s

/-- `RCFG_WRITE`: the supervisor or the host stores value a to the control word of the unit's ring (08 R195, R197). -/
def execRcfgWrite (s : State) : Host.Outcome State Fault Refusal :=
  match writeRcfg s.cur.die (ringHere s) s.hand.ev.a s with
  | .ok s => act s
  | .error _ => stay s

/-- `HOST_TAIL_STORE`: the host stores a to `TAIL`: every word up to it is pushed; a value that breaks the order of the indices
stops the ring (08 R196, R197). -/
def execHostTailStore (s : State) : Host.Outcome State Fault Refusal :=
  let die := s.cur.die
  let n := ringHere s
  let r := s.ring die n
  if 40 ≤ n then stay s
  else
    let up := (s.hand.ev.a.toNat + 2 ^ 32 - r.ret % 2 ^ 32) % 2 ^ 32
    if r.head - r.ret ≤ up ∧ up ≤ r.size then act (s.modRing die n fun r => { r with tail := r.ret + up })
    else
      let s := faultRecord die r.owner cReservedField (ringAgent n) n r.tail 0 (ringInfo die n s)
        (s.modRing die n fun r => { r with state := 3, cause := cReservedField, off := r.tail, granted := false })
      let s := flagInc die r.owner (fld r.cfg 41 7) 1 (BitVec.ofNat 16 (ringAgent n)) s
      act (notify die 0 cReservedField (ringAgent n) n r.owner (BitVec.ofNat 64 r.tail) 0 s)

/-- `RING_RESTART_RETRY`: `ACT` 1 is stored to the status of the unit's ring (08 R199). -/
def execRingRestartRetry (s : State) : Host.Outcome State Fault Refusal :=
  if (s.ring s.cur.die (ringHere s)).state ≠ 3 then stay s else act (restartRing s.cur.die (ringHere s) 1 s)

/-- `RING_RESTART_DISCARD`: `ACT` 2 is stored to the status of the unit's ring (08 R199). -/
def execRingRestartDiscard (s : State) : Host.Outcome State Fault Refusal :=
  if (s.ring s.cur.die (ringHere s)).state ≠ 3 then stay s else act (restartRing s.cur.die (ringHere s) 2 s)

end Sys2Proof.Machine
end

