-- ==== Sys2Proof/Machine/DrillOps.lean ====
section
/-!
DEFINITION. How the drill works through the commands it has taken: retirement in ring order, stops and suspensions,
reports, accumulators, `drain`, broadcast membership (08 R198 to R201; 10 R252, R256 to R264; 11 R269 to R295; log 18).
-/

namespace Sys2Proof.Machine

/-! ### Sharing (10 R252, R264) -/

/-- Elements of an allotment unit of 32 KiB. -/
def accUnit : Nat := 8192
/-- Elements of a bank. -/
def accBank : Nat := 131072

/-- The first element of ring k's allotment, counted through both banks. -/
def omeFirst (w : Word) (k : Nat) : Nat := fld w (16 * k + 11) 1 * accBank + fld w (16 * k + 7) 4 * accUnit
/-- Elements of ring k's allotment. -/
def omeCount (w : Word) (k : Nat) : Nat := fld w (16 * k + 2) 5 * accUnit

/-- The first element of a ring's allotment. -/
def allotFirst (die k : Nat) (s : State) : Nat := omeFirst (s.die die).omeshr k
/-- Elements of a ring's allotment. -/
def allotSize (die k : Nat) (s : State) : Nat := omeCount (s.die die).omeshr k

/-- An accumulator element: its `f32` pattern and its status (10 R251). -/
def accRead (die i : Nat) (s : State) : BitVec 32 × Nat :=
  (Tab.get 0#32 (s.die die).acc i, Tab.get 0 (s.die die).accSt i)

/-- Set n elements to +0 with status ok. -/
def accClear (die lo n : Nat) (s : State) : State :=
  let out := fun (i : Nat) => decide (i < lo) || decide (lo + n ≤ i)
  s.modDie die fun d => { d with acc := d.acc.filter fun x => out x.1, accSt := d.accSt.filter fun x => out x.1 }

/-- Raise the status of n elements (10 R251). -/
def accRaise (die lo n st : Nat) (s : State) : State :=
  if st = 0 then s
  else s.modDie die fun d =>
    { d with accSt := (List.range n).foldl (fun t i => Tab.put t (lo + i) (max (Tab.get 0 t (lo + i)) st)) d.accSt }

/-! ### Taken commands -/

/-- A taken command changes what it still has to do. -/
def setJob (die k id : Nat) (j : DrillJob) (s : State) : State :=
  s.modDrill die k fun d => { d with taken := d.taken.map fun t => if t.id = id then { t with job := j } else t }

/-! ### Pins (10 R255) -/

/-- A tile side of a window stops, or starts, counting as a reader (06 R154). -/
def sideReader (die : Nat) (w : WinSide) (up : Bool) (s : State) : State :=
  match w.tile with
  | some k =>
    let n := tileRdr ((s.die die).tile k)
    setReaders die k (if up then n + 1 else n - 1) s
  | none => s

/-- Release what a window pins. -/
def unpin (die : Nat) (w : Win) (s : State) : State := sideReader die w.wts false (sideReader die w.act false s)

/-- Release what the next window of a matrix command pins. -/
def unpinNext (die : Nat) (t : TakenCmd) (s : State) : State :=
  match t.job with
  | .mx r => match r.next with
    | some w => unpin die w s
    | none => s
  | _ => s

/-! ### Stops (08 R199; 11 R271, R294, R295) -/

/-- Stop a ring on a command it has taken: `HEAD` stands on its first word again, and it and the commands taken behind it
count as not taken, with the settings in force at its take (log 18). -/
def stopTaken (die k : Nat) (t : TakenCmd) (cause : BitVec 8) (addr info : Word) (s : State) : State :=
  let d := s.drill die k
  let s := (d.taken.filter fun x => t.id ≤ x.id).foldl (fun s x => unpinNext die x s) s
  let s := s.modDrill die k fun d =>
    { d with taken := d.taken.filter fun x => x.id < t.id, set := t.set, sess := t.sess, bcIn := t.bcIn,
             wins := d.wins.map fun w => if t.id ≤ w.id then { w with dead := true } else w }
  let s := s.modRing die k fun r => { r with head := t.idx, loop := t.loop, granted := false }
  ringStop die k cause agentDrill addr info s

/-- Symbols of a K step (10 R243). -/
def stepSyms (b8 : Bool) : Nat := if b8 then 48 else 96

/-- Suspend a matrix command at a symbol: its progress record is written just after the ring's storage, when it lies
inside the owner's `DCMWIN`, and the ring stops (11 R294, R295). -/
def suspendMx (die k : Nat) (t : TakenCmd) (r : MxRun) (cause : BitVec 8) (addr : Word) (pos flags : Nat) (s : State) :
    State :=
  let g := s.ring die k
  let off := fld g.cfg 0 23 * 8 + 8 * g.size
  let prw := inDcmWin (s.ctx die g.owner) off 64
  let seq := (s.drill die k).seq
  let kd := pos / stepSyms r.b8
  let so := pos % stepSyms r.b8
  let w4 : Word := BitVec.ofNat 64 (seq % 2 ^ 24 * 2 ^ 40 + cause.toNat * 2 ^ 32 + kd % 1024 * 2 ^ 12 + so % 128)
  let ws := r.words ++ [w4, (s.die die).ftime, 0, 0]
  let s := if prw then
      (List.range 8).foldl (fun s i => s.putWord (keyDcm die (off + 8 * i)) (ws.getD i 0)) s
    else s
  stopTaken die k t cause addr (drillInfo seq flags prw kd so) s

/-! ### Reports (08 R201; 11 R291) -/

/-- The part that receives a drill ring's reports. -/
def reportRing (k : Nat) : Nat := 20 + k

/-- Append the reports of a ring that wait, as far as its report part has room; a disabled part drops and counts them. -/
def flushReports (die k : Nat) : Nat → State → State
  | 0, s => s
  | fuel + 1, s =>
    match (s.drill die k).stash with
    | [] => s
    | (_, w) :: rest =>
      let n := reportRing k
      if !(s.ring die n).en then
        flushReports die k fuel ((s.modRing die n fun r => { r with lost := min (r.lost + 1) 16383 }).modDrill die k
          fun d => { d with stash := rest })
      else
        match ringAppend die n [w] s with
        | some s => flushReports die k fuel (s.modDrill die k fun d => { d with stash := rest })
        | none => s

/-! ### Lasers (10 R258) -/

/-- A session that opens keeps its die's laser module lit: a dark one is relit. -/
def lightModule (die : Nat) (s : State) : State :=
  let m := die / 2
  let st := Tab.get 0 s.pkg.lasers m
  if st = 1 ∨ st = 3 then s
  else { s with pkg := { s.pkg with lasers := Tab.put s.pkg.lasers m 3, lasersAt := Tab.put s.pkg.lasersAt m s.pkg.ns } }

/-- Whether a die has a ring with an open symbol session. -/
def sessionOn (die : Nat) (s : State) : Bool :=
  (List.range 4).any fun k => (s.drill die k).sess || (s.drill die k).session

/-- Whether a laser module serves an open session. -/
def moduleUsed (m : Nat) (s : State) : Bool := sessionOn (2 * m) s || sessionOn (2 * m + 1) s

/-! ### `drain` (11 R289, R290) -/

/-- The tile a drill command names, as its ring's owner may (06 R151; 11 R269). -/
def drillTile (die owner : Nat) (v : Word) (s : State) : Except Stop Nat := do
  let key ← packetTile v
  need (!((s.die die).owned key && tileCtx ((s.die die).tile key) ≠ owner)) cAddressClass
  .ok key

/-- The status byte n of a row: two bits an element; bits of elements outside the row keep their value. -/
def statusByte (old : Nat) (sts : List Nat) (n : Nat) : Byte :=
  BitVec.ofNat 8 ((List.range 4).foldl (fun a j =>
    a + (match sts[4 * n + j]? with | some st => st % 4 | none => old / 4 ^ j % 4) * 4 ^ j) 0)

/-- The tiles of a `drain`: value tile, and status tile with `STE`. -/
def drainTiles (w0 w1 : Word) (die owner : Nat) (s : State) : Except Stop (Nat × Option Nat) := do
  let v ← drillTile die owner (BitVec.ofNat 64 (fld w1 12 4 * 4096 + fld w1 0 12)) s
  if bit w0 12 then do
    let t ← drillTile die owner (BitVec.ofNat 64 (fld w1 28 4 * 4096 + fld w1 16 12)) s
    .ok (v, some t)
  else .ok (v, none)

/-- Whether a region of rows fits a tile (11 R290). -/
def drainFits (e : Word) (rows bytes : Nat) : Bool := decide (rows ≤ fld e 38 12) && decide (bytes ≤ tileRowBytes e)

/-- The writer of a `drain` to a tile. -/
def drainWriter (die owner key : Nat) : Writer :=
  { g := tileAgent (engineAgent die owner) key, who := agentDrill, akind := 3 }

/-- Write the bytes of one row of a tile. -/
def drainRow (die owner key i : Nat) (bs : List Byte) (s : State) : Except Stop State :=
  let e := (s.die die).tile key
  match writeRun (drainWriter die owner key) false (tileVa key e) (i * tileRowBytes e) (bs.map some) s with
  | (some x, _) => .error x
  | (none, _, s) => .ok s

/-- Drain one row: the values rounded to the output format, and the statuses (11 R290). -/
def drainOne (die owner base fmt ncol : Nat) (sat : Bool) (v : Nat) (st : Option Nat) (i : Nat) (s : State) :
    Except Stop State := do
  let xs := (List.range ncol).map fun j => accRead die (base + i * ncol + j) s
  let eb := elemBits fmt / 8
  let s ← drainRow die owner v i (xs.flatMap fun x => toBytes eb (roundTo fmt 0 sat (f32.decode x.1.toNat))) s
  match st with
  | none => .ok s
  | some t =>
    let e := (s.die die).tile t
    let n := ceilDiv ncol 4
    let (old, s) ← readRun (drainWriter die owner t).g false (tileVa t e) (i * tileRowBytes e) n s
    drainRow die owner t i
      ((List.range n).map fun b => statusByte (old.getD b 0).toNat (xs.map Prod.snd) b) s

/-- Carry out a `drain` whose earlier windows have been accumulated: it waits while a tile is not ready. -/
def drainNow (die k : Nat) (w0 w1 : Word) (s : State) : Except Stop State := do
  let owner := (s.ring die k).owner
  let (v, st) ← drainTiles w0 w1 die owner s
  let d := s.die die
  orWait (tileSt (d.tile v) = 2 && st.all fun t => tileSt (d.tile t) = 2) 10 0
  let nrow := fld w1 44 12
  let ncol := fld w1 32 12
  let fmt := fld w0 15 8
  need (drainFits (d.tile v) nrow (ncol * (elemBits fmt / 8)) &&
    st.all fun t => drainFits (d.tile t) nrow (ceilDiv ncol 4)) cAddressClass
  let base := allotFirst die k s + fld w0 23 17
  let s ← (List.range nrow).foldlM (fun s i => drainOne die owner base fmt ncol (bit w0 14) v st i s) s
  .ok (if bit w0 13 then accClear die base (nrow * ncol) s else s)

/-! ### Broadcast sessions (11 R287) -/

/-- The members of a session on the package's dies: die, ring, membership. -/
def bcMembers (sid : Nat) (s : State) : List (Nat × Nat × Bcast) :=
  (List.range 8).flatMap fun d => (List.range 4).filterMap fun k =>
    match (s.drill d k).bc with
    | some b => if b.sid = sid then some (d, k, b) else none
    | none => none

/-- The producer of a session: the one on the die a consumer names, else any. -/
def bcProducer (b : Bcast) (s : State) : Option (Nat × Nat × Bcast) :=
  let ps := (bcMembers b.sid s).filter fun x => x.2.2.producer
  match ps.find? fun x => x.1 = b.peers with
  | some p => some p
  | none => ps.head?

/-- The consumers of this package that agree with a producer. -/
def bcConsumers (die : Nat) (p : Bcast) (s : State) : List (Nat × Nat × Bcast) :=
  (bcMembers p.sid s).filter fun x => !x.2.2.producer && x.2.2.far = 0 && x.2.2.peers = die && x.2.2.at_ = p.at_

/-- Whether a ring's broadcast session, as the takes leave it, is the one of an identity and a role (11 R287). -/
def takesIn (d : Drill) (sid : Nat) (prod : Bool) : Bool :=
  let forming := d.taken.filterMap fun t => match t.job with
    | .forming b => some b
    | _ => none
  d.bcIn && match forming.getLast? <|> d.bc with
    | some b => b.sid = sid && b.producer == prod
    | none => false

/-- Whether a consumer's identity disagrees with its producer's: no producer has it, and one on the die the consumer names
awaits this die's member under another (11 R287; log 18). -/
def sidAstray (die : Nat) (b : Bcast) (s : State) : Bool :=
  (bcProducer b s).isNone && (List.range 4).any fun k =>
    match (s.drill b.peers k).bc with
    | some p => p.producer && !p.formed && p.peers.testBit die &&
        !(List.range 4).any fun j => match (s.drill die j).bc with
          | some c => !c.producer && c.sid = p.sid
          | none => false
    | none => false

/-- Whether every consumer of this package that a producer names has announced itself, and `measured`: with its path
measured. -/
def bcReady (die : Nat) (p : Bcast) (measured : Bool) (s : State) : Bool :=
  let cs := bcConsumers die p s
  (List.range 8).all fun d =>
    !p.peers.testBit d || cs.any fun x => x.1 = d && (!measured || (x.2.2.formed && x.2.2.path = 0))

/-- Change the membership of a ring. -/
def modBc (die k : Nat) (f : Bcast → Bcast) (s : State) : State := s.modDrill die k fun d => { d with bc := d.bc.map f }

/-- Members in other packages answer as they do: a free value (log 18). -/
def farReady (far : Nat) (s : State) : Bool × State :=
  if far = 0 then (true, s) else let (v, s) := s.takeFree; (bit v 0, s)

/-- A consumer's path delay is measured: its whole slots and its quarter symbols are what they are (10 R260, R262; log 18). -/
def measurePath (die k : Nat) (s : State) : State :=
  let (v, s) := s.takeFree
  modBc die k (fun b => { b with shift := fld v 0 16, trim := fld v 16 16 % 381 }) s

/-- The paths of a ring's session are measured again: its own, or every consumer's of this package (11 R279). -/
def measurePaths (die k : Nat) (s : State) : State :=
  match (s.drill die k).bc with
  | some b => if b.producer then (bcConsumers die b s).foldl (fun s x => measurePath x.1 x.2.1 s) s else measurePath die k s
  | none => s

/-! ### Calibration units (10 R257) -/

/-- The converter banks, the modulator groups and the skew of the whole array. -/
def bankUnits : List Nat := List.range 16
def groupUnits : List Nat := (List.range 8).map (16 + ·)
def skewUnit : Nat := 24

/-- Units are calibrated now, and are due no more; a skew trim leaves every receiver group a delay trim as it finds it (10
R260; log 12). -/
def calibrated (die : Nat) (us : List Nat) (s : State) : State :=
  let now := s.pkg.ns
  let skew := us.contains skewUnit
  let s' := if skew then { s with free := s.free + 2 ^ 16 } else s
  s'.modDie die fun d =>
    { d with calAt := us.foldl (fun t u => Tab.put t u now) d.calAt, steal := d.steal.filter fun u => !us.contains u,
             skewHalf := d.skewHalf && !skew, delays := if skew then some s.free else d.delays }

/-- The delay trim of a receiver group, in quarter symbols (10 R260). -/
def groupDelay (d : Die) (g : Nat) : Nat :=
  match d.delays with
  | some n => (Config.freeValue (n + g)).toNat % 381
  | none => 0

/-- A full calibration: everything (10 R257). -/
def calibrateAll (die : Nat) (s : State) : State := calibrated die (bankUnits ++ groupUnits ++ [skewUnit]) s

/-- What a command's slots have done once it has had them all (11 R275, R279). -/
def workDone (die k : Nat) (w : SlotWork) (s : State) : State :=
  match w with
  | .full => calibrateAll die s
  | .banks => calibrated die bankUnits s
  | .groups => calibrated die groupUnits s
  | .skew => calibrated die [skewUnit] s
  | .path => measurePaths die k s

/-- Go on forming a session: announce, agree, have the path measured, retire. -/
def formStep (die k : Nat) (t : TakenCmd) (b : Bcast) (s : State) : State :=
  match (s.drill die k).bc with
  | none => s.modDrill die k fun d => { d with bc := some b }
  | some m =>
    let done := fun (s : State) => setJob die k t.id .ready s
    if m.producer then
      let (far, s) := farReady m.far s
      if far && bcReady die m true s then done (modBc die k (fun m => { m with formed := true }) s) else s
    else if m.far ≠ 0 then
      let (far, s) := farReady m.far s
      if !far then s
      else if m.formed ∧ m.path = 0 then done s
      else modBc die k (fun m => { m with formed := true }) s
    else
      let astray := fun (s : State) =>
        stopTaken die k t cIllegalOperand 0 (drillInfo (s.drill die k).seq 0 false 0 0)
          (s.modDrill die k fun x => { x with bc := none })
      match bcProducer m s with
      | none => if sidAstray die m s then astray s else s
      | some (d, _, p) =>
        if d ≠ m.peers ∨ p.at_ ≠ m.at_ then astray s
        else if !m.formed then
          if bcReady d p false s then modBc die k (fun m => { m with formed := true }) s else s
        else
          let (far, s) := farReady p.far s
          if far && bcReady d p true s then done s else s

/-! ### Going on with what is taken -/

/-- The first taken command of a ring that has something left to do; every earlier one has retired. -/
def frontJob (die k : Nat) (s : State) : Option TakenCmd := (s.drill die k).taken.head?

/-- Whether windows a ring started are still to be judged. -/
def inFlight (die k : Nat) (s : State) : Bool := !(s.drill die k).wins.isEmpty

/-- Carry the front command of a ring on as far as it goes at once (11 R273 to R296). What reads or writes for an owner that
is stopped waits (10 R266; 15 R381). -/
def frontStep (die k : Nat) (s : State) : Eff :=
  match frontJob die k s with
  | none => .ok s
  | some t =>
    let done := fun (s : State) => setJob die k t.id .ready s
    let held := !enginesRun (s.ctx die (s.ring die k).owner)
    match t.job with
    | .ready => .ok s
    | .fence => .ok (done s)
    | .closing => .ok (done (s.modDrill die k fun d => { d with session := false }))
    | .opening a =>
      let d := s.die die
      if d.lit && a.all fun v => decide (v.toNat ≤ d.ftime.toNat) then
        .ok (done (s.modDrill die k fun d => { d with session := true }))
      else .ok s
    | .slots n w => .ok (if n = 0 then done (workDone die k w s) else s)
    | .clear off n => .ok (if inFlight die k s || held then s else done (accClear die (allotFirst die k s + off) n s))
    | .drain w0 w1 =>
      if inFlight die k s || held then .ok s
      else
        match drainNow die k w0 w1 s with
        | .ok s => .ok (done s)
        | .error (.wait _ _) => .ok s
        | .error .absent => .error .absent
        | .error (.trap c _ a) => .ok (stopTaken die k t c a (drillInfo (s.drill die k).seq 0 false 0 0) s)
    | .forming b => .ok (formStep die k t b s)
    | .leaving sid prod =>
      if inFlight die k s then .ok s
      else .ok (done (s.modDrill die k fun d =>
        { d with bc := d.bc.filter fun b => !(decide (b.sid = sid) && b.producer == prod) }))
    | .mx r =>
      let d := s.drill die k
      let own := d.wins.any fun w => w.id = t.id
      match r.fault with
      | some (c, a) => .ok (if own || held then s else suspendMx die k t r c a r.pos 0 s)
      | none =>
        .ok (if (r.dead || decide (r.total ≤ r.pos)) && !own && !(d.stash.any fun x => x.1 = t.id) then done s else s)

/-- Carry a ring's taken commands on: reports that have room are appended, the front command does what it can, and
commands with nothing left retire. -/
def advance (die k : Nat) : Nat → State → Eff
  | 0, s => .ok s
  | fuel + 1, s => do
    let s := retireFront die k 8 (flushReports die k 64 s)
    match frontJob die k s with
    | none => .ok s
    | some t =>
      let s' ← frontStep die k s
      match frontJob die k s' with
      | some u => if u.job = t.job ∧ u.id = t.id then .ok s' else advance die k fuel s'
      | none => advance die k fuel s'

/-- Carry every ring of a die on. -/
def advanceAll (die : Nat) (s : State) : Eff := (List.range 4).foldlM (fun s k => advance die k 16 s) s

/-- End an event of the drill: what it made possible happens. -/
def drillEnd (r : Eff) (s : State) : Host.Outcome State Fault Refusal :=
  match r with
  | .ok s => act s
  | .error .absent => .fault .absentMemory
  | .error _ => stay s

end Sys2Proof.Machine
end

