-- ==== Sys2Proof/Machine/Drill.lean ====
section
/-!
DEFINITION. The drill commands: their checks and what each does at its take (11 R269 to R289, R296). What remains to do
after the take is carried on by `advance`.
-/

namespace Sys2Proof.Machine

/-! ### The take (11 R269, R270) -/

/-- What a take gives: the state, and what the command still has to do. -/
abbrev Take := Except Stop (State × DrillJob)

/-- The drill ring an engine's step acts on. -/
def drillHere (s : State) : Nat := s.cur.unit % 4

/-- Operand field of the command in hand. -/
def opnd (s : State) (lo n : Nat) : Nat := fld s.hand.cmd.opnd lo n

/-- Whether every operand bit outside some fields is zero. -/
def opndOnly (s : State) (fields : List (Nat × Nat)) : Bool :=
  fields.foldl (fun v f => setFld v f.1 f.2 0) s.hand.cmd.opnd = 0

/-- The drill takes a command of some words: the reserved bits first, then the command's own checks and settings; a
failure stops the ring. What follows at once happens at once. -/
def drillTake (len : Nat) (ok : State → Bool) (eff : Nat → Nat → State → Take) (s : State) :
    Host.Outcome State Fault Refusal :=
  let die := s.cur.die
  let k := drillHere s
  let d := s.drill die k
  let r := s.ring die k
  let sg := s.hand.cmd.sg.toNat
  match (do
    need (decide (sg < 128)) cReservedField
    need (ok s) cReservedField
    eff die k s) with
  | .error (.trap c _ a) => act (ringStop die k c agentDrill a (drillInfo d.seq 0 false 0 0) s)
  | .error .absent => .fault .absentMemory
  | .error (.wait _ _) => stay s
  | .ok (s', j) =>
    let t : TakenCmd := { id := d.nextId, idx := r.head, len, sg, job := j, set := d.set, sess := d.sess, bcIn := d.bcIn,
                          loop := r.loop }
    let s' := s'.modDrill die k fun d => { d with taken := d.taken ++ [t], nextId := d.nextId + 1 }
    drillEnd (advance die k 16 (takeCmd die k len s')) s

/-- A command that changes settings of its ring (11 R263, R272). -/
def setDrill (die k : Nat) (f : DrillSet → DrillSet) (s : State) : Take :=
  .ok (s.modDrill die k fun d => { d with set := f d.set }, .ready)

/-- `dnop`. -/
def execDnop (s : State) : Host.Outcome State Fault Refusal :=
  drillTake 1 (fun s => opndOnly s []) (fun _ _ s => .ok (s, .ready)) s

/-- `sym` opening a session (11 R274). -/
def execSymOpen (s : State) : Host.Outcome State Fault Refusal :=
  drillTake 2 (fun s => opndOnly s [(38, 1)] && (opnd s 38 1 = 1 || s.hand.cmd.w1 = 0)) (fun die k s => do
    let at_ := opnd s 38 1 = 1
    need (!(s.drill die k).sess && !(at_ && bit s.hand.cmd.w1 0)) cIllegalOperand
    .ok (lightModule die (s.modDrill die k fun d => { d with sess := true }),
      .opening (if at_ then some s.hand.cmd.w1 else none))) s

/-- `sym.close` (11 R274): its field-time word is reserved without `AT`. -/
def execSymClose (s : State) : Host.Outcome State Fault Refusal :=
  drillTake 2 (fun s => opndOnly s [(39, 1), (38, 1)] && (opnd s 38 1 = 1 || s.hand.cmd.w1 = 0)) (fun die k s => do
    need ((s.drill die k).sess && !(opnd s 38 1 = 1 && bit s.hand.cmd.w1 0)) cIllegalOperand
    .ok (s.modDrill die k fun d => { d with sess := false }, .closing)) s

/-- `win` (11 R275). -/
def execWin (s : State) : Host.Outcome State Fault Refusal :=
  drillTake 1 (fun s => opndOnly s [(0, 8)]) (fun die k s => do
    let w := opnd s 0 7
    need (decide (1 ≤ w) && decide (w ≤ 96)) cIllegalOperand
    setDrill die k (fun x => { x with win := w, range := opnd s 7 1 = 1 }) s) s

/-- `crng` (11 R275). -/
def execCrng (s : State) : Host.Outcome State Fault Refusal :=
  drillTake 1 (fun s => opndOnly s [(0, 3)]) (fun die k s => setDrill die k (fun x => { x with gain := opnd s 0 3 }) s) s

/-- `crng.trim`: a trim of all 16 banks follows (11 R275). -/
def execCrngTrim (s : State) : Host.Outcome State Fault Refusal :=
  drillTake 1 (fun s => opndOnly s [(0, 4)]) (fun die k s =>
    .ok ({ s with free := s.free + 16 }.modDrill die k fun d =>
      { d with set := { d.set with gain := opnd s 0 3, trims := some s.free } }, .slots 16 .banks)) s

/-- `asrc` (10 R261; 11 R273). -/
def execAsrc (s : State) : Host.Outcome State Fault Refusal :=
  drillTake 1 (fun s => opndOnly s [(0, 5)]) (fun die k s => do
    let src := opnd s 0 2
    let p := opnd s 2 3
    need (src ≠ 3 && (p = 0 || src = 1)) cIllegalOperand
    setDrill die k (fun x => { x with src, pdie := p }) s) s

/-- `pass` (10 R245). -/
def execPass (s : State) : Host.Outcome State Fault Refusal :=
  drillTake 1 (fun s => opndOnly s [(0, 2)]) (fun die k s =>
    setDrill die k (fun x => { x with aspl := opnd s 0 1 = 1, wspl := opnd s 1 1 = 1 }) s) s

/-- `acc.add` and `acc.fresh` (11 R277); any other `OP` is refused. -/
def execAccMode (s : State) : Host.Outcome State Fault Refusal :=
  drillTake 1 (fun s => opndOnly s [(38, 2), (0, 1)]) (fun die k s => do
    need (opnd s 38 2 = 0) cIllegalOperand
    setDrill die k (fun x => { x with fresh := opnd s 0 1 = 1 }) s) s

/-- `acc.clr`: a count of 0 means 131,072 (11 R273, R277). -/
def execAccClr (s : State) : Host.Outcome State Fault Refusal :=
  drillTake 1 (fun s => opndOnly s [(38, 2), (17, 17), (0, 17)]) (fun die k s => do
    let n := if opnd s 0 17 = 0 then accBank else opnd s 0 17
    need (decide (opnd s 17 17 + n ≤ allotSize die k s)) cIllegalOperand
    .ok (s, .clear (opnd s 17 17) n)) s

/-- `rpol` (11 R278). -/
def execRpol (s : State) : Host.Outcome State Fault Refusal :=
  drillTake 1 (fun s => opndOnly s [(0, 11)]) (fun die k s => do
    need (decide (opnd s 0 2 ≤ 1) && decide (opnd s 2 2 ≤ 2)) cIllegalOperand
    setDrill die k (fun x => { x with rep := opnd s 0 2, act := opnd s 2 2, cmask := opnd s 4 7 }) s) s

/-- A command that takes slots of the whole die; an open session is required (11 R274, R279). -/
def slotsTake (what : Nat) (slots : Nat) (work : SlotWork) (s : State) : Host.Outcome State Fault Refusal :=
  drillTake 1 (fun s => opndOnly s [(0, 2)]) (fun die k s => do
    let d := s.drill die k
    need (opnd s 0 2 = what && d.sess && (work ≠ .path || d.bcIn)) cIllegalOperand
    .ok (s, .slots slots work)) s

/-- `cal.full`. -/
def execCalFull (s : State) : Host.Outcome State Fault Refusal := slotsTake 0 4096 .full s
/-- `cal.conv`. -/
def execCalConv (s : State) : Host.Outcome State Fault Refusal := slotsTake 1 16 .banks s
/-- `cal.mod`. -/
def execCalMod (s : State) : Host.Outcome State Fault Refusal := slotsTake 2 8 .groups s
/-- `skew.array`. -/
def execSkewArray (s : State) : Host.Outcome State Fault Refusal := slotsTake 0 2 .skew s
/-- `skew.path`: it needs a broadcast session. -/
def execSkewPath (s : State) : Host.Outcome State Fault Refusal := slotsTake 1 2 .path s

/-- `lzr` (11 R275). -/
def execLzr (s : State) : Host.Outcome State Fault Refusal :=
  drillTake 1 (fun s => opndOnly s [(0, 7)]) (fun die k s => do
    let p := opnd s 0 7
    need (decide (1 ≤ p) && decide (p ≤ 100)) cIllegalOperand
    setDrill die k (fun x => { x with thr := p }) s) s

/-- `dfence` (11 R280). -/
def execDfence (s : State) : Host.Outcome State Fault Refusal :=
  drillTake 1 (fun s => opndOnly s []) (fun _ _ s => .ok (s, .fence)) s

/-! ### `dloop` (11 R281) -/

/-- Ring indices count modulo 2^32: shift a ring's, so that an index before its first word can be named. -/
def liftRing (die k : Nat) (s : State) : State :=
  let up := 2 ^ 32
  (s.modRing die k fun r => { r with head := r.head + up, tail := r.tail + up, ret := r.ret + up }).modDrill die k
    fun d => { d with taken := d.taken.map fun t => { t with idx := t.idx + up } }

/-- `dloop`: `HEAD` returns to the body's first word; with a count of 0 it retires at once. -/
def execDloop (s : State) : Host.Outcome State Fault Refusal :=
  let die := s.cur.die
  let k := drillHere s
  let back := opnd s 0 16
  let count := opnd s 16 16
  let s1 := if (s.ring die k).head < back then liftRing die k s else s
  let r := s1.ring die k
  if opndOnly s [(0, 32)] && decide (s.hand.cmd.sg.toNat < 128) && decide (1 ≤ back) && decide (back ≤ r.size - 1) &&
      !loopInside die k r.head back (r.head - back) s1 && decide (0 < count) then
    drillEnd (advance die k 16 (s1.modRing die k fun r =>
      { r with head := r.head - back, loop := some (r.head, r.head - back, count), granted := false, state := 1 })) s
  else
    drillTake 1 (fun s => opndOnly s [(0, 32)]) (fun _ _ s => do
      need (count = 0 && decide (1 ≤ back) && decide (back ≤ r.size - 1) && !loopInside die k r.head back (r.head - back) s1)
        cIllegalOperand
      .ok (s, .ready)) s

/-- A pass of the loop has reached the `dloop` again: the next pass begins, or the loop is over. -/
def loopTurn (die k : Nat) (s : State) : Option State :=
  let r := s.ring die k
  match r.loop with
  | some (i, b, left) =>
    if r.head ≠ i ∨ r.state = 3 then none
    else if 1 < left then some (s.modRing die k fun r => { r with head := b, loop := some (i, b, left - 1) })
    else
      let d := s.drill die k
      let t : TakenCmd := { id := d.nextId, idx := i, len := 1, sg := fld (s.word (ringKey die r i)) 48 8, job := .fence,
                            set := d.set, sess := d.sess, bcIn := d.bcIn, loop := r.loop }
      some ((s.modRing die k fun r => { r with head := i + 1, loop := none }).modDrill die k fun d =>
        { d with taken := d.taken ++ [t], nextId := d.nextId + 1 })
  | none => none

/-! ### Broadcast sessions (11 R287) -/

/-- `bcst` (11 R287). -/
def execBcst (s : State) : Host.Outcome State Fault Refusal :=
  drillTake 2 (fun s => opndOnly s [(18, 8), (16, 2), (8, 8)]) (fun die k s => do
    let d := s.drill die k
    let b : Bcast := { sid := opnd s 18 8, producer := true, peers := opnd s 8 8, far := opnd s 16 2, at_ := s.hand.cmd.w1 }
    need (d.set.src = 0 && (b.peers ≠ 0 || b.far ≠ 0) && !bit b.at_ 0 && !d.bcIn && d.sess) cIllegalOperand
    .ok (s.modDrill die k fun d => { d with bcIn := true }, .forming b)) s

/-- `bjoin` (11 R287). -/
def execBjoin (s : State) : Host.Outcome State Fault Refusal :=
  drillTake 2 (fun s => opndOnly s [(18, 8), (0, 5)]) (fun die k s => do
    let d := s.drill die k
    let b : Bcast := { sid := opnd s 18 8, producer := false, peers := opnd s 0 3, far := opnd s 3 2, at_ := s.hand.cmd.w1 }
    need (((d.set.src = 1 && d.set.pdie = b.peers) || (d.set.src = 2 && b.far ≠ 0)) && !bit b.at_ 0 && !d.bcIn)
      cIllegalOperand
    .ok (s.modDrill die k fun d => { d with bcIn := true }, .forming b)) s

/-- Leave a session (11 R287); the instant's word is reserved. One the ring is no member of is not left (log 18). -/
def leaveTake (prod : Bool) (fields : List (Nat × Nat)) (s : State) : Host.Outcome State Fault Refusal :=
  drillTake 2 (fun s => opndOnly s ((39, 1) :: fields) && s.hand.cmd.w1 = 0) (fun die k s =>
    .ok (s.modDrill die k fun d => { d with bcIn := d.bcIn && !takesIn d (opnd s 18 8) prod }, .leaving (opnd s 18 8) prod)) s

/-- `bcst.end`. -/
def execBcstEnd (s : State) : Host.Outcome State Fault Refusal := leaveTake true [(18, 8), (16, 2), (8, 8)] s
/-- `bjoin.end`. -/
def execBjoinEnd (s : State) : Host.Outcome State Fault Refusal := leaveTake false [(18, 8), (0, 5)] s

/-! ### `drain` (11 R289) -/

/-- `drain`. -/
def execDrain (s : State) : Host.Outcome State Fault Refusal :=
  let w1 := s.hand.cmd.w1
  drillTake 2 (fun s => opndOnly s [(12, 28)] && fld w1 56 8 = 0 && (opnd s 12 1 = 1 || fld w1 16 12 = 0))
    (fun die k s => do
      let w0 : Word := s.hand.cmd.opnd.setWidth 64
      let fmt := opnd s 15 8
      let n := fld w1 44 12 * fld w1 32 12
      need (n ≠ 0 && decide (1 ≤ fmt) && decide (fmt ≤ 5) && decide (opnd s 23 17 + n ≤ allotSize die k s)) cIllegalOperand
      let (v, _) ← drainTiles w0 w1 die (s.ring die k).owner s
      need (fld ((s.die die).tile v) 50 8 = fmt) cIllegalOperand
      .ok (s, .drain w0 w1)) s

/-! ### Matrix commands (11 R276, R282 to R285, R296) -/

/-- The checks of a drill's read of n bytes that are aligned to a number: at an address, or through a handle (06 R142). -/
def drillChecks (g : Agent) (handle : Bool) (va : Word) (n align : Nat) (s : State) : Except Stop State :=
  if handle then (winCheck g va 0 n align 0 s).map Prod.snd else (locate s g va n align .rd false).map fun _ => s

/-- Read a record as the drill does: it has no format table (11 R269). -/
def readDrillTlr (g : Agent) (handle : Bool) (va : Word) (s : State) : Except Stop (Tlr × State) := do
  let s ← drillChecks g handle va 96 128 s
  let (bs, s) ← readRun g handle va 0 96 s
  let t := wordsOfBytes bs
  if !tlrOk t then trapAt cReservedField (va + BitVec.ofNat 64 (8 * tlrBad t))
  else if tlrFmt t = 63 then trapAt cReservedField (va + 8)
  else .ok (t, s)

/-- An operand as its word names it (11 R283). -/
def mxOperand (die owner kind row : Nat) (v : Word) (s : State) : Except Stop (MxOpd × State) := do
  let g := engineAgent die owner
  match kind with
  | 0 =>
    let (t, s) ← readDrillTlr g false v s
    .ok ({ kind, tlr := t, fmt := tlrFmt t, row }, s)
  | 1 =>
    let key ← drillTile die owner v s
    .ok ({ kind, tile := key, fmt := fld ((s.die die).tile key) 50 8, row }, s)
  | 2 =>
    let (t, s) ← readDrillTlr g true v s
    .ok ({ kind, tlr := t, handle := fld v 48 16, fmt := tlrFmt t, row }, s)
  | _ => .ok ({ kind, row }, s)

/-- Whether an operand's format and rank are those of a matrix operand, on a side mapped split or single (11 R276,
R283). -/
def mxOpdOk (o : MxOpd) (split : Bool) : Bool :=
  o.kind = 3 ||
    (decide (16 ≤ o.fmt) && decide (o.fmt ≤ 20) && (o.tlr.isEmpty || decide (tlrRank o.tlr ≤ 2)) &&
      (o.fmt = 18 || o.fmt = 20) == split)

/-- Whether a matrix command's words hold no reserved bit (11 R282). -/
def mxWordsOk (w0 w1 : Word) : Bool := fld w0 0 9 = 0 && fld w0 9 2 ≠ 3 && (fld w0 11 2 ≠ 3 || w1 = 0)

/-- The checks of a matrix command of shape M × N under its ring's settings, and the command as it will run from a
symbol on (11 R269 to R285). Where that symbol stands is checked with the records: their formats bound it (11 R296). -/
def mxSetup (die k m n : Nat) (words : List Word) (fresh : Bool) (pos : Bool → Except Stop Nat) (s : State) :
    Except Stop (MxRun × State) := do
  let d := s.drill die k
  let owner := (s.ring die k).owner
  let w0 := words.getD 0 0
  let w3 := words.getD 3 0
  let ak := fld w0 11 2
  let x := d.set
  need (d.sess && (decide (ak = 3) == decide (x.src ≠ 0)) && (x.src = 0 || d.bcIn)) cIllegalOperand
  let (a, s) ← mxOperand die owner ak (fld w3 40 24) (words.getD 1 0) s
  let (w, s) ← mxOperand die owner (fld w0 9 2) (fld w3 16 24) (words.getD 2 0) s
  let b8 := w.fmt = 20
  let at_ ← pos b8
  need (mxOpdOk a x.aspl && mxOpdOk w x.wspl && (ak = 3 || (a.fmt = 20) == (w.fmt = 20))) cIllegalOperand
  let rows := if x.aspl then m / 2 else m
  let cols := if x.wspl then n / 2 else n
  need (decide (fld w0 23 17 + rows * cols ≤ allotSize die k s) && !(b8 && fld w3 0 1 = 1)) cIllegalOperand
  .ok ({ words, m, n, target := allotFirst die k s + fld w0 23 17, b8, act := a, wts := w, k0 := fld w3 0 16,
         total := (fld w0 13 10 + 1) * stepSyms b8, pos := at_, fresh, session := d.bcIn }, s)

/-- The words of the matrix command in hand. -/
def mxWords (eop : Nat) (s : State) : List Word :=
  let c := s.hand.cmd
  [BitVec.ofNat 64 (c.wt.toNat * 2 ^ 56 + c.sg.toNat * 2 ^ 48 + eop * 2 ^ 40 + c.opnd.toNat), c.w1, c.w2, c.w3]

/-- A matrix command of a shape (11 R282). -/
def mxTake (eop m n : Nat) (s : State) : Host.Outcome State Fault Refusal :=
  let ws := mxWords eop s
  drillTake 4 (fun _ => mxWordsOk (ws.getD 0 0) (ws.getD 1 0)) (fun die k s => do
    let (r, s) ← mxSetup die k m n ws (s.drill die k).set.fresh (fun _ => .ok 0) s
    .ok (s, .mx r)) s

/-- `mx.m64n128`. -/
def execMxM64n128 (s : State) : Host.Outcome State Fault Refusal := mxTake 0x10 64 128 s
/-- `mx.m64n256`. -/
def execMxM64n256 (s : State) : Host.Outcome State Fault Refusal := mxTake 0x11 64 256 s
/-- `mx.m64n512`. -/
def execMxM64n512 (s : State) : Host.Outcome State Fault Refusal := mxTake 0x12 64 512 s
/-- `mx.m128n128`. -/
def execMxM128n128 (s : State) : Host.Outcome State Fault Refusal := mxTake 0x13 128 128 s
/-- `mx.m128n256`. -/
def execMxM128n256 (s : State) : Host.Outcome State Fault Refusal := mxTake 0x14 128 256 s
/-- `mx.m128n512`. -/
def execMxM128n512 (s : State) : Host.Outcome State Fault Refusal := mxTake 0x15 128 512 s
/-- `mx.m256n128`. -/
def execMxM256n128 (s : State) : Host.Outcome State Fault Refusal := mxTake 0x16 256 128 s
/-- `mx.m256n256`. -/
def execMxM256n256 (s : State) : Host.Outcome State Fault Refusal := mxTake 0x17 256 256 s
/-- `mx.m256n512`. -/
def execMxM256n512 (s : State) : Host.Outcome State Fault Refusal := mxTake 0x18 256 512 s

/-- Whether a progress record holds a command that can be resumed (11 R295, R296), but for the limit of `SOFF`, which
depends on its format. -/
def recordOk (ws : List Word) : Bool :=
  let w0 := ws.getD 0 0
  let w4 := ws.getD 4 0
  let eop := fld w0 40 8
  decide (16 ≤ eop) && decide (eop ≤ 24) && mxWordsOk w0 (ws.getD 1 0) && fld w4 22 10 = 0 && fld w4 7 5 = 0 &&
    ws.getD 6 0 = 0 && ws.getD 7 0 = 0 && decide (fld w4 12 10 ≤ fld w0 13 10) && decide (fld w4 0 7 < 96)

/-- The symbol a progress record names, in a format whose steps bound `SOFF` (11 R295, R296). -/
def recordPos (w4 : Word) (b8 : Bool) : Except Stop Nat := do
  need (decide (fld w4 0 7 < stepSyms b8)) cReservedField
  .ok (fld w4 12 10 * stepSyms b8 + fld w4 0 7)

/-- `mxr`: a suspended command goes on from where its record says, in the ring's current settings; fresh mode is not
applied (11 R296). -/
def execMxr (s : State) : Host.Outcome State Fault Refusal :=
  drillTake 2 (fun s => opndOnly s []) (fun die k s => do
    let va := s.hand.cmd.w1
    need (s.drill die k).sess cIllegalOperand
    let g := engineAgent die (s.ring die k).owner
    let s ← drillChecks g false va 64 64 s
    let (bs, s) ← readRun g false va 0 64 s
    let ws := wordsOfBytes bs
    need (recordOk ws) cReservedField
    let i := fld (ws.getD 0 0) 40 8 - 16
    let (r, s) ← mxSetup die k (64 * 2 ^ (i / 3)) (128 * 2 ^ (i % 3)) (ws.take 4) false (recordPos (ws.getD 4 0)) s
    .ok (s, .mx r)) s

end Sys2Proof.Machine
end

