-- ==== Sys2Proof/Machine/Headland.lean ====
section
/-! DEFINITION. The headland and loop instructions of H, 0x150 to 0x155 (12 R311, R317, R318). -/

namespace Sys2Proof.Machine

/-! ### Loop levels of a record (12 R311, R313) -/

/-- The level word of level j. -/
def lnrLevel (l : Lnr) (j : Nat) : Nat := fld (l.getD (j / 2) 0) (32 * (j % 2)) 32
/-- `EXT` of level j. -/
def lnrExt (l : Lnr) (j : Nat) : Nat := lnrLevel l j % 2 ^ 24
/-- Whether level j is distributed. -/
def lnrDist (l : Lnr) (j : Nat) : Bool := lnrLevel l j / 2 ^ 24 % 2 = 1
/-- `ORD` of level j. -/
def lnrOrd (l : Lnr) (j : Nat) : Nat := lnrLevel l j / 2 ^ 25 % 8
/-- `NLEV`. -/
def lnrNlev (l : Lnr) : Nat := fld (l.getD 3 0) 27 3
/-- `PCNT`. -/
def lnrPcnt (l : Lnr) : Nat := fld (l.getD 3 0) 32 16

/-- The used levels that are distributed, or local, in ascending `ORD`. -/
def lnrWalk (l : Lnr) (dist : Bool) : List Nat :=
  (List.range 6).flatMap fun o =>
    (List.range (min (lnrNlev l) 6)).filter fun j => lnrOrd l j = o && lnrDist l j == dist

/-- How many points a walk over levels has. -/
def walkSize (l : Lnr) (js : List Nat) : Nat := js.foldl (fun a j => a * lnrExt l j) 1

/-- The index at each level of a walk's point of an ordinal: the last level varies fastest. -/
def walkPoint (l : Lnr) : List Nat → Nat → List (Nat × Nat)
  | [], _ => []
  | j :: js, n => (j, n / walkSize l js % lnrExt l j) :: walkPoint l js n

/-- The ordinal of a point of a walk. -/
def walkOrdinal (l : Lnr) (ix : Nat → Nat) (js : List Nat) : Nat := js.foldl (fun a j => a * lnrExt l j + ix j) 0

/-! ### The instructions -/

namespace Forms

/-- `nest`. -/
def nest : Form := { strands := onH, dst := [.none] }
/-- `iter`. -/
def iter : Form := { strands := onH, dst := [.pred] }
/-- `pwait` and `pret`. -/
def permits : Form := { strands := onH, dst := [.none], a := .s }
/-- `lcnt` and `lcnt.ext`. -/
def lcnt : Form := { strands := onH, dst := [.scal], c := .sel 5, x := fun _ x => fld x 1 15 = 0 }
/-- `fsel` and `fsel.set`. -/
def fsel : Form :=
  { strands := onH, dst := [.none], c := .sel 5, x := fun _ x => fld x 1 3 = 0 && fld x 8 8 = 0,
    w := fun w => if bit w.x 0 then w.c.idx = 0#6 else fld w.x 4 4 = 0 }

end Forms

/-- `lc` of a level. -/
def Strand.lcOf (t : Strand) (j : Nat) : BitVec 32 := Tab.get 0 t.lc j

/-- The local walk set before its first point, with all permits (12 R317 `nest`). -/
def Strand.nest (t : Strand) (pcnt : Nat) : Strand := { t with walk := 0, permits := pcnt }

/-- `nest` (12 R317). -/
def execNest (w : StrandWord) (s : State) : Host.Outcome State Fault Refusal :=
  issue Forms.nest w (fun s => .ok (s.modMe fun t => t.nest s.myCore.pcnt)) s

/-- The ordinal of the local walk's next point, or none when it is exhausted (12 R318). -/
def nextLocal (t : Strand) (l : Lnr) : Option Nat :=
  let js := lnrWalk l false
  let n := if t.walk = 0 then 0 else walkOrdinal l (fun j => (t.lcOf j).toNat) js + 1
  if t.walk < 2 ∧ n < walkSize l js then some n else none

/-- `iter` (12 R318). -/
def execIter (w : StrandWord) (s : State) : Host.Outcome State Fault Refusal :=
  issue Forms.iter w (fun s => do
    let l := s.myCore.lnr
    match nextLocal s.me l with
    | none => .ok (s.modMe fun t => { t.setPred w.d.toNat false with walk := 2 })
    | some n =>
      orWait (decide (1 ≤ s.me.permits)) 5 0
      let lc := (walkPoint l (lnrWalk l false) n).foldl (fun a (j, i) => Tab.put a j (BitVec.ofNat 32 i)) s.me.lc
      .ok (s.modMe fun t => { t.setPred w.d.toNat true with walk := 1, permits := t.permits - 1, lc })) s

/-- `pwait` (12 R317): it consumes no permit. -/
def execPwait (w : StrandWord) (s : State) : Host.Outcome State Fault Refusal :=
  issue Forms.permits w (fun s => do
    let (k, s) ← capture Forms.permits id w s
    orWait (decide (zx (lo64 k.a) 16 ≤ s.me.permits)) 5 0
    .ok s) s

/-- `pret` (12 R317). -/
def execPret (w : StrandWord) (s : State) : Host.Outcome State Fault Refusal :=
  issue Forms.permits w (fun s => do
    let (k, s) ← capture Forms.permits id w s
    .ok (s.modMe fun t => { t with permits := min (t.permits + zx (lo64 k.a) 16) 65535 })) s

/-- What `lcnt` and `fsel` read at a level: zero at or above `NLEV` (12 R317). -/
def levelRead (s : State) (ext : Bool) (j : Nat) : Nat :=
  if lnrNlev s.myCore.lnr ≤ j then 0 else if ext then lnrExt s.myCore.lnr j else (s.me.lcOf j).toNat

/-- `lcnt` and `lcnt.ext` (12 R317). -/
def execLcnt (w : StrandWord) (s : State) : Host.Outcome State Fault Refusal :=
  issue Forms.lcnt w (fun s => landWord 0x154 1 w (BitVec.ofNat 64 (levelRead s (bit w.x 0) w.c.idx.toNat)) s) s

/-- `fsel` and `fsel.set`: `FTIX` changes at the end of the cycle (12 R317). -/
def execFsel (w : StrandWord) (s : State) : Host.Outcome State Fault Refusal :=
  issue Forms.fsel w (fun s =>
    let i := if bit w.x 0 then fld w.x 4 4 else levelRead s false w.c.idx.toNat % 16
    .ok (s.modMyCore fun c => { c with ftixNew := some i })) s

end Sys2Proof.Machine
end

