-- ==== Sys2Proof/Machine/Launch.lean ====
section
/-!
DEFINITION. The launch and event instructions, 0x156 to 0x159, what the scheduler does with a launch packet, and
command-list streams (12 R298 to R310, R319 to R321).
-/

namespace Sys2Proof.Machine

namespace Forms

/-- `launch` and `launch.nb`. -/
def launch : Form :=
  { strands := onHA, dst := [.scal, .none], a := .s, b := .s, x := fun n x => twm n x && fld x 0 3 = 0 && fld x 4 4 = 0 }
/-- `evsig`, `evwait`, `evclr`. -/
def event : Form := { strands := onHA, dst := [.none], a := .s, x := fun n x => twm n x && fld x 0 8 = 0 }
/-- `evwait.t`. -/
def eventTest : Form := { event with dst := [.pred] }

end Forms

/-! ### Events (12 R305 to R308, R319) -/

/-- The event an instruction names: 1 to 65,535, in a context whose events are usable. -/
def eventName (k : Caps) (s : State) : Except Stop Nat := do
  let a := (lo64 k.a).toNat
  need (decide (1 ≤ a) && decide (a ≤ 65535)) cIllegalOperand
  need (eventsOn s.myCtx) cAddressClass
  .ok a

/-- The executing strand's turn at an event (12 R307). -/
def serveEvent (n : Nat) (s : State) : Except Stop State := serve s.cur.die (thingEvent s.mySlot n) s.rank s

/-- `evsig`: a release (12 R308, R319). -/
def execEvsig (w : StrandWord) (s : State) : Host.Outcome State Fault Refusal :=
  issueTok Forms.event w (fun s => do
    let (k, s) ← capture Forms.event id w s
    let n ← eventName k s
    let s ← serveEvent n s
    setEvent s.cur.die s.mySlot n (release s)) s

/-- The executing strand's number among a die's waiters. -/
def waiterNum (s : State) : Nat := 8 * s.cur.core + s.cur.strand

/-- A strand that waits on an event waits on no other, and has observed no other. -/
def Ctx.waitOnly (c : Ctx) (n me : Nat) : Ctx :=
  if (c.evWait ++ c.evRing).any (fun w => decide (w.2 = (1, me)) && w.1 ≠ n) || c.evSeen.any fun x => decide (x.2 = me) && x.1 ≠ n then
    { c.dropWaiters fun m => m = me with evSeen := c.evSeen.filter fun x => x.2 ≠ me || x.1 = n }
  else c

/-- `evwait`: a strand that finds the event clear becomes a waiter, once there is room for it (12 R306, R319). -/
def execEvwait (w : StrandWord) (s : State) : Host.Outcome State Fault Refusal :=
  issueTok Forms.event w (fun s => do
    let (k, s) ← capture Forms.event id w s
    let n ← eventName k s
    let me := waiterNum s
    let s := s.modMyCtx fun c => c.waitOnly n me
    if s.myCtx.evSeen.contains (n, me) then
      .ok (acquire (s.modMyCtx fun c => { c with evSeen := c.evSeen.filter (· ≠ (n, me)) }))
    else
      let s ← serveEvent n s
      let (v, s) ← eventSet s s.cur.die s.mySlot n
      if v then .ok (acquire s)
      else if (s.myCtx.evWait ++ s.myCtx.evRing).contains (n, 1, me) then .error (.wait 10 0)
      else
        let s ← addWaiter s.cur.die s.mySlot (n, 1, me) s
        .ok { s with cur := { s.cur with hold := some (10, 0) } }) s

/-- `evwait.t` (12 R319). -/
def execEvwaitT (w : StrandWord) (s : State) : Host.Outcome State Fault Refusal :=
  issueTok Forms.eventTest w (fun s => do
    let (k, s) ← capture Forms.eventTest id w s
    let n ← eventName k s
    let s ← serveEvent n s
    let (v, s) ← eventSet s s.cur.die s.mySlot n
    let s := s.modMe fun t => t.setPred w.d.toNat v
    .ok (if v then acquire s else s)) s

/-- `evclr`: a release (12 R319). -/
def execEvclr (w : StrandWord) (s : State) : Host.Outcome State Fault Refusal :=
  issueTok Forms.event w (fun s => do
    let (k, s) ← capture Forms.event id w s
    let n ← eventName k s
    let s ← serveEvent n s
    eventWrite (release s) s.cur.die s.mySlot n false) s

/-! ### `launch` (12 R320) -/

/-- An access slot that appends a launch packet. -/
def accLaunch : Nat := 3

/-- The packet with its submitter; the sequence number is free (log 16). -/
def stampLaunch (p : Packet) (s : State) : Packet × State :=
  let (v, s) := s.takeFree
  ({ p with w7 := BitVec.ofNat 64 (dieIdentity s.cur.die % 8192 * 2 ^ 51 + s.cur.core % 128 * 2 ^ 44 + zx v 32) }, s)

/-- Address of the header of a context's launch queue in its die common aperture (12 R297). -/
def lqVa (c : Ctx) : Word := 0xFFF3000000000000 + BitVec.ofNat 64 (fld c.lqcfg 0 20 * 64)

/-- Append a packet to the launch queue of a context of this package. -/
def launchTo (nb : Bool) (w : StrandWord) (die slot : Nat) (p : Packet) (own : Bool) (s : State) : Eff :=
  match (s.ctx die slot).lq with
  | none => trapOf cAddressClass
  | some q =>
    let (p, s) := stampLaunch p (release s)
    match q.append p s with
    | none => if nb then landWord 0x156 1 w (BitVec.ofNat 64 (2 ^ 63)) s else .error (.wait 10 0)
    | some (i, s) =>
      let va := lqVa (s.ctx die slot)
      let hit := fun n (a : Word) s => watchRemote die slot s.cur.die s.cur.core a (List.replicate n true) s
      let s := if own then s else hit 64 (va + BitVec.ofNat 64 (64 + 64 * (i % q.size))) (hit 8 va s)
      landWord 0x156 1 w (BitVec.ofNat 64 i) s

/-- What a launch on another package's queue lands once it is answered: the index it claimed there, which is free, or
2^63 when it does not wait (log 4). -/
def launchAnswer (nb : Bool) (v : Vec) : Word :=
  if nb && bit v 64 then BitVec.ofNat 64 (2 ^ 63) else BitVec.ofNat 64 (zx v 32)

/-- `launch` (12 R320). -/
def execLaunch (w : StrandWord) (s : State) : Host.Outcome State Fault Refusal :=
  issueTok Forms.launch w (fun s => do
    let (k, s) ← capture Forms.launch id w s
    let a := lo64 k.a
    let nb := bit k.x 3
    need (a = 0 || (fld a 0 48 = 0 && fld a 48 16 ≠ 0)) cIllegalOperand
    if a = 0 then
      need s.myCtx.lq.isSome cAddressClass
      let (p, s) ← loadPacket (lo64 k.b) s
      keepLoaded (packetBytes p) s (launchTo nb w s.cur.die s.mySlot p true s)
    else
      let (x, s) ← winOf k 0 64 64 3 s
      if x.die < 8 then
        keyCheck s x
        need (s.ctx x.die x.slot).lq.isSome cAddressClass
        let (p, s) ← loadPacket (lo64 k.b) s
        keepLoaded (packetBytes p) s (launchTo nb w x.die x.slot p false s)
      else
        let (p, s) ← if s.me.pend.isSome then .ok (packet0, s) else loadPacket (lo64 k.b) s
        let (p, s) := stampLaunch p s
        ask (destQueue w) .access x.die (accessWords x accLaunch 64 3 (b2n nb) 0 0) (packetBytes p)
          (fun r s => landWord 0x156 1 w (launchAnswer nb r.val) s) (release s)) s

/-! ### Launch packets (12 R298 to R300, R311, R312) -/

/-- A packet as the scheduler takes it: for whom, its index or its stream's, its address, and whether a queue holds it. -/
structure LaunchIn where
  die : Nat
  slot : Nat
  idx : Nat
  va : Word
  queue : Bool
  stream : Option Nat := none
  p : Packet
  deriving DecidableEq, Repr

/-- The packet in hand. -/
def launchIn (s : State) : LaunchIn :=
  match s.cur.sub with
  | some b =>
    let x := s.ctx s.cur.die b.slot
    let n := 2 ^ fld x.lqcfg 58 5
    { die := s.cur.die, slot := b.slot, idx := b.index, va := lqVa x + BitVec.ofNat 64 (64 + 64 * (b.index % n)),
      queue := true, p := s.hand.packet }
  | none => { die := s.cur.die, slot := s.mySlot, idx := 0, va := 0, queue := false, p := s.hand.packet }

/-- `KIND` of a packet. -/
def launchKind (p : Packet) : Nat := fld p.w0 60 3
/-- `NDEP` of a packet. -/
def launchNdep (p : Packet) : Nat := fld p.w0 32 3
/-- The events a packet depends on. -/
def launchDeps (p : Packet) : List Nat := (List.range (min (launchNdep p) 4)).map fun j => fld p.w2 (16 * j) 16

/-- Step 1 of the take: no reserved field is set (12 R298, R300). -/
def launchOk (p : Packet) : Bool :=
  decide (launchKind p ≤ 2) && decide (launchNdep p ≤ 4) && (launchKind p = 2 || fld p.w0 56 4 = 0) &&
    fld p.w0 35 21 = 0 && fld p.w0 0 32 = 0 && p.w5 = 0 && p.w6 = 0 && fld p.w7 32 12 = 0 &&
    (launchDeps p).all (· ≠ 0) && ((List.range 4).all fun j => decide (j < launchNdep p) || fld p.w2 (16 * j) 16 = 0)

/-- Queue map bytes of a record. -/
def lnrQmap (l : Lnr) (q : Nat) : Nat := fld (l.getD (7 + q / 8) 0) (8 * (q % 8)) 8

/-- Whether a queue map byte is one a record may hold (12 R312). -/
def qmapOk (q m : Nat) : Bool :=
  let p := m / 16 % 8
  let c := m % 8
  decide (m / 128 = 0) && decide (m / 8 % 2 = 0) && p ≠ 6 && !(decide (c = 6) && decide (q < 8)) &&
    (decide (p = 7) == decide (c = 7)) && (p ≠ c || p = 7) && !(decide (q < 8) && (p = 0 || c = 0))

/-- The rules of 12 R311, each with the word of the record it judges. -/
def lnrChecks (l : Lnr) : List (Nat × Bool) :=
  let n := lnrNlev l
  let lv := fun j => decide (lnrLevel l j / 2 ^ 28 = 0) && (decide (j < n) || lnrLevel l j = 0)
  let ords := (List.range (min n 6)).map (lnrOrd l)
  let entry := fun k al => decide ((l.getD k 0).toNat % al = 0) && canonical (l.getD k 0)
  let map := fun k => (List.range 8).all fun i => qmapOk (8 * k + i) (lnrQmap l (8 * k + i))
  [(0, lv 0 && lv 1), (1, lv 2 && lv 3), (2, lv 4 && lv 5), (3, fld (l.getD 3 0) 0 27 = 0), (3, decide (1 ≤ n ∧ n ≤ 6)),
   (3, decide (1 ≤ lnrPcnt l)), (0, (List.range (min n 6)).all fun o => ords.contains o),
   (0, decide (walkSize l (List.range (min n 6)) ≤ 2 ^ 48)), (4, entry 4 8), (5, entry 5 8), (6, entry 6 32), (7, map 0),
   (8, map 1)] ++ [11, 12, 13, 14, 15].map fun k => (k, decide (l.getD k 0 = 0))

/-- Load n bytes as a load of the context (12 R300). -/
def ctxLoad (die slot : Nat) (va : Word) (n align : Nat) (s : State) : Except Stop (List Byte × State) := do
  if va.toNat % align ≠ 0 then trapAt cAlign va
  else readRun (engineAgent die slot) false va 0 n s

/-- Store bytes as a store of the context (12 R299). -/
def ctxStore (die slot : Nat) (va : Word) (align : Nat) (bs : List Byte) (s : State) : Eff := do
  let f ← locate s (engineAgent die slot) va bs.length align .wr false
  let bs := bs.map some
  if partialBad s f.place.key bs then trapAt cUncorrectable va
  else .ok ((keepFound s (engineAgent die slot) va f true).putBytes f.place.key bs)

/-- Append a scheduler fault record for a stop; a wait or absent memory goes on as it is (12 R304). -/
def recordStop (x : LaunchIn) (r : Eff) (s : State) : Eff :=
  match r with
  | .ok s => .ok s
  | .error (.trap c _ a) => .ok (schedFault x.die x.slot c x.idx a x.p.w0 s)
  | .error e => .error e

/-- Write the packet's status word (12 R299). -/
def launchStatus (x : LaunchIn) (stat : Nat) (cause : BitVec 8) (task : Nat) (s : State) : Eff :=
  if x.p.w4 = 0 then .ok s
  else
    recordStop x (ctxStore x.die x.slot x.p.w4 8
      (toBytes 8 (stat * 2 ^ 56 + cause.toNat * 2 ^ 32 + task)) s) s

/-- How a take ends: taken; entered, with dependences still to observe; or refused with a status and, for a fault, its cause and
address. -/
inductive Taken where
  | done
  | waits
  | refused (stat : Nat) (cause : BitVec 8) (addr : Word)
  deriving DecidableEq, Repr

/-- Refuse a packet: its status, and a fault record unless it is closing or its stream is busy (12 R299). A stream's
refused launch is recorded by the stream's stop (log 16). -/
def launchRefuse (x : LaunchIn) (stat : Nat) (cause : BitVec 8) (addr : Word) (s : State) : Except Stop (Taken × State) := do
  let s ← launchStatus x stat cause 0 s
  let s := if stat = 0x80 ∨ stat = 0x83 ∨ x.stream.isSome then s else schedFault x.die x.slot cause x.idx addr x.p.w0 s
  .ok (.refused stat cause addr, s)

/-- Step 2 of the take: the record and the format table of a task, or why the packet is refused (12 R300). -/
def launchRecord (x : LaunchIn) (s : State) : Except Stop (Except Taken (Lnr × List Byte) × State) :=
  let loads : Except Stop ((Lnr × List Byte) × State) := do
    let (bs, s) ← ctxLoad x.die x.slot x.p.w1 128 128 s
    let l := wordsOfBytes bs
    if l.getD 9 0 = 0 then .ok ((l, List.replicate 16 0x3F), s)
    else
      let (ft, s) ← ctxLoad x.die x.slot (l.getD 9 0) 16 1 s
      .ok ((l, ft), s)
  match loads with
  | .error (.trap c _ a) => .ok (.error (.refused 0x82 c a), s)
  | .error e => .error e
  | .ok ((l, ft), s) =>
    match (lnrChecks l).find? fun c => !c.2 with
    | some (k, _) => .ok (.error (.refused 0x81 cReservedField (x.p.w1 + BitVec.ofNat 64 (8 * k))), s)
    | none =>
      if !eventsOn (s.ctx x.die x.slot) && (launchNdep x.p ≠ 0 || fld (l.getD 3 0) 48 16 ≠ 0) then
        .ok (.error (.refused 0x82 cAddressClass x.va), s)
      else .ok (.ok (l, ft), s)

/-- The next task number: from 1 upward modulo 2^32, skipping 0 (12 R299). -/
def bumpTask (n : Nat) : Nat := if n + 1 < 2 ^ 32 then n + 1 else 1

/-- Update a task. -/
def modTask (die num : Nat) (f : Task → Task) (s : State) : State :=
  s.modDie die fun d => { d with tasks := d.tasks.map fun t => if t.num = num then f t else t }

/-- A task observes one of its dependences: one that is set is met, another waits, once a waiter of it has room (12 R306, R309).
Where the event cannot be read the fault is recorded, and the task stays as it is (log 16). -/
def observeDep (x : LaunchIn) (num : Nat) (s : State) (ev : Nat) : Except Stop State :=
  let seen := fun (met : Bool) (s : State) => modTask x.die num (fun t =>
    { t with unseen := t.unseen.drop 1, deps := if met then t.deps.erase ev else t.deps }) s
  match (do
    let (v, s) ← eventSet s x.die x.slot ev
    if v then .ok (seen true s) else (addWaiter x.die x.slot (ev, 0, num) s).map (seen false) : Except Stop State) with
  | .error (.trap c _ a) => .ok (seen false (schedFault x.die x.slot c x.idx a x.p.w0 s))
  | r => r

/-- A task observes its dependences one after the other, as far as there is room; with all of them met it is ready (12 R309). -/
def observeDeps (x : LaunchIn) (num : Nat) : List Nat → State → Except Stop State
  | [], s => .ok (modTask x.die num (fun t => { t with ready := if t.deps.isEmpty then some (s.die x.die).cyc else none }) s)
  | ev :: rest, s =>
    match observeDep x num s ev with
    | .ok s => observeDeps x num rest s
    | .error (.wait _ _) => .ok s
    | .error e => .error e

/-- The task of a packet that has been entered and still has dependences to observe. -/
def halfTaken (x : LaunchIn) (s : State) : Option Task :=
  (s.die x.die).tasks.find? fun t => decide (t.slot = x.slot) && decide (t.stream = x.stream) && !t.unseen.isEmpty

/-- A packet's task observes what it still has to: while there is no room for a waiter the packet waits (12 R306). -/
def observeTask (x : LaunchIn) (num : Nat) (deps : List Nat) (s : State) : Except Stop (Taken × State) :=
  (observeDeps x num deps s).map fun s => (if (halfTaken x s).isSome then .waits else .done, s)

/-- Take a task packet (12 R300, R309): its record is checked, its status word written, and the task entered. -/
def takeTask (x : LaunchIn) (s : State) : Except Stop (Taken × State) := do
  match halfTaken x s with
  | some t => observeTask x t.num t.unseen s
  | none =>
    let (r, s) ← launchRecord x s
    match r with
    | .error (.refused st c a) => launchRefuse x st c a s
    | .error e => .ok (e, s)
    | .ok (l, ft) =>
      let num := (s.die x.die).nextTask
      let s ← launchStatus x 0x01 0 num s
      let deps := launchDeps x.p
      let t : Task :=
        { num, slot := x.slot, lnr := l, ftab := ft, arg := if x.p.w3 = 0 then l.getD 10 0 else x.p.w3, deps, unseen := deps,
          total := walkSize l (lnrWalk l true), stream := x.stream, idx := x.idx }
      observeTask x num deps (s.modDie x.die fun d => { d with tasks := d.tasks ++ [t], nextTask := bumpTask num })

/-- A stream of a die. -/
def State.strm (s : State) (die n : Nat) : Stream := Tab.get {} (s.die die).streams n

/-- Update a stream. -/
def modStrm (die n : Nat) (f : Stream → Stream) (s : State) : State :=
  s.modDie die fun d => { d with streams := Tab.put d.streams n (f (Tab.get {} d.streams n)) }

/-- Take a packet that starts a stream (12 R300, R302). -/
def takeStream (x : LaunchIn) (s : State) : Except Stop (Taken × State) := do
  let n := fld x.p.w0 56 4
  if (s.strm x.die n).busy then launchRefuse x 0x83 0 0 s
  else
    let s ← launchStatus x 0x01 0 0 s
    let s := s.modDie x.die fun d =>
      { d with tasks := d.tasks.map fun t => if t.stream = some n then { t with stream := none } else t }
    .ok (.done, modStrm x.die n (fun _ => { busy := true, slot := x.slot, next := x.p.w1, w0 := x.p.w0 }) s)

/-- The take of a packet (12 R300, R321): in one cycle a context's teardown comes before it. -/
def takePacket (x : LaunchIn) (s : State) : Except Stop (Taken × State) := do
  let s ← serve x.die (thingLaunch x.slot) 2 s
  if (s.ctx x.die x.slot).state = 7 then launchRefuse x 0x80 0 0 s
  else if !launchOk x.p then launchRefuse x 0x81 cReservedField x.va s
  else if launchKind x.p = 0 then do
    let s ← launchStatus x 0x01 0 0 s
    .ok (.done, s)
  else if launchKind x.p = 1 then takeTask x s
  else takeStream x s

/-- The scheduler takes the packet in hand and retires its slot; a packet that must wait stays (12 R297, R300). -/
def launchStep (s : State) : Host.Outcome State Fault Refusal :=
  let x := launchIn s
  match takePacket x s with
  | .ok (.waits, s) => act s
  | .ok (_, s) => act (if x.queue then retireLq x.die x.slot s else s)
  | .error .absent => .fault .absentMemory
  | .error _ => stay s

/-- A no-op packet is taken and retired (12 R300). -/
def execLaunchPacketNoop (s : State) : Host.Outcome State Fault Refusal := launchStep s
/-- A task packet is taken (12 R300). -/
def execLaunchPacketTask (s : State) : Host.Outcome State Fault Refusal := launchStep s
/-- A packet that starts a stream is taken (12 R300). -/
def execLaunchPacketStream (s : State) : Host.Outcome State Fault Refusal := launchStep s

/-! ### Streams (12 R301 to R304) -/

/-- The stream that acts. -/
def streamNum (s : State) : Nat := s.cur.unit % 16

/-- A stream stops: its fault record is appended, the supervisor notified, and it becomes idle; its tasks run on
(12 R303; 17 R433). -/
def streamStop (die n : Nat) (cause : BitVec 8) (addr : Word) (s : State) : State :=
  let t := s.strm die n
  let s := modStrm die n (fun _ => {}) (schedFault die t.slot cause (2 ^ 31 + n) addr t.w0 s)
  notify die 0 cause agentScheduler 63 t.slot (BitVec.ofNat 64 (2 ^ 31 + n)) addr s

/-- Whether an entry sets no reserved field; `addr` says that the operation has an address operand (12 R301). -/
def entryOk (e : StreamEntry) (addr : Bool) : Bool := fld e.w0 32 24 = 0 && (addr || e.w1 = 0)

/-- The stream goes on at an address. -/
def streamGo (va : Word) (s : State) : State := modStrm s.cur.die (streamNum s) (fun t => { t with next := va }) s

/-- The address after the entry the stream stands at. -/
def streamAfter (s : State) : Word := (s.strm s.cur.die (streamNum s)).next + 16

/-- Execute the entry in hand: a stop of its effect stops the stream, and a wait leaves it where it stands. An idle
stream executes nothing. -/
def streamStep (ok : Bool) (eff : State → Eff) (s : State) : Host.Outcome State Fault Refusal :=
  let n := streamNum s
  let t := s.strm s.cur.die n
  if !t.busy then stay s
  else if !ok then act (streamStop s.cur.die n cReservedField t.next s)
  else
    match eff s with
    | .ok s => act s
    | .error (.trap c _ a) => act (streamStop s.cur.die n c (if a = 0 then t.next else a) s)
    | .error .absent => .fault .absentMemory
    | .error (.wait _ _) => stay s

/-- `end` (12 R302). -/
def execStreamEnd (s : State) : Host.Outcome State Fault Refusal :=
  streamStep (entryOk s.hand.entry false) (fun s => .ok (modStrm s.cur.die (streamNum s) (fun _ => {}) s)) s

/-- `launch`: the packet at `ADDR` is handled as one just taken; a kind other than 1 stops the stream, and so does a refusal of
0x81 or 0x82 (12 R302, R303). -/
def execStreamLaunch (s : State) : Host.Outcome State Fault Refusal :=
  streamStep (entryOk s.hand.entry true) (fun s => do
    let n := streamNum s
    let die := s.cur.die
    let slot := (s.strm die n).slot
    let (bs, s) ← ctxLoad die slot s.hand.entry.w1 64 64 s
    let p := packetOf (wordsOfBytes bs)
    let x : LaunchIn := { die, slot, idx := 2 ^ 31 + n, va := s.hand.entry.w1, queue := false, stream := some n, p }
    if launchKind p ≠ 1 then trapAt cReservedField x.va
    else
      let (r, s) ← takePacket x s
      match r with
      | .refused 0x81 c a => .ok (streamStop die n c a s)
      | .refused 0x82 c a => .ok (streamStop die n c a s)
      | .waits => .ok s
      | _ => .ok (streamGo (streamAfter s) s)) s

/-- The event an entry names (12 R301). -/
def entryEvent (s : State) : Except Stop Nat := do
  let n := fld s.hand.entry.w0 0 16
  need (decide (1 ≤ n)) cIllegalOperand
  need (eventsOn (s.ctx s.cur.die (s.strm s.cur.die (streamNum s)).slot)) cAddressClass
  .ok n

/-- `wait`: a stream that finds the event clear becomes a waiter (12 R302, R306). -/
def execStreamWait (s : State) : Host.Outcome State Fault Refusal :=
  streamStep (entryOk s.hand.entry false && fld s.hand.entry.w0 16 16 = 0) (fun s => do
    let ev ← entryEvent s
    let n := streamNum s
    let die := s.cur.die
    let slot := (s.strm die n).slot
    let s ← serve die (thingEvent slot ev) (rankEngine n) s
    let (v, s) ← eventSet s die slot ev
    let s := streamGo (streamAfter s) s
    if v then .ok s
    else
      let s ← addWaiter die slot (ev, 2, n) s
      .ok (modStrm die n (fun t => { t with waitEv := some ev }) s)) s

/-- `sig` (12 R302). -/
def execStreamSig (s : State) : Host.Outcome State Fault Refusal :=
  streamStep (entryOk s.hand.entry false && fld s.hand.entry.w0 16 16 = 0) (fun s => do
    let ev ← entryEvent s
    let slot := (s.strm s.cur.die (streamNum s)).slot
    let s ← serve s.cur.die (thingEvent slot ev) (rankEngine (streamNum s)) s
    setEvent s.cur.die slot ev (streamGo (streamAfter s) s)) s

/-- A comparison condition 0 to 5, unsigned (12 R302). -/
def streamCond (cc a b : Nat) : Bool :=
  match cc with
  | 0 => a = b | 1 => a ≠ b | 2 => decide (a < b) | 3 => decide (a ≤ b) | 4 => decide (b < a) | _ => decide (b ≤ a)

/-- `skip` (12 R302). -/
def execStreamSkip (s : State) : Host.Outcome State Fault Refusal :=
  let e := s.hand.entry
  streamStep (entryOk e true && decide (fld e.w0 57 3 ≤ 5)) (fun s => do
    let n := if bit e.w0 56 then 8 else 4
    let (bs, s) ← ctxLoad s.cur.die (s.strm s.cur.die (streamNum s)).slot e.w1 n n s
    let skip := streamCond (fld e.w0 57 3) (ofBytes bs) (fld e.w0 0 32)
    .ok (streamGo (streamAfter s + (if skip then 16 else 0)) s)) s

/-- An address an entry goes on at: a multiple of 16 (12 R301, R303). -/
def entryTarget (e : StreamEntry) : Except Stop Word := if e.w1.toNat % 16 = 0 then .ok e.w1 else trapAt cAlign e.w1

/-- `jump` (12 R302). -/
def execStreamJump (s : State) : Host.Outcome State Fault Refusal :=
  streamStep (entryOk s.hand.entry true) (fun s => do
    let va ← entryTarget s.hand.entry
    .ok (streamGo va s)) s

/-- The stop of a stream for its return stack: the spec names no cause, and the record's is a free one of those that are raised (12
R303; 03 R80, R81; log 16). -/
def stackStop (s : State) : State :=
  let (v, s) := s.takeFree
  let n := streamNum s
  streamStop s.cur.die n (raisedCause v) (s.strm s.cur.die n).next s

/-- `call` (12 R302, R303). -/
def execStreamCall (s : State) : Host.Outcome State Fault Refusal :=
  streamStep (entryOk s.hand.entry true) (fun s => do
    let t := s.strm s.cur.die (streamNum s)
    if 4 ≤ t.stack.length then .ok (stackStop s)
    else
      let va ← entryTarget s.hand.entry
      .ok (modStrm s.cur.die (streamNum s) (fun t => { t with next := va, stack := (t.next + 16) :: t.stack }) s)) s

/-- `ret` (12 R302, R303). -/
def execStreamRet (s : State) : Host.Outcome State Fault Refusal :=
  streamStep (entryOk s.hand.entry false) (fun s =>
    match (s.strm s.cur.die (streamNum s)).stack with
    | [] => .ok (stackStop s)
    | va :: rest => .ok (modStrm s.cur.die (streamNum s) (fun t => { t with next := va, stack := rest }) s)) s

/-- `fence`: every task the stream launched has completed (12 R302). -/
def execStreamFence (s : State) : Host.Outcome State Fault Refusal :=
  streamStep (entryOk s.hand.entry false) (fun s =>
    let n := streamNum s
    if (s.die s.cur.die).tasks.any fun t => t.stream = some n then .error (.wait 10 0)
    else .ok (streamGo (streamAfter s) s)) s

end Sys2Proof.Machine
end

