-- ==== Sys2Proof/Machine/Rotation.lean ====
section
/-!
DEFINITION. The rotation of a die, switches of a core between contexts, and iterations starting on cores (12 R309 to
R316; 04 R102).
-/

namespace Sys2Proof.Machine

/-! ### Groups (12 R315, R316) -/

/-- `LEN` of a rotation entry: entry 63 reads 0 as 1. -/
def roteLen (r : Tab Word) (i : Nat) : Nat :=
  let l := fld (Tab.get 0 r i) 32 16
  if i = 63 ∧ l = 0 then 1 else l

/-- Whether an entry of a rotation counts: its `V` is set and its context has not been stopped (15 R380). -/
def roteOn (d : Die) (r : Tab Word) (i : Nat) : Bool :=
  bit (Tab.get 0#64 r i) 63 && decide ((Tab.get ({} : Ctx) d.ctxs (fld (Tab.get 0#64 r i) 59 4)).state < 2)

/-- The valid entries in index order. -/
def roteValid (d : Die) (r : Tab Word) : List Nat := (List.range 64).filter (roteOn d r)

/-- The entries up to and with the first whose length is not 0. -/
def takeGroup (r : Tab Word) : List Nat → List Nat
  | [] => []
  | i :: is => if roteLen r i ≠ 0 then [i] else i :: takeGroup r is

/-- The group after the one that ends with an entry, and its length in units of 256 cycles. -/
def nextGroup (d : Die) (r : Tab Word) (last : Option Nat) : List Nat × Nat :=
  let v := roteValid d r
  if v.all fun i => roteLen r i = 0 then (v, if v.isEmpty then 0 else 1)
  else
    let later := match last with
      | some l => v.filter fun i => l < i
      | none => v
    let g := takeGroup r (later ++ v.filter fun i => !later.contains i)
    (g, roteLen r (g.getLast?.getD 0))

/-- The context a core belongs to in the current group (12 R316). -/
def coreOwner (d : Die) (core : Nat) : Option Nat :=
  let named := d.group.filter fun i => roteOn d d.rote i && bit (Tab.get 0#64 d.rote i) (core / 8)
  (named.foldl (fun a i => match a with | none => some i | some j => some (min i j)) none).map fun i =>
    fld (Tab.get 0 d.rote i) 59 4

/-- What stands for no context in a pending switch. -/
def noContext : Nat := 16

/-- A strand as it goes on when its context next runs. -/
def Strand.switchIn (t : Strand) : Strand := if t.run = .parked then { t with run := .running } else t

/-- Map every strand of a core. -/
def Core.mapStrands (c : Core) (f : Strand → Strand) : Core := (List.range 6).foldl (fun c n => c.modStrand n f) c

/-- A core whose context is not the one the current group gives it has a switch pending, unless it holds a frame
or is stepped (04 R102, 12 R316, 16 R403). Where a group gives the core back before the switch has taken place, no switch is
pending any more, its context runs on, and strands that had parked go on (04 R102). -/
def checkSwitch (die core : Nat) (s : State) : State :=
  let c := s.core die core
  let o := coreOwner (s.die die) core
  if c.frame.isSome || c.stepCyc.isSome then s
  else s.modCore die core fun c =>
    if c.home = o then { c.mapStrands Strand.switchIn with incoming := none } else { c with incoming := some (o.getD noContext) }

/-- `ROTATION_GROUP_END`: the group's time is over, the written entries take effect, and the next group begins (12
R316). -/
def execRotationGroupEnd (s : State) : Host.Outcome State Fault Refusal :=
  let die := s.cur.die
  let d := s.die die
  if d.groupLeft ≠ 0 || !d.booted then stay s
  else
    let (g, len) := nextGroup d d.roteNew d.group.getLast?
    let s := s.modDie die fun d => { d with rote := d.roteNew, group := g, groupLeft := 256 * len }
    act ((List.range 128).foldl (fun s n => checkSwitch die n s) s)

/-! ### The switch (04 R102) -/

/-- The entries of a register file that a live set keeps. -/
def keepLive {α : Type} (t : Tab α) (m : Nat) : Tab α := t.filter fun x => m.testBit x.1

/-- A strand as a switch leaves it: what always survives, and the registers marked live. -/
def Strand.switchOut (t : Strand) : Strand :=
  { t with
    regs := keepLive t.regs t.live.s.toNat, preds := t.preds &&& t.live.p, masks := keepLive t.masks t.live.m.toNat,
    vregs := keepLive t.vregs t.live.v.toNat, ctxsel := 0 }

/-- Whether a strand stands where a switch may take place. One that is blocked outside any segment is not marked parked: what
it waits for may let it go on before the switch takes place (04 R102; log 17). -/
def Strand.atPark (t : Strand) : Bool :=
  match t.run with
  | .parked => true
  | .done => true
  | .idle => true
  | .blocked _ _ => t.seg.isNone && t.pend.isNone
  | _ => false

/-- Whether a core's pending switch can take place: all six strands parked and every landing complete. -/
def Core.switchReady (c : Core) : Bool :=
  c.frame.isNone && c.due.isNone && c.flights.isEmpty && c.late.isEmpty && c.lateBanks.isEmpty && c.gdSet.isEmpty &&
    c.sbSet = 0 && c.sbClr = 0 && (List.range 6).all fun n => (c.strand n).atPark

/-- What belongs to the core itself and not to its context. -/
def Core.keepOwn (new old : Core) : Core :=
  { new with freeFrom := old.freeFrom, port := old.port, grant := old.grant, ilines := old.ilines, brk := old.brk, landed := old.landed,
             incoming := none, l1 := [], dlk := 0, stepCyc := none }

/-- `ROTATION_SWITCH`: a core goes from its context to the one its pending switch names (04 R102). -/
def execRotationSwitch (s : State) : Host.Outcome State Fault Refusal :=
  let die := s.cur.die
  let n := s.cur.core
  let c := s.core die n
  match c.incoming with
  | none => stay s
  | some y =>
    if !c.switchReady || (postsOut s die n 1 && !(c.strand 1).held.isEmpty) then stay s
    else
      let s := drainHeld die n 1 (drainHeld die n 0 s)
      let c := s.core die n
      let s := match c.home with
        | some x => s.modDie die fun d => { d with parked := Tab.put d.parked (16 * n + x) (c.mapStrands Strand.switchOut) }
        | none => s
      let new : Core := if y < 16 then { Tab.get ({} : Core) (s.die die).parked (16 * n + y) with home := some y } else ({} : Core)
      let s := if y < 16 then s.modDie die fun d => { d with parked := d.parked.filter fun x => x.1 ≠ 16 * n + y } else s
      act (s.modCore die n fun c => { (new.mapStrands Strand.switchIn).keepOwn c with freeFrom := (s.die die).cyc + 1 })

/-! ### Iterations (12 R309, R313, R314) -/

/-- Whether a core is free for a context (12 R313). -/
def coreFree (d : Die) (slot n : Nat) : Bool :=
  let c := Tab.get ({} : Core) d.cores n
  coreOwner d n = some slot && c.home = some slot && c.iter.isNone && c.incoming.isNone && decide (c.freeFrom ≤ d.cyc)

/-- Whether one ready task is chosen before another: by `PRI`, ready time, number (12 R309). -/
def taskBefore (a b : Task) : Bool :=
  let pa := fld (a.lnr.getD 3 0) 30 2
  let pb := fld (b.lnr.getD 3 0) 30 2
  decide (pb < pa) || (pa = pb && (decide (a.ready.getD 0 < b.ready.getD 0) ||
    (a.ready = b.ready && decide (a.num < b.num))))

/-- The task a context's dispatcher hands out of: the one it has started, else the best that is ready (12 R309). -/
def pickTask (d : Die) (slot : Nat) : Option Task :=
  let mine := d.tasks.filter fun t => t.slot = slot
  match mine.find? fun t => t.started && decide (t.next < t.total) with
  | some t => some t
  | none =>
    (mine.filter fun t => !t.started && t.ready.isSome).foldl (fun a t =>
      match a with
      | none => some t
      | some b => if taskBefore t b then some t else some b) none

/-- A core's state at the first iteration of a task on it (02 R42 to R44; 04 R94, R98; 09 R226; 12 R314). -/
def Core.startTask (c : Core) (t : Task) : Core :=
  { c with
    strands := [], queues := [], sbVal := 0, sbArr := [], sbTgt := [], sbSet := 0, sbClr := 0,
    ftab := t.ftab.zipIdx.map fun (b, i) => (i, b),
    qmap := (List.range 16).map fun q => (q, BitVec.ofNat 8 (lnrQmap t.lnr q)),
    lnr := t.lnr, pcnt := lnrPcnt t.lnr, lastTask := t.num }

/-- A strand's preloads at an iteration start (12 R314). -/
def Strand.preload (t : Strand) (index : List Nat) (ordinal : Nat) (arg pc : Word) (ready pcnt : Nat) : Strand :=
  let t := (List.range 6).foldl (fun t j => t.setSreg (20 + j) (BitVec.ofNat 64 (index.getD j 0))) t
  let t := (t.setSreg 26 (BitVec.ofNat 64 ordinal)).setSreg 27 arg
  { t.nest pcnt with pc, run := .running, ready, rpt := {}, seg := none, teams := [], handler := false, pend := none }

/-- Entry point of a strand (12 R311). -/
def entryPc (l : Lnr) (n : Nat) : Word := l.getD (if n = 0 then 4 else if n = 1 then 5 else 6) 0

/-- Start an iteration of a task on a core (12 R314). -/
def startIteration (die n : Nat) (t : Task) (s : State) : State :=
  let js := lnrWalk t.lnr true
  let pt := walkPoint t.lnr js t.next
  let index := (List.range 6).map fun j => Tab.get 0 pt j
  let cyc := (s.die die).cyc
  let s := drainHeld die n 1 (drainHeld die n 0 s)
  let s := s.modCtx die t.slot fun c => { c with evSeen := c.evSeen.filter fun x => x.2 / 8 ≠ n }
  let s := s.modCore die n fun c =>
    let c := if c.lastTask = t.num then c else c.startTask t
    let c := { c with iter := some { slot := t.slot, task := t.num, ordinal := t.next, index }, lock := true, ftix := 0,
                      ftixNew := none, l1 := [], dlk := 0 }
    (List.range 6).foldl (fun c k => c.modStrand k fun x =>
      x.preload index t.next t.arg (entryPc t.lnr k) (cyc + 1) (lnrPcnt t.lnr)) c
  s.modDie die fun d =>
    { d with tasks := d.tasks.map fun x => if x.num = t.num then { x with started := true, next := x.next + 1 } else x }

/-- `ITERATION_START`: the dispatcher of the context of slot a hands out one iteration to the lowest-numbered free core;
a task whose walk has no points completes when it starts (12 R309, R310, R313, R314). -/
def execIterationStart (s : State) : Host.Outcome State Fault Refusal :=
  let die := s.cur.die
  let slot := s.hand.ev.a.toNat % 16
  let d := s.die die
  if !enginesRun (s.ctx die slot) then stay s
  else
    match pickTask d slot with
    | none => stay s
    | some t =>
      if t.total = 0 then act (completeTask die t s)
      else
        match (List.range 128).find? fun n => coreFree d slot n with
        | none => stay s
        | some n => act (startIteration die n t s)

end Sys2Proof.Machine
end

