-- ==== Sys2Proof/Machine/Trap.lean ====
section
/-!
DEFINITION. The trap frame as words, `rett`, and the trap instructions 0x1A0 to 0x1A3 (15 R365 to R372); the events in
which a core takes a trap that is due (15 R365, R383; 04 R99).
-/

namespace Sys2Proof.Machine

namespace Forms

/-- `trap` (15 R370). -/
def trap : Form := { strands := onHAE, dst := [.none], x := anyX }
/-- `rett` (15 R370). -/
def rett : Form := { strands := onHAE, dst := [.none] }
/-- `rpli` (15 R370). -/
def rpli : Form := { strands := onA, dst := [.scal], a := .s }
/-- `rplr` (15 R370). -/
def rplr : Form := { strands := onA, dst := [.none], a := .s, b := .s }

end Forms

/-! ### Frame words (15 R368, R369) -/

/-- Word w of a replay entry. -/
def Flight.word (f : Flight) (c : Core) (w : Nat) : Word :=
  let piece := fun (v : Vec) => v.extractLsb' (64 * (w % 16)) 64
  let push := match destQueue f.w with
    | some q => c.consumer q ≠ 6
    | none => false
  match w / 16 with
  | 0 =>
    if w = 0 then
      BitVec.ofNat 64 (2 ^ 63 + b2n push * 2 ^ 62 + (f.strand - 2) % 4 * 2 ^ 60 + f.due % 32 * 2 ^ 55 + f.caps.mask.toNat)
    else if w = 1 then strandWordBits f.op f.w
    else if w = 2 then f.ipc
    else 0
  | 1 => piece f.caps.a
  | 2 => piece f.caps.b
  | 3 => piece f.caps.c
  | 4 => piece f.caps.d
  | _ => 0

/-- A frame word: an index not listed reads 0. -/
def Frame.word (f : Frame) (c : Core) (i : Nat) : Word :=
  let at_ := fun (t : Tab Word) (n : Nat) => Tab.get 0 t n
  if 256 ≤ i then
    match f.replay[(i - 256) / 128]? with
    | some e => e.word c ((i - 256) % 128)
    | none => 0
  else if 8 ≤ i ∧ i ≤ 13 then at_ f.tpc (i - 8)
  else if 16 ≤ i ∧ i ≤ 21 then at_ f.wait (i - 16)
  else if 24 ≤ i ∧ i ≤ 29 then at_ f.rpt (i - 24)
  else if 40 ≤ i ∧ i ≤ 47 then at_ f.teams (i - 40)
  else
    match i with
    | 0 => f.tcause
    | 1 => f.info
    | 2 => f.addr
    | 3 => BitVec.ofNat 64 (f.scnd.toNat * 2 ^ 56)
    | 4 => f.s28
    | 5 => f.s29
    | 14 => BitVec.ofNat 64 (b2n f.lock)
    | 32 => f.qocc.1
    | 33 => f.qocc.2
    | 36 => f.sb.1
    | 37 => f.sb.2
    | 63 => BitVec.ofNat 64 f.replay.length
    | _ => 0

/-- A vector with its 64-bit word n replaced. -/
def setPiece (v : Vec) (n : Nat) (x : Word) : Vec := setFld v (64 * n) 64 x.toNat

/-- Write word w of a replay entry; none when it may not be written so (15 R369, R370). -/
def Flight.setWord (f : Flight) (w : Nat) (v : Word) : Option Flight :=
  let k := f.caps
  match w / 16 with
  | 0 =>
    let r := fld v 55 5
    if w = 0 ∧ 1 ≤ r ∧ r ≤ 20 then some { f with due := r, caps := { k with mask := v.extractLsb' 0 32 } } else none
  | 1 => some { f with caps := { k with a := setPiece k.a (w % 16) v } }
  | 2 => some { f with caps := { k with b := setPiece k.b (w % 16) v } }
  | 3 => some { f with caps := { k with c := setPiece k.c (w % 16) v } }
  | 4 => some { f with caps := { k with d := setPiece k.d (w % 16) v } }
  | _ => none

/-- Write a frame word; none when `rplr` refuses it (15 R368, R370; 03 R81). -/
def Frame.setWord (f : Frame) (i : Nat) (v : Word) : Option Frame :=
  if 256 ≤ i then
    let e := (i - 256) / 128
    match f.replay[e]? with
    | none => none
    | some x => (x.setWord ((i - 256) % 128) v).map fun y => { f with replay := f.replay.set e y }
  else if 8 ≤ i ∧ i ≤ 13 then
    if v.toNat % (if 10 ≤ i ∧ f.lock then 32 else 8) = 0 then some { f with tpc := Tab.put f.tpc (i - 8) v } else none
  else
    match i with
    | 0 => if causeWritable (fld v 56 8) then some { f with cause := v.extractLsb' 56 8 } else none
    | 1 => some { f with info := v }
    | 2 => some { f with addr := v }
    | 4 => some { f with s28 := v }
    | 5 => some { f with s29 := v }
    | _ => none

/-- The last frame word. -/
def frameTop : Nat := 10495

/-- Whether an index names a replay entry the frame does not hold. -/
def Frame.beyond (f : Frame) (i : Nat) : Bool := decide (256 ≤ i) && decide (f.replay.length ≤ (i - 256) / 128)

/-! ### Resuming (15 R371, R382) -/

/-- The repeat state of a `TRPT` word (15 R368). -/
def rptOfWord (w : Word) : Rpt :=
  if bit w 63 then { active := true, n := fld w 54 9 + 1, pos := fld w 45 9, left := fld w 0 32 } else {}

/-- A strand as a frame resumes it from cycle u. -/
def Strand.resume (t : Strand) (f : Frame) (n u : Nat) : Strand :=
  { t with
    pc := Tab.get 0 f.tpc n, rpt := rptOfWord (Tab.get 0 f.rpt n), ready := u, handler := false,
    run := if t.run = .idle then .idle else if fld (Tab.get 0 f.wait n) 60 4 = 7 then .done else .running }

/-- The strand and unit that a frame resumes once without its own check (16 R393). -/
def Frame.skipOf (f : Frame) : Option (Nat × Word) :=
  if f.skip ∧ f.strd < 6 then some (f.strd, Tab.get 0 f.tpc f.strd) else none

/-- A core resumes from its frame, its strands issuing from cycle u (15 R371). -/
def Core.resume (c : Core) (u : Nat) : Core :=
  match c.frame with
  | none => c
  | some f =>
    let c := if (c.strand 1).handler then c.modStrand 1 fun a => (a.setSreg 28 f.s28).setSreg 29 f.s29 else c
    let c := { c with
      lock := f.lock, sbVal := f.sb.1.setWidth 16,
      sbArr := (List.range 16).foldl (fun t n => Tab.put t n (f.sb.2.extractLsb' (4 * n) 4)) c.sbArr,
      flights := c.flights ++ f.replay.map fun e => { e with due := u + e.due - 1 },
      frame := none, hStopBy := none, brkSkip := f.skipOf.orElse fun _ => c.brkSkip, dlk := 0 }
    (List.range 6).foldl (fun c n => c.modStrand n fun t => t.resume f n u) c

/-- A core resumes in the next cycle; a switch that its frame held back becomes pending (15 R371, 04 R102). -/
def resumeCore (die core : Nat) (s : State) : State :=
  checkSwitch die core (s.modCore die core fun c => c.resume ((s.die die).cyc + 1))

/-! ### The instructions (15 R370) -/

/-- A unit that traps in the cycle after it is performed; of several words of one bundle the first one's trap stands. -/
def trapAfter (cause : BitVec 8) (info : Word) (s : State) : State :=
  { s with cur := { s.cur with after := some (s.cur.after.getD (s.cur.strand, cause, info)) } }

/-- `trap` (15 R370). -/
def execTrap (w : StrandWord) (s : State) : Host.Outcome State Fault Refusal :=
  issue Forms.trap w (fun s => .ok (trapAfter cSoftwareTrap (w.x.setWidth 64) s)) s

/-- The frame that the executing strand handles; only A in handler mode has one (15 R370). -/
def myFrame (s : State) : Except Stop Frame :=
  match s.myCore.frame with
  | some f => if s.cur.strand = 1 ∧ s.me.handler then .ok f else trapOf cIllegalOperand
  | none => trapOf cIllegalOperand

/-- `rett` (15 R371). -/
def execRett (w : StrandWord) (s : State) : Host.Outcome State Fault Refusal :=
  issue Forms.rett w (fun s => do
    let _ ← myFrame s
    .ok { resumeCore s.cur.die s.cur.core s with cur := { s.cur with whole := true } }) s

/-- `rpli` (15 R370). -/
def execRpli (w : StrandWord) (s : State) : Host.Outcome State Fault Refusal :=
  issue Forms.rpli w (fun s => do
    let f ← myFrame s
    let (k, s) ← capture Forms.rpli id w s
    let i := zx k.a 16
    need (decide (i ≤ frameTop) && !f.beyond i) cIllegalOperand
    landWord 0x1A2 1 w (f.word s.myCore i) s) s

/-- `rplr` (15 R370). -/
def execRplr (w : StrandWord) (s : State) : Host.Outcome State Fault Refusal :=
  issue Forms.rplr w (fun s => do
    let f ← myFrame s
    let (k, s) ← capture Forms.rplr id w s
    let i := zx k.a 16
    need (decide (i ≤ frameTop)) cIllegalOperand
    match f.setWord i (lo64 k.b) with
    | none => trapOf cIllegalOperand
    | some f => .ok (s.modMyCore fun c => { c with frame := some f })) s

/-! ### Events -/

/-- Whether a core's due trap can be taken now. -/
def dueNow (s : State) : Bool :=
  match s.myCore.due with
  | some d => decide (d.t ≤ s.cyc) && (s.myCore.strand 1).pend.isNone
  | none => false

/-- Take the due trap of the core of the unit number when it has a cause. -/
def takeCause (p : BitVec 8 → Bool) (s : State) : Host.Outcome State Fault Refusal :=
  match s.myCore.due with
  | some d => if dueNow s && p d.cause then act (takeDue s.cur.die s.cur.core s) else stay s
  | none => stay s

/-- `TRAP_ENTRY`: the core of the unit number takes the trap that is due (15 R365). -/
def execTrapEntry (s : State) : Host.Outcome State Fault Refusal := takeCause (fun _ => true) s

/-- `QUEUE_DEADLOCK`: the trap of a core that can never proceed is taken (04 R99). -/
def execQueueDeadlock (s : State) : Host.Outcome State Fault Refusal := takeCause (fun c => c = cQueueDeadlock) s

/-- `SEGMENT_OVERRUN`: the trap of a segment at eight times its cost is taken (15 R383). -/
def execSegmentOverrun (s : State) : Host.Outcome State Fault Refusal := takeCause (fun c => c = cSegmentOverrun) s

/-- `SEGMENT_OVERRUN_TWICE`: a segment at twice its cost is recorded (15 R383). -/
def execSegmentOverrunTwice (s : State) : Host.Outcome State Fault Refusal :=
  if (List.range 6).any fun n =>
      match (s.myCore.strand n).seg with
      | some g => g.owed
      | none => false
  then act (recordOverruns s.cur.die s.cur.core s)
  else stay s

end Sys2Proof.Machine
end

