-- ==== Sys2Proof/Machine/Save.lean ====
section
/-!
DEFINITION. The save record of a context: its sections as bytes, writing them, and reading them back (15 R384, R385; logs
11 and 17).
-/

namespace Sys2Proof.Machine

/-- The context-save engine as an agent (08 R209). -/
def agentSave : Nat := agentEngine 19

/-! ### Status (15 R385) -/

/-- `SVST`: state, cause, offset. -/
def svstWord (st : Nat) (cause : BitVec 8) (off : Nat) : Word :=
  BitVec.ofNat 64 (st % 4 * 2 ^ 62 + cause.toNat * 2 ^ 54 + off % 2 ^ 48)

/-- Set `SVST` of a context. -/
def setSvst (die slot st : Nat) (cause : BitVec 8) (off : Nat) (s : State) : State :=
  s.modCtx die slot fun c => { c with regs := Tab.put c.regs 0x017 (svstWord st cause off) }

/-- Notify the supervisor of a pre-emption, save or restore (17 R433 kind 4). -/
def notifySave (die slot what : Nat) (cause : BitVec 8) (off : Nat) (s : State) : State :=
  notify die 4 cause agentSave 63 slot (BitVec.ofNat 64 (off % 2 ^ 48 * 2 ^ 16 + what)) 0 s

/-- Bytes of words. -/
def bytesOfWords (ws : List Word) : List Byte := ws.flatMap fun w => toBytes 8 w.toNat

/-! ### A core section (15 R384) -/

/-- The 16 words of a vector. -/
def vecWords (v : Vec) : List Word := (List.range 16).map fun i => v.extractLsb' (64 * i) 64

/-- The vector of 16 words. -/
def vecOfWords (ws : List Word) : Vec :=
  BitVec.ofNat 1024 ((List.range 16).foldl (fun a i => a + (ws.getD i 0).toNat * 2 ^ (64 * i)) 0)

/-- What a section holds of each strand: `s1` to `s31`, `p1` to `p7`, `FSR`, `CBSEL`, live PC. -/
def Strand.saveWords (t : Strand) : List Word :=
  (List.range 31).map (fun i => t.sreg (i + 1)) ++
    [(t.preds &&& 0xFE).setWidth 64, t.fsr.setWidth 64, t.cbsel.setWidth 64, t.pc]

/-- What it holds of an E strand besides: `v0` to `v31`, `m0` to `m7`. -/
def Strand.saveLanes (t : Strand) : List Word :=
  (List.range 32).flatMap (fun n => vecWords (t.vreg n)) ++ (List.range 8).map fun n => (t.mreg n).setWidth 64

/-- A copy token. -/
def Token.saveWord (t : Token) : Word := BitVec.ofNat 64 (t.count % 256 + b2n t.fault * 2 ^ 8 + t.cause.toNat * 2 ^ 16)

/-- Words an entry of a queue takes. -/
def entWords (q : Nat) : Nat := if q < 8 then 16 else 1

/-- A queue: its entries from head to tail, each with its reservation bit. -/
def Core.saveQueue (c : Core) (q : Nat) : List Word :=
  let es := (c.queue q).ents
  BitVec.ofNat 64 es.length :: es.flatMap fun e =>
    match e.val with
    | none => 0 :: List.replicate (entWords q) 0
    | some v => 1 :: (vecWords v).take (entWords q)

/-- The frame: words 0 to 63, then the replay entries. -/
def Core.saveFrame (c : Core) : List Word :=
  match c.frame with
  | none => List.replicate 64 0
  | some f =>
    (List.range 64).map (f.word c) ++
      (List.range f.replay.length).flatMap fun e => (List.range 128).map fun w => f.word c (256 + 128 * e + w)

/-- The body of a core section. -/
def Core.saveWords (c : Core) : List Word :=
  (List.range 6).flatMap (fun n => (c.strand n).saveWords) ++
  (List.range 4).flatMap (fun n => (c.strand (n + 2)).saveLanes) ++
  (List.range 6).map (fun j => (Tab.get 0#32 (c.strand 0).lc j).setWidth 64) ++
  (List.range 8).map (fun i => ((c.strand 1).tok i).saveWord) ++
  [BitVec.ofNat 64 (b2n (c.strand 1).handler), BitVec.ofNat 64 (c.strand 0).permits, BitVec.ofNat 64 c.ftix] ++
  wordsOf 2 (ofBytes ((List.range 16).map fun i => Tab.get 0x3F#8 c.ftab i)) ++
  (List.range 1024).map (fun i => Tab.get 0 c.banks i) ++
  (List.range 16).flatMap c.saveQueue ++ c.saveFrame

/-- `FSR` and `CBSEL` as a record gives them: their reserved bits read zero, and so does a reserved rounding mode (00 R3; 02 R43,
R44; log 17). -/
def fsrKept (w : Word) : BitVec 16 :=
  BitVec.ofNat 16 ((if fld w 8 3 ≤ 4 then fld w 8 3 else 0) * 2 ^ 8 + fld w 0 5)
/-- Likewise. -/
def cbselKept (w : Word) : BitVec 16 := BitVec.ofNat 16 (fld w 0 4)

/-- A strand with what a section holds of it. -/
def Strand.loadWords (t : Strand) (ws : List Word) : Strand :=
  let t := (List.range 31).foldl (fun t i => t.setSreg (i + 1) (ws.getD i 0)) t
  { t with preds := (ws.getD 31 0).setWidth 8 &&& 0xFE, fsr := fsrKept (ws.getD 32 0), cbsel := cbselKept (ws.getD 33 0),
           pc := ws.getD 34 0 }

/-- An E strand with its lane registers. -/
def Strand.loadLanes (t : Strand) (ws : List Word) : Strand :=
  let t := (List.range 32).foldl (fun t n => t.setVreg n (vecOfWords ((ws.drop (16 * n)).take 16))) t
  (List.range 8).foldl (fun t n => t.setMreg n ((ws.getD (512 + n) 0).setWidth 32)) t

/-- A token with the fields of its word. -/
def Token.loadWord (t : Token) (w : Word) : Token :=
  { t with count := fld w 0 8, fault := bit w 8, cause := w.extractLsb' 16 8 }

/-- n entries of a queue from words: an entry keeps the number under which a result reserved it. -/
def loadEnts (q : Nat) (old : List QEnt) : Nat → Nat → List Word → List QEnt × List Word
  | 0, _, ws => ([], ws)
  | n + 1, i, ws =>
    let o := old.getD i {}
    let e := { o with val := if ws.headD 0 = 0 then none else some (vecOfWords ((ws.drop 1).take (entWords q))) }
    let (es, rest) := loadEnts q old n (i + 1) (ws.drop (1 + entWords q))
    (e :: es, rest)

/-- Load the queues of a core; what is left of the words is the frame. -/
def Core.loadQueues (c : Core) (ws : List Word) : Core × List Word :=
  (List.range 16).foldl (fun (c, ws) q =>
    let old := c.queue q
    let (es, rest) := loadEnts q old.ents (min (ws.headD 0).toNat (queueCap q)) 0 (ws.drop 1)
    (c.setQueue q { old with ents := es }, rest)) (c, ws)

/-- A replay entry with the fields that software may edit (15 R369). -/
def Flight.loadWords (f : Flight) (ws : List Word) : Flight :=
  let piece := fun n => vecOfWords ((ws.drop (16 * n)).take 16)
  { f with due := fld (ws.getD 0 0) 55 5,
           caps := { f.caps with mask := (ws.getD 0 0).setWidth 32, a := piece 1, b := piece 2, c := piece 3, d := piece 4 } }

/-- A frame with the words of a section; a cause that is never raised is not taken from it (03 R81; log 17). -/
def Frame.loadWords (f : Frame) (ws : List Word) : Frame :=
  let w := fun i => ws.getD i 0
  let run := fun lo n => (List.range n).map fun i => (i, w (lo + i))
  { f with
    cause := if causeWritable (fld (w 0) 56 8) then (w 0).extractLsb' 56 8 else f.cause,
    strd := fld (w 0) 53 3, prec := bit (w 0) 52, info := w 1, addr := w 2,
    scnd := if causeWritable (fld (w 3) 56 8) then (w 3).extractLsb' 56 8 else f.scnd, s28 := w 4, s29 := w 5, tpc := run 8 6, lock := bit (w 14) 0, wait := run 16 6,
    rpt := run 24 6, qocc := (w 32, w 33), sb := (w 36, w 37), teams := run 40 8,
    replay := (f.replay.take (fld (w 63) 0 7)).zipIdx.map fun (e, i) => e.loadWords ((ws.drop (64 + 128 * i)).take 128) }

/-- A core with what a section holds of it. What the section does not list stays as it was (log 17). -/
def Core.loadWords (c : Core) (ws : List Word) : Core :=
  let part := fun lo n => (ws.drop lo).take n
  let c := (List.range 6).foldl (fun c n => c.modStrand n fun t => t.loadWords (part (35 * n) 35)) c
  let c := (List.range 4).foldl (fun c n => c.modStrand (n + 2) fun t => t.loadLanes (part (210 + 520 * n) 520)) c
  let c := c.modStrand 0 fun t =>
    { t with lc := (part 2290 6).zipIdx.map fun (v, j) => (j, v.setWidth 32), permits := fld (ws.getD 2305 0) 0 16 }
  let c := c.modStrand 1 fun t =>
    let t := (List.range 8).foldl (fun t i => t.modTok i fun k => k.loadWord (ws.getD (2296 + i) 0)) t
    { t with handler := bit (ws.getD 2304 0) 0 }
  let ft := bytesOfWords (part 2307 2)
  let c := { c with ftix := fld (ws.getD 2306 0) 0 4, ftab := ft.zipIdx.map fun (b, i) => (i, b),
                    banks := (part 2309 1024).zipIdx.map fun (v, i) => (i, v) }
  let (c, rest) := c.loadQueues (ws.drop 3333)
  { c with frame := some ((c.frame.getD {}).loadWords rest) }

/-! ### The engine section -/

/-- The command rings of the drill that a context owns. -/
def ownRings (die slot : Nat) (s : State) : List Nat :=
  (List.range 4).filter fun k => (s.ring die k).en && decide ((s.ring die k).owner = slot)

/-- Words of a drill ring's record. -/
def drillRecord : Nat := 29

/-- What the engine keeps for a drill ring (11 R272). -/
def drillWords (die k : Nat) (s : State) : List Word :=
  let d := s.drill die k
  let x := d.set
  let b := d.bc.getD { sid := 0, producer := false, peers := 0, far := 0, at_ := 0 }
  [k, x.win, b2n x.range, x.gain, x.src, x.pdie, b2n x.aspl, b2n x.wspl, b2n x.fresh, x.rep, x.act, x.cmask, x.thr,
   b2n d.sess, b2n d.session, d.seq, b2n d.bcIn, b2n d.bc.isSome, b.sid, b2n b.producer, b.peers, b.far, b.at_.toNat, b.path,
   b2n b.formed, b.shift, b.trim, b2n x.trims.isSome, x.trims.getD 0].map fun n => BitVec.ofNat 64 n

/-- Put a drill ring's record back. -/
def loadDrill (die : Nat) (ws : List Word) (s : State) : State :=
  let n := fun i => (ws.getD i 0).toNat
  let t := fun i => decide (n i ≠ 0)
  s.modDrill die (n 0 % 4) fun d =>
    { d with
      set := { win := n 1, range := t 2, gain := n 3, src := n 4, pdie := n 5, aspl := t 6, wspl := t 7, fresh := t 8, rep := n 9,
               act := n 10, cmask := n 11, thr := n 12, trims := if t 27 then some (n 28) else none }
      sess := t 13, session := t 14, seq := n 15, bcIn := t 16,
      bc := if t 17 then some { sid := n 18, producer := t 19, peers := n 20, far := n 21, at_ := ws.getD 22 0, path := n 23,
                                formed := t 24, shift := n 25, trim := n 26 } else none }

/-- Elements a word of an allotment's contents holds, and elements a word of its statuses holds. -/
def accPerWord : Nat := 2
/-- See `accPerWord`. -/
def accStPerWord : Nat := 32

/-- The contents and statuses of a ring's allotment. -/
def allotWords (die k : Nat) (s : State) : List Word :=
  let lo := allotFirst die k s
  let n := allotSize die k s
  let el := fun i => accRead die (lo + i) s
  (List.range (n / accPerWord)).map (fun i =>
    BitVec.ofNat 64 ((el (2 * i)).1.toNat + (el (2 * i + 1)).1.toNat * 2 ^ 32)) ++
  (List.range (n / accStPerWord)).map fun i =>
    BitVec.ofNat 64 ((List.range 32).foldl (fun a j => a + (el (32 * i + j)).2 % 4 * 4 ^ j) 0)

/-- Put an allotment of n elements back. -/
def loadAllot (die k n : Nat) (ws : List Word) (s : State) : State :=
  let lo := allotFirst die k s
  let v := fun i => ((ws.getD (i / 2) 0).extractLsb' (32 * (i % 2)) 32 : BitVec 32)
  let st := fun i => fld (ws.getD (n / accPerWord + i / 32) 0) (2 * (i % 32)) 2
  let s := accClear die lo n s
  (List.range (min n (allotSize die k s))).foldl (fun s i =>
    if v i = 0 ∧ st i = 0 then s
    else s.modDie die fun d => { d with acc := Tab.put d.acc (lo + i) (v i), accSt := Tab.put d.accSt (lo + i) (st i) }) s

/-- The positions of a context's copies: engine, source, bytes landed. -/
def copyPositions (die slot : Nat) (s : State) : List Word :=
  let cs := (s.die die).clusters.flatMap fun (cl, c) =>
    (c.copies.filter fun x => x.2.sub.slot = slot).map fun (src, r) => (cl, src, r.done)
  BitVec.ofNat 64 cs.length :: cs.flatMap fun (cl, src, n) => [BitVec.ofNat 64 cl, BitVec.ofNat 64 src, BitVec.ofNat 64 n]

/-- The replies the collective unit holds for a context (14 R364). -/
def replyWords (c : Ctx) : List Word :=
  BitVec.ofNat 64 c.heldReplies.length :: c.heldReplies.flatMap fun (ws, data) =>
    BitVec.ofNat 64 ws.length :: ws ++
      (BitVec.ofNat 64 data.length :: wordsOf ((data.length + 7) / 8) (ofBytes data))

/-- The body of the engine section; `all` for an eviction. -/
def engineWords (die slot : Nat) (all : Bool) (s : State) : List Word :=
  let ks := ownRings die slot s
  BitVec.ofNat 64 ks.length :: ks.flatMap (fun k => drillWords die k s) ++
    (if all then
      ks.flatMap (fun k => BitVec.ofNat 64 (allotSize die k s) :: allotWords die k s) ++ copyPositions die slot s ++
        replyWords (s.ctx die slot)
     else [])

/-- Held replies from words. -/
def repliesOf : Nat → List Word → List (List Word × List Byte)
  | 0, _ => []
  | n + 1, ws =>
    let k := (ws.headD 0).toNat % 64
    let r := ws.drop 1
    let len := (r.getD k 0).toNat % 4096
    (r.take k, (bytesOfWords ((r.drop (k + 1)).take ((len + 7) / 8))).take len) :: repliesOf n (r.drop (k + 1 + (len + 7) / 8))

/-- Put allotments back, ring by ring in the order of the record; what is left of the words is the copies'. -/
def loadAllots (die : Nat) : List Nat → List Word → State → List Word × State
  | [], ws, s => (ws, s)
  | k :: ks, ws, s =>
    let n := (ws.headD 0).toNat % 2 ^ 18
    let len := n / accPerWord + n / accStPerWord
    loadAllots die ks (ws.drop (1 + len)) (loadAllot die k n ((ws.drop 1).take len) s)

/-- Put an engine section back; `all` for an eviction's. Replies held since the eviction come after the record's (14 R364). -/
def loadEngine (die slot : Nat) (all : Bool) (ws : List Word) (s : State) : State :=
  let n := (ws.headD 0).toNat % 8
  let recs := (List.range n).map fun i => (ws.drop (1 + drillRecord * i)).take drillRecord
  let s := recs.foldl (fun s r => loadDrill die r s) s
  if !all then s
  else
    let (ws, s) := loadAllots die (recs.map fun r => (r.headD 0).toNat % 4) (ws.drop (1 + drillRecord * n)) s
    let m := (ws.headD 0).toNat % 4096
    let s := (List.range m).foldl (fun s i =>
      let w := fun j => (ws.getD (1 + 3 * i + j) 0).toNat
      s.modCluster die (w 0) fun c =>
        { c with copies := c.copies.map fun (src, r) => (src, if src = w 1 ∧ r.sub.slot = slot then { r with done := w 2 } else r) }) s
    let ws := ws.drop (1 + 3 * m)
    s.modCtx die slot fun c => { c with heldReplies := repliesOf ((ws.headD 0).toNat % 1024) (ws.drop 1) ++ c.heldReplies }

/-! ### The context section -/

/-- The tiles a context owns. -/
def ownTiles (die slot : Nat) (s : State) : List Nat :=
  let d := s.die die
  (d.tileOwned.filter fun x => x.2 && tileCtx (d.tile x.1) = slot).map Prod.fst

/-- The body of the context section. -/
def contextWords (die slot : Nat) (s : State) : List Word :=
  let c := s.ctx die slot
  let ts := ownTiles die slot s
  (List.range 128).map (fun n => flagWord c n) ++ (List.range 64).map (fun g => BitVec.ofNat 64 (c.guard g)) ++
    [c.reg 0x011, c.reg 0x012, c.reg 0x019, BitVec.ofNat 64 ts.length] ++
    ts.flatMap fun k => [BitVec.ofNat 64 k, (s.die die).tile k]

/-- Whether a `TRPOL` group always reads 0 (15 R366). -/
def trpolFixed (c : Nat) : Bool :=
  decide (c = 0x00) || decide (c = 0x03) || decide (c = 0x0F) || decide (c = 0x14) || decide (c = 0x16) || decide (c = 0x17) ||
    decide (0x18 ≤ c)

/-- `TRPOL` as a record or the boot firmware gives it: what a write would refuse reads 0 (00 R3; 15 R366; log 17). -/
def trpolKept (v : Word) : Word :=
  BitVec.ofNat 64 ((List.range 32).foldl (fun a c =>
    a + (if trpolFixed c || fld v (2 * c) 2 = 3 then 0 else fld v (2 * c) 2) * 2 ^ (2 * c)) 0)

/-- `TVEC` likewise: canonical and aligned, or 0 (15 R375). -/
def tvecKept (v : Word) : Word := if canonical v && v.toNat % 8 = 0 then v else 0

/-- Put a context section back: its tiles are the slot's. -/
def loadContext (die slot : Nat) (ws : List Word) (s : State) : State :=
  let s := s.modCtx die slot fun c =>
    { c with
      flags := (List.range 128).map fun n => (n, fld (ws.getD n 0) 0 16)
      satf := (List.range 128).map fun n => (n, bit (ws.getD n 0) 16)
      guards := (List.range 64).map fun g => (g, fld (ws.getD (128 + g) 0) 0 2)
      regs := Tab.put (Tab.put (Tab.put c.regs 0x011 (trpolKept (ws.getD 192 0))) 0x012 (tvecKept (ws.getD 193 0))) 0x019
        (ws.getD 194 0) }
  (List.range (min (ws.getD 195 0).toNat 8192)).foldl (fun s i =>
    let k := (ws.getD (196 + 2 * i) 0).toNat % 8192
    (setTile die k (setFld (ws.getD (197 + 2 * i) 0) 58 4 slot) s).modDie die fun d =>
      { d with tileOwned := Tab.put d.tileOwned k true }) s

/-! ### The window sections -/

/-- The window sections' keys, in their order. -/
def windowKeys : List Nat := [0xF0, 0xF1, 0xF2, 0xF3, 0xF5]

/-- Where a window's bytes stand, in the order of the section: keys and lengths, over every core or cluster of the die. -/
def windowRuns (die slot key : Nat) (s : State) : List (Nat × Nat) :=
  let r := fun sel => (s.ctx die slot).reg sel
  let cores := List.range 128
  match key with
  | 0xF0 =>
    let b := winBase (r 0x01A) 64
    let n := min (winSize (r 0x01A) 64) (1024 - b)
    cores.flatMap fun c => (List.range 128).map fun l => (keyLs die c (1024 * l + b), n)
  | 0xF1 =>
    let b := winBase (r 0x01B) 4096
    cores.map fun c => (keyScr die c b, min (winSize (r 0x01B) 4096) (scrSize s die c - b))
  | 0xF2 =>
    let b := winBase (r 0x01C) 4096
    (List.range 16).map fun cl => (keyCpl die cl b, min (winSize (r 0x01C) 4096) (cplSize s die (8 * cl) - b))
  | 0xF3 =>
    let b := winBase (r 0x01D) 65536
    [(keyDcm die b, min (winSize (r 0x01D) 65536) (dcmSize - b))]
  | _ =>
    let b := winBase (r 0x01E) 4096
    cores.map fun c => (keyIs die c b, min (winSize (r 0x01E) 4096) (65536 - b))

/-- Bytes of a window section. -/
def windowLen (die slot key : Nat) (s : State) : Nat := (windowRuns die slot key s).foldl (fun a x => a + x.2) 0

/-- The body of a window section. -/
def windowBytes (die slot key : Nat) (s : State) : List Byte :=
  (windowRuns die slot key s).flatMap fun x => s.bytes x.1 x.2

/-- Put a window's bytes back. -/
def loadWindow (die slot key : Nat) (bs : List Byte) (s : State) : State :=
  ((windowRuns die slot key s).foldl (fun (acc : List Byte × State) x =>
    (acc.1.drop x.2, acc.2.putRaw x.1 ((acc.1.take x.2).map some))) (bs, s)).2

/-! ### The record -/

/-- The cores of a context with an iteration, ascending: on their core, or taken off it. A core that is not stopped shows
the frame a pre-emption would give it. -/
def savedCores (die slot : Nat) (s : State) : List (Nat × Core) :=
  (List.range 128).filterMap fun n =>
    let c := s.core die n
    let away := Tab.get ({} : Core) (s.die die).parked (16 * n + slot)
    let here := match c.iter with
      | some i => decide (i.slot = slot)
      | none => false
    let stop := fun (c : Core) => c.stopAway { stop := true, strd := 7, cause := cPreempt, t := (s.die die).cyc + 1 }
    if here then some (n, stop c) else if away.iter.isSome then some (n, stop away) else none

/-- A section: its type, key and body. -/
abbrev Section := Nat × Nat × List Byte

/-- The sections of a context's record; `all` for an eviction. -/
def saveSections (die slot : Nat) (all : Bool) (s : State) : List Section :=
  (savedCores die slot s).map (fun (n, c) => (1, n, bytesOfWords c.saveWords)) ++
    [(2, 0, bytesOfWords (engineWords die slot all s))] ++
    (if all then
      (3, 0, bytesOfWords (contextWords die slot s)) :: windowKeys.map fun k => (4, k, windowBytes die slot k s)
     else [])

/-- Bytes up to the next multiple of 64. -/
def up64 (n : Nat) : Nat := (n + 63) / 64 * 64

/-- A section as bytes: its head, its body, zeros up to the next section. -/
def sectionBytes (x : Section) : List Byte :=
  let n := x.2.2.length
  toBytes 8 (x.1 * 2 ^ 56 + n) ++ toBytes 8 x.2.1 ++ x.2.2 ++ List.replicate (up64 (16 + n) - (16 + n)) 0

/-- Bytes a section takes. -/
def sectionLen (x : Section) : Nat := up64 (16 + x.2.2.length)

/-- Bytes of a record. -/
def recordLen (xs : List Section) : Nat := 64 + xs.foldl (fun a x => a + sectionLen x) 0

/-- The header of a record (15 R384). -/
def recordHeader (die slot : Nat) (all : Bool) (xs : List Section) (s : State) : List Byte :=
  let c := s.ctx die slot
  bytesOfWords
    [BitVec.ofNat 64 (2 ^ 48 + xs.length % 2 ^ 16 * 2 ^ 32 + recordLen xs / 64 % 2 ^ 32),
     BitVec.ofNat 64 (c.job.toNat * 2 ^ 48 + slot % 16 * 2 ^ 44 + (if all then 2 else 1) * 2 ^ 42 + b2n c.frozen * 2 ^ 41 +
       b2n c.sup * 2 ^ 40 + dieIdentity die % 8192),
     c.stopTime, 0, 0, 0, 0, 0]

/-- `SVQRY`: the lengths of the two records for the context's state now (15 R384). -/
def svqryWord (die slot : Nat) (s : State) : Word :=
  let n := fun all => recordLen (saveSections die slot all s) / 64 % 2 ^ 32
  BitVec.ofNat 64 (n true * 2 ^ 32 + n false)

/-- Where the bodies of core sections stand: core, address, length. -/
def coreBodies (base off : Nat) : List Section → List Saved
  | [] => []
  | x :: xs =>
    let rest := coreBodies base (off + sectionLen x) xs
    if x.1 = 1 then { core := x.2.1, off := base + off + 16, len := x.2.2.length } :: rest else rest

/-! ### Writing (15 R385) -/

/-- How the writing of a record ends: complete, stopped with a cause, or not able to go on yet. -/
inductive SaveEnd where
  | complete
  | stopped (cause : BitVec 8)
  | waiting
  | absent
  deriving DecidableEq, Repr

/-- Write a record from an offset on, 64 bytes at a time: how it ended, and the first byte not written. -/
def writeRecord (w : Writer) (base lim : Nat) : Nat → Nat → List Byte → State → SaveEnd × Nat × State
  | 0, off, _, s => (.complete, off, s)
  | fuel + 1, off, bs, s =>
    if bs.isEmpty then (.complete, off, s)
    else if lim ≤ off then (.stopped cAddressClass, off, s)
    else
      match writePiece w (BitVec.ofNat 64 (base + off)) ((bs.take 64).map some) s with
      | .ok (_, s) => writeRecord w base lim fuel (off + 64) (bs.drop 64) s
      | .error (.trap c _ _) => (.stopped c, off, s)
      | .error (.wait _ _) => (.waiting, off, s)
      | .error .absent => (.absent, off, s)

/-- What the save engine is as a writer (16 R397). -/
def saveWriter (die slot : Nat) : Writer := { g := engineAgent die slot, who := agentSave, akind := 7 }

/-- Write the record of a context from an offset; the places of its core sections are kept for their return. -/
def saveFrom (die slot off : Nat) (s : State) : SaveEnd × Nat × State :=
  let c := s.ctx die slot
  let xs := saveSections die slot c.evict s
  let bs := recordHeader die slot c.evict xs s ++ xs.flatMap sectionBytes
  let base := (c.reg 0x015).toNat
  let s := s.modCtx die slot fun c => { c with saved := coreBodies base 64 xs }
  writeRecord (saveWriter die slot) base (c.reg 0x016).toNat (bs.length / 64 + 1) off (bs.drop off) s

/-! ### Reading back -/

/-- Read n bytes of a record at an address, as loads of the context. -/
def recordBytes (die slot va n : Nat) (s : State) : Except Stop (List Byte × State) :=
  readRun (engineAgent die slot) false (BitVec.ofNat 64 va) 0 n s

/-- A core as its saved section has it now; one that cannot be read leaves it as it was (log 17). -/
def reloadCore (die slot : Nat) (x : Saved) (c : Core) (s : State) : Except Stop (Core × State) :=
  match recordBytes die slot x.off x.len s with
  | .ok (bs, s) => .ok (c.loadWords (wordsOfBytes bs), s)
  | .error (.trap cause _ a) => .ok (c, faultRecord die slot cause agentSave 63 x.core a 0 s)
  | .error e => .error e

end Sys2Proof.Machine
end

