-- ==== Sys2Proof/Machine/Context.lean ====
section
/-!
DEFINITION. `CTXCTL` and what follows from it: pre-emption, eviction, resume, restore, teardown and creation of contexts
(15 R377 to R386; 12 R321; 10 R264, R266; 14 R364; logs 11 and 17).
-/

namespace Sys2Proof.Machine

/-! ### Whether everything of a context has stopped (15 R380, R381) -/

/-- Whether a core that holds an iteration has taken its frame and stopped, and what its strands held has left (15 R381). -/
def coreStopped (c : Core) : Bool :=
  c.frame.isSome && c.hStopBy.isNone && c.due.isNone && (c.strand 1).pend.isNone && (c.strand 1).run ≠ .running &&
    (c.strand 0).held.isEmpty && (c.strand 1).held.isEmpty

/-- Whether a slot carries a request to a reduction slot from a context of a die. -/
def collRequest (die slot : Nat) (x : NetSlot) : Bool :=
  (decide (x.kind = .slotReq) || decide (x.kind = .contrib) || decide (x.kind = .free)) && decide (x.src = die) &&
    x.w 2 = BitVec.ofNat 64 slot

/-- Whether every request of a context to reduction slots has its reply (14 R364). -/
def collIdle (die slot : Nat) (s : State) : Bool :=
  !(s.net.any (collRequest die slot)) && (List.range 8).all fun d => !((s.die d).inbox.any (collRequest die slot))

/-- Whether the last started windows of a context's rings are accumulated and reported (10 R266). -/
def drillIdle (die slot : Nat) (s : State) : Bool :=
  (ownRings die slot s).all fun k => (s.drill die k).wins.isEmpty && (s.drill die k).stash.isEmpty

/-- Whether the collector holds every acknowledgement of a stop. -/
def allStopped (die slot : Nat) (s : State) : Bool :=
  (coresOf die slot s).all (fun n => coreStopped (s.core die n)) && collIdle die slot s && drillIdle die slot s

/-! ### Eviction -/

/-- The drill at an eviction: its running command suspends with a progress record, what it had only taken counts as not
taken, and its pins are released (10 R266, 11 R294; log 18). -/
def evictRing (die k : Nat) (s : State) : State :=
  let s := match advance die k 16 s with
    | .ok s => s
    | .error _ => s
  match (s.drill die k).taken with
  | [] => s
  | t :: ts =>
    match t.job with
    | .mx r =>
      if r.started then suspendMx die k t r cPreempt 0 r.pos 0 s
      else untake die k t (t :: ts) s
    | _ => untake die k t (t :: ts) s
where
  /-- Every taken command from one on counts as not taken. -/
  untake (die k : Nat) (t : TakenCmd) (ts : List TakenCmd) (s : State) : State :=
    let s := ts.foldl (fun s x => unpinNext die x s) s
    let s := s.modDrill die k fun d => { d with taken := [], set := t.set, sess := t.sess, bcIn := t.bcIn }
    s.modRing die k fun r => { r with head := t.idx, loop := t.loop, granted := false }

/-- The mark of an evicted context's slot on what stays in the part for it: tasks, streams, copies, core images. -/
def awaySlot (slot : Nat) : Nat := slot + 16
/-- The key of a core image of an evicted context. -/
def awayKey (core slot : Nat) : Nat := 4096 + 16 * core + slot

/-- Rename the context of what stays in the part for it. -/
def reslot (die old new : Nat) (s : State) : State :=
  let sub := fun (x : Submitted) => if x.slot = old then { x with slot := new } else x
  s.modDie die fun d =>
    { d with
      tasks := d.tasks.map fun t => if t.slot = old then { t with slot := new } else t
      streams := d.streams.map fun (n, t) => (n, if t.busy ∧ t.slot = old then { t with slot := new } else t)
      clusters := d.clusters.map fun (n, c) =>
        (n, { c with copies := c.copies.map fun (k, r) => (k, { r with sub := sub r.sub }) })
      cores := d.cores.map fun (n, c) => (n, { c with port := c.port.map sub }) }

/-- Take the stopped cores of a context off it: their images wait for the context, and the cores are free (15 R380). -/
def takeOff (die slot : Nat) (s : State) : State :=
  (coresOf die slot s).foldl (fun s n =>
    let c := s.core die n
    let s := s.modDie die fun d => { d with parked := Tab.put d.parked (16 * n + slot) c }
    checkSwitch die n (s.modCore die n fun c => { ({} : Core).keepOwn c with freeFrom := (s.die die).cyc + 1 })) s

/-- What `CTXST` shows of a slot that becomes empty. -/
def Ctx.emptied (c : Ctx) : Ctx := { c with state := 0, frozen := false, lcause := 0, sup := false, job := 0, lcore := 0, saved := [] }

/-- An evicted context leaves its slot: what stays in the part for it waits under a mark of its own, its tiles are free (15
R377; log 17). -/
def freeSlot (die slot : Nat) (s : State) : State :=
  let s := (ownTiles die slot s).foldl (fun s k => freeTile die k s) s
  let s := s.modDie die fun d =>
    { d with
      parked := d.parked.foldl (fun t (k, c) =>
        if k < 2048 ∧ k % 16 = slot then Tab.put t (awayKey (k / 16) slot) c else Tab.put t k c) []
      tlb := d.tlb.filter fun e => e.slot ≠ slot }
  (reslot die slot (awaySlot slot) s).modCtx die slot fun c => { c.emptied with heldReplies := [] }

/-! ### Pre-emption and saving (15 R380, R384, R385) -/

/-- The save of a stopped context begins. -/
def beginSave (die slot : Nat) (s : State) : State :=
  let s := if (s.ctx die slot).evict then (ownRings die slot s).foldl (fun s k => evictRing die k s) s else s
  setSvst die slot 1 0 0 (s.modCtx die slot fun c => { c with state := 3, frozen := decide (c.fst ≠ 0) })

/-- `PREEMPT_COMPLETE`: the collector holds every acknowledgement of the context of the unit number (15 R380). -/
def execPreemptComplete (s : State) : Host.Outcome State Fault Refusal :=
  let die := s.cur.die
  let slot := s.cur.unit % 16
  if (s.ctx die slot).state ≠ 2 || !allStopped die slot s then stay s
  else act (notifySave die slot 0 (s.ctx die slot).lcause 0 (beginSave die slot s))

/-- Write the record from an offset on, and what follows: the context is pre-empted, or its slot free; or the save has
stopped (15 R380, R385). None when the writing cannot go on now. -/
def runSave (die slot off : Nat) (s : State) : Except Stop State :=
  match saveFrom die slot off s with
  | (.complete, n, s) =>
    let s := takeOff die slot (setSvst die slot 3 0 n s)
    let s := if (s.ctx die slot).evict then freeSlot die slot s
             else s.modCtx die slot fun c => { c with state := 4 }
    .ok (notifySave die slot 1 0 n s)
  | (.stopped cause, n, s) =>
    let s := setSvst die slot 2 cause n (s.modCtx die slot fun c => { c with state := 5 })
    .ok (notifySave die slot 2 cause n s)
  | (.waiting, _, _) => .error (.wait 10 0)
  | (.absent, _, _) => .error .absent

/-- `SAVE_COMPLETE`: the context-save engine writes the record of the context of the unit number (15 R385). -/
def execSaveComplete (s : State) : Host.Outcome State Fault Refusal :=
  let die := s.cur.die
  let slot := s.cur.unit % 16
  if (s.ctx die slot).state ≠ 3 then stay s else hostWriteOf s (runSave die slot 0 s)

/-- The images of a pre-empted context's cores take in what software made of their saved sections. -/
def refreshSaved (die slot : Nat) (s : State) : Except Stop State :=
  (s.ctx die slot).saved.foldlM (fun s x => do
    let key := 16 * x.core + slot
    let (c, s) ← reloadCore die slot x (Tab.get {} (s.die die).parked key) s
    .ok (s.modDie die fun d => { d with parked := Tab.put d.parked key c })) s

/-- Evict: `OP` 2 (15 R377). -/
def evictCtx (die slot : Nat) (s : State) : Eff := do
  let st := (s.ctx die slot).state
  let mark := fun (s : State) => s.modCtx die slot fun c => { c with evict := true }
  if st = 1 then .ok (startPreempt die slot cPreempt 0x7F (mark s))
  else
    let s ← refreshSaved die slot s
    .ok (beginSave die slot (mark s))

/-! ### Resume (15 R382) -/

/-- Every reply held for a context is applied, oldest first (14 R364). -/
def applyAllHeld (die slot : Nat) : Nat → State → State
  | 0, s => s
  | n + 1, s => match applyHeld die slot s with
    | some s => applyAllHeld die slot n s
    | none => s

/-- Every core of a die looks whether it has a switch pending. -/
def checkSwitches (die : Nat) (s : State) : State := (List.range 128).foldl (fun s n => checkSwitch die n s) s

/-- Resume: `OP` 3. The engines start in this cycle. -/
def resumeCtx (die slot : Nat) (s : State) : State :=
  let s := s.modCtx die slot fun c => { c with state := 1, frozen := false }
  checkSwitches die (applyAllHeld die slot 512 s)

/-- A core goes on from its frame: a handler that was stopped at its live PC, a trap that a handler takes in the handler, and
every other frame as `rett` does (15 R367, R382). -/
def returnCore (die slot core : Nat) (s : State) : State :=
  let c := s.core die core
  let x := s.ctx die slot
  let now := (s.die die).cyc
  match c.frame with
  | none => s
  | some f =>
    if (c.strand 1).handler then
      s.modStrand die core 1 fun t => { t with run := .running, ready := now + 1 }
    else if f.cause ≠ cPreempt ∧ f.cause ≠ cSegmentOverrun ∧ disposition x f.cause f.prec f.info = 1 ∧ x.reg 0x012 ≠ 0 then
      enterHandler die core (x.reg 0x012)
        (s.modCore die core fun c => { c with frame := c.frame.map fun f => { f with since := now } })
    else resumeCore die core s

/-- `CORE_SECTION_RELOAD`: the saved section of the core of the unit number returns to it, once it is free for its context (15
R382). -/
def execCoreSectionReload (s : State) : Host.Outcome State Fault Refusal :=
  let die := s.cur.die
  let n := s.cur.core
  let c := s.core die n
  match c.home with
  | none => stay s
  | some slot =>
    let x := s.ctx die slot
    match x.saved.find? fun y => y.core = n with
    | none => stay s
    | some y =>
      if !enginesRun x || c.incoming.isSome || c.frame.isNone || coreOwner (s.die die) n ≠ some slot then stay s
      else
        hostWriteOf s (do
          let (c, s) ← reloadCore die slot y c s
          let s := s.modCore die n fun _ => c
          let s := s.modCtx die slot fun x => { x with saved := x.saved.filter fun y => y.core ≠ n }
          .ok (returnCore die slot n s))

/-! ### Restore (15 R377, R379, R385) -/

/-- What a restore reads of a record: the header's words and each section's type, key and the address and length of its body. -/
structure SaveImage where
  head : List Word
  secs : List (Nat × Nat × Nat × Nat)
  deriving DecidableEq, Repr

/-- Whether a header sets no reserved bit and names this die (15 R384, R385). -/
def headerOk (die : Nat) (ws : List Word) : Bool :=
  let w := fun i => ws.getD i 0
  fld (w 0) 48 16 = 1 && (fld (w 1) 42 2 = 1 || fld (w 1) 42 2 = 2) && fld (w 1) 13 27 = 0 &&
    fld (w 1) 0 13 = dieIdentity die % 8192 && [3, 4, 5, 6, 7].all fun i => w i = 0

/-- Whether a section may stand in a record for a slot: a known type, a key of it, a window of the slot's length. -/
def sectionOk (die slot : Nat) (s : State) (x : Nat × Nat × Nat × Nat) : Bool :=
  match x with
  | (1, key, _, _) => decide (key < 128)
  | (2, key, _, _) => key = 0
  | (3, key, _, _) => key = 0
  | (4, key, _, n) => windowKeys.contains key && decide (n = windowLen die slot key s)
  | _ => false

/-- Read the section heads of a record from an offset on. -/
def readHeads (die slot base len : Nat) : Nat → Nat → State → Except Stop (List (Nat × Nat × Nat × Nat) × State)
  | 0, _, s => .ok ([], s)
  | n + 1, off, s => do
    let (bs, s) ← recordBytes die slot (base + off) 16 s
    let ws := wordsOfBytes bs
    let k := fld (ws.getD 0 0) 0 56
    let x := (fld (ws.getD 0 0) 56 8, (ws.getD 1 0).toNat, base + off + 16, k)
    if !sectionOk die slot s x || len < off + 16 + k then trapAt cReservedField (BitVec.ofNat 64 (base + off))
    else
      let (xs, s) ← readHeads die slot base len n (off + up64 (16 + k)) s
      .ok (x :: xs, s)

/-- Read a record's header and section heads, and check them. -/
def readImage (die slot : Nat) (s : State) : Except Stop (SaveImage × State) := do
  let base := ((s.ctx die slot).reg 0x015).toNat
  let (bs, s) ← recordBytes die slot base 64 s
  let ws := wordsOfBytes bs
  if !headerOk die ws then trapAt cReservedField (BitVec.ofNat 64 base)
  else
    let (secs, s) ← readHeads die slot base (fld (ws.getD 0 0) 0 32 * 64) (fld (ws.getD 0 0) 32 16) 64 s
    .ok ({ head := ws, secs }, s)

/-- The image of an evicted core comes to a slot: its iteration is the slot's context's. -/
def Core.forSlot (c : Core) (slot : Nat) : Core :=
  { c with home := some slot,
           iter := some (match c.iter with
             | some i => { i with slot }
             | none => { slot, task := 0, ordinal := 0, index := [] }) }

/-- A core section returns to the part: the core's image waits for the core, and its body for the reload. -/
def restoreCore (die slot from_ core va len : Nat) (s : State) : State :=
  let old := (s.die die).parked.find? fun x => x.1 = awayKey core from_
  let blank : Core := { (({} : Core).mapStrands fun t => { t with run := .stopped, relAll := true }) with frame := some {} }
  let c := ((old.map Prod.snd).getD blank).forSlot slot
  let s := s.modDie die fun d =>
    { d with parked := Tab.put (d.parked.filter fun x => x.1 ≠ awayKey core from_) (16 * core + slot) c }
  s.modCtx die slot fun x => { x with saved := x.saved ++ [{ core, off := va, len }] }

/-- Put one section of a record back. -/
def restoreSection (die slot from_ : Nat) (all : Bool) (s : State) (x : Nat × Nat × Nat × Nat) : Except Stop State := do
  let (styp, key, va, len) := x
  if styp = 1 then .ok (restoreCore die slot from_ key va len s)
  else
    let (bs, s) ← recordBytes die slot va len s
    .ok (match styp with
      | 2 => loadEngine die slot all (wordsOfBytes bs) s
      | 3 => loadContext die slot (wordsOfBytes bs) s
      | _ => loadWindow die slot key bs s)

/-- What a slot kept for its evicted context comes with it to another slot: waiters on events, posts and messages, replies. -/
def moveWaiters (die from_ slot : Nat) (s : State) : State :=
  let o := s.ctx die from_
  if from_ = slot ∨ o.state ≠ 0 ∨ !o.evict then s
  else
    (s.modCtx die slot fun c =>
      { c with evWait := o.evWait, evRing := o.evRing, evSeen := o.evSeen, evSpill := o.evSpill, evAllSpill := o.evAllSpill,
               evTail := o.evTail, evStale := o.evStale, posts := o.posts, unexp := o.unexp, comps := o.comps, pulls := o.pulls,
               pulling := o.pulling, refused := o.refused, heldReplies := o.heldReplies }).modCtx
      die from_ fun c =>
        { c with evWait := [], evRing := [], evSeen := [], evSpill := [], evAllSpill := false, evTail := 0, evStale := [],
                 posts := [], unexp := [], comps := [], pulls := [], pulling := [], refused := 0, heldReplies := [], evict := false }

/-- Restore a record into a slot: the context is then pre-empted (15 R377, R379, R382). -/
def restoreFrom (die slot : Nat) (im : SaveImage) (s : State) : Except Stop State := do
  let w1 := im.head.getD 1 0
  let from_ := fld w1 44 4
  let all := fld w1 42 2 = 2
  let s := s.modCtx die slot fun c =>
    { c with saved := [], sup := bit w1 40, job := w1.extractLsb' 48 16, frozen := bit w1 41, stopTime := im.head.getD 2 0 }
  let s := moveWaiters die from_ slot (reslot die (awaySlot from_) slot s)
  let s ← im.secs.foldlM (restoreSection die slot from_ all) s
  .ok (s.modCtx die slot fun c => { c with state := 4, evict := false })

/-- Restore: `OP` 4. -/
def startRestore (die slot : Nat) (s : State) : State :=
  setSvst die slot 1 0 0 (s.modCtx die slot fun c => { c with state := 6 })

/-- `RESTORE_COMPLETE`: the restore of the context of the unit number finishes, or the record is refused and the slot stays
empty (15 R385; 17 R433). -/
def execRestoreComplete (s : State) : Host.Outcome State Fault Refusal :=
  let die := s.cur.die
  let slot := s.cur.unit % 16
  let base := ((s.ctx die slot).reg 0x015).toNat
  if (s.ctx die slot).state ≠ 6 then stay s
  else
    match (do
      let (im, s) ← readImage die slot s
      let s ← restoreFrom die slot im s
      .ok (setSvst die slot 3 0 (fld (im.head.getD 0 0) 0 32 * 64) s) : Except Stop State) with
    | .ok s => act (notifySave die slot 1 0 (fld ((s.ctx die slot).reg 0x017) 0 48) s)
    | .error .absent => .fault .absentMemory
    | .error (.wait _ _) => stay s
    | .error (.trap c _ a) =>
      let off := a.toNat - base
      act (notifySave die slot 3 c off (setSvst die slot 2 c off (s.modCtx die slot Ctx.emptied)))

/-! ### Creation (15 R379) -/

/-- Everything a slot's former context left in the part is gone: rings and queues at their reset values, tiles, tasks,
streams, core images, translations (15 R379). -/
def clearSlot (die slot : Nat) (s : State) : State :=
  let s := (ownTiles die slot s).foldl (fun s k => freeTile die k s) s
  let mine := (List.range 40).filter fun n => (s.ring die n).owner = slot
  s.modDie die fun d =>
    { d with
      rings := d.rings.map fun (n, r) => (n, if mine.contains n then {} else r)
      drills := d.drills.map fun (n, x) => (n, if mine.contains n then x.restart else x)
      cqs := d.cqs.filter fun x => x.1 / 64 ≠ slot
      cqcfg := d.cqcfg.filter fun x => x.1 / 64 ≠ slot
      tasks := d.tasks.filter fun t => t.slot ≠ slot
      streams := d.streams.map fun (n, t) => (n, if t.slot = slot then {} else t)
      parked := d.parked.filter fun x => !(decide (x.1 < 2048) && decide (x.1 % 16 = slot))
      tlb := d.tlb.filter fun e => e.slot ≠ slot }

/-- Create: `OP` 6. The rotation gives the new context no cluster (15 R379). -/
def createCtx (die slot : Nat) (job : BitVec 16) (sup : Bool) (s : State) : State :=
  let off := fun (t : Tab Word) => t.map fun (i, v) => (i, if fld v 59 4 = slot then setFld v 63 1 0 else v)
  let s := clearSlot die slot s
  let s := s.modDie die fun d => { d with rote := off d.rote, roteNew := off d.roteNew }
  checkSwitches die (clearChecks die slot (s.modCtx die slot fun _ => { state := 1, job, sup, evStale := List.range 32 }))

/-! ### Teardown (12 R321; 06 R153; 08 R195, R198, R211; 09 R230; 10 R264; 14 R364; 16 R403) -/

/-- A member that a teardown takes away leaves its teams; a team of another package hears of it by a slot (12 R324). -/
def leaveAll (g : Agent) (t : Strand) (s : State) : State :=
  (List.range 4).foldl (fun s n =>
    let m := t.team n
    if !m.valid then s
    else
      match leaveTeam g m s, reachTeam g m.handle m.desc 0 64 s with
      | .ok s', .ok (x, _) =>
        if x.key.isSome then s'
        else send .team g.die x.die (BitVec.ofNat 64 g.core :: 1 :: teamWordsOf 1 x.va m.rank) [] s'
      | _, _ => s) s

/-- A core image of a context that is torn down: its strands' waits on flags are recorded (08 R211), and it leaves its teams. -/
def endImage (die slot core : Nat) (c : Core) (s : State) : State :=
  leaveAll { die, core, slot, strand := 1 } (c.strand 1) (abandonAll die slot core c s)

/-- What H and A of a core hold leaves at once: the core loses them (07 R187; log 8). -/
def drainAll (die core : Nat) (s : State) : State :=
  let out := fun (s : State) (n : Nat) =>
    ((s.strand die core n).held.foldl (homeWrite die core) s).modStrand die core n fun t => { t with held := [] }
  out (out s 0) 1

/-- The cores of a context that is torn down end their iterations, without a completion. -/
def tearCores (die slot : Nat) (s : State) : State :=
  let away := (s.die die).parked.filter fun x => decide (x.1 < 2048) && decide (x.1 % 16 = slot)
  let s := away.foldl (fun s x => endImage die slot (x.1 / 16) x.2 s) s
  (coresOf die slot s).foldl (fun s n =>
    let s := drainAll die n s
    let s := endImage die slot n (s.core die n) s
    checkSwitch die n (s.modCore die n fun c => { ({} : Core).keepOwn c with freeFrom := (s.die die).cyc + 1 })) s

/-- The rings of a context that is torn down: untaken and held commands are discarded without signals, windows that were
started add nothing, and a drill ring's allotment becomes +0 (08 R198, 10 R264). -/
def tearRing (die n : Nat) (s : State) : State :=
  let s := logRingWait die n s
  let s := if n < 4 then
      let s := (s.drill die n).taken.foldl (fun s t => unpinNext die t s) s
      let s := s.modDrill die n fun d =>
        { d with taken := [], stash := [], wins := d.wins.map fun w => { w with dead := true } }
      accClear die (allotFirst die n s) (allotSize die n s) s
    else s
  s.modRing die n fun r => { r with head := r.tail, ret := r.tail, loop := none, granted := false, state := if r.state = 3 then 3 else 0 }

/-- Tear down: `OP` 5. -/
def tearDown (die slot : Nat) (s : State) : State :=
  let s := s.modCtx die slot fun c =>
    { c with state := 7, evWait := [], evRing := [], evSeen := [], evSpill := [], evAllSpill := false, heldReplies := [],
             fwRecs := [], posts := [], unexp := [], comps := [], pulls := [], pulling := [], saved := [] }
  let mine := (List.range 20).filter fun n => (s.ring die n).en && decide ((s.ring die n).owner = slot)
  let s := mine.foldl (fun s n => tearRing die n s) (tearCores die slot s)
  let runs := (s.die die).clusters.flatMap fun (cl, c) => (c.copies.filter fun x => x.2.sub.slot = slot).map fun x => (cl, x.2)
  let s := runs.foldl (fun s x => endRun die x.1 x.2 s) s
  let s := s.modDie die fun d =>
    { d with
      tasks := d.tasks.filter fun t => t.slot ≠ slot
      streams := d.streams.map fun (n, t) => (n, if t.busy ∧ t.slot = slot then {} else t)
      cores := d.cores.map fun (n, c) => (n, { c with port := c.port.filter fun x => x.slot ≠ slot })
      cqs := d.cqs.filter fun x => x.1 / 64 ≠ slot }
  (ownTiles die slot s).foldl (fun s k => freeTile die k s) s

/-- `TEARDOWN_COMPLETE`: with its engines stopped, the slot of the unit number is empty (15 R378). -/
def execTeardownComplete (s : State) : Host.Outcome State Fault Refusal :=
  let die := s.cur.die
  let slot := s.cur.unit % 16
  let busy := (List.range 4).any fun k => decide ((s.ring die k).owner = slot) && !(s.drill die k).wins.isEmpty
  if (s.ctx die slot).state ≠ 7 || busy then stay s
  else act (checkSwitches die (clearChecks die slot ((clearSlot die slot s).modCtx die slot fun _ => {})))

/-! ### `CTXCTL` (15 R377) -/

/-- Whether an `OP` is allowed from a state. -/
def ctxctlFrom (op st : Nat) : Bool :=
  match op with
  | 1 => st = 1
  | 2 => st = 1 || st = 4
  | 3 => st = 4
  | 4 => st = 0
  | 5 => st ≠ 0
  | _ => st = 0

/-- Write `CTXCTL`. -/
def writeCtxctl (die : Nat) (v : Word) (s : State) : Eff := do
  let op := fld v 4 4
  let slot := fld v 0 4
  need (fld v 32 32 = 0 && fld v 9 7 = 0 && decide (1 ≤ op ∧ op ≤ 6) && (op = 6 || (fld v 16 16 = 0 && !bit v 8))) cReservedField
  need (ctxctlFrom op (s.ctx die slot).state) cIllegalOperand
  match op with
  | 1 => .ok (startPreempt die slot cPreempt 0x7F s)
  | 2 => evictCtx die slot s
  | 3 => .ok (resumeCtx die slot s)
  | 4 => .ok (startRestore die slot s)
  | 5 => (serve die (thingLaunch slot) 1 s).map (tearDown die slot)
  | _ => .ok (createCtx die slot (v.extractLsb' 16 16) (bit v 8) s)

/-- `CTXCTL` written by the supervisor for the context of the unit number, with an `OP`; a gives `JOB` in [15:0] and `SUP` in
[16]. -/
def ctxctlEvent (op : Nat) (s : State) : Host.Outcome State Fault Refusal :=
  let a := s.hand.ev.a
  hostWriteOf s (writeCtxctl s.cur.die
    (BitVec.ofNat 64 ((if op = 6 then fld a 0 16 * 2 ^ 16 + fld a 16 1 * 2 ^ 8 else 0) + op * 16 + s.cur.unit % 16)) s)

/-- `CTXCTL_PREEMPT` (15 R380). -/
def execCtxctlPreempt (s : State) : Host.Outcome State Fault Refusal := ctxctlEvent 1 s
/-- `CTXCTL_EVICT` (15 R377). -/
def execCtxctlEvict (s : State) : Host.Outcome State Fault Refusal := ctxctlEvent 2 s
/-- `CTXCTL_RESUME` (15 R382). -/
def execCtxctlResume (s : State) : Host.Outcome State Fault Refusal := ctxctlEvent 3 s
/-- `CTXCTL_RESTORE` (15 R377, R385). -/
def execCtxctlRestore (s : State) : Host.Outcome State Fault Refusal := ctxctlEvent 4 s
/-- `CTXCTL_TEARDOWN` (12 R321). -/
def execCtxctlTeardown (s : State) : Host.Outcome State Fault Refusal := ctxctlEvent 5 s
/-- `CTXCTL_CREATE` (15 R379). -/
def execCtxctlCreate (s : State) : Host.Outcome State Fault Refusal := ctxctlEvent 6 s

/-- `sve`'s effect: the stopped save of a slot goes on from the offset in `SVST`, and lands its new value (15 R386). -/
def resumeSave (die slot : Nat) (s : State) : Except Stop (Word × State) := do
  need ((s.ctx die slot).state = 5) cIllegalOperand
  let off := fld ((s.ctx die slot).reg 0x017) 0 48
  let s ← runSave die slot off (setSvst die slot 1 0 off (s.modCtx die slot fun c => { c with state := 3 }))
  .ok ((s.ctx die slot).reg 0x017, s)

end Sys2Proof.Machine
end

