-- ==== Sys2Proof/Machine/Control.lean ====
section
/-! DEFINITION. The control and strand-sync instructions, 0x040 to 0x04F (04 R89 to R103). -/

namespace Sys2Proof.Machine

namespace Forms

/-- `nop` (04 R90): it may stand under a guard (log 3). -/
def nop : Form := { strands := onHAE, dst := [.none] }
/-- `br` and `call`: X is the offset (04 R90). -/
def direct : Form := { strands := onHAE, dst := [.none], x := anyX, branch := true }
/-- `jl`, `jmp`, `callr` (04 R90). -/
def indirect : Form := { strands := onHAE, dst := [.none], a := .s, branch := true }
/-- `ret` (04 R90): it may stand under a guard (log 3). -/
def ret : Form := { strands := onHAE, dst := [.none], branch := true }
/-- `rpt` (04 R90). -/
def rpt : Form := { strands := onHAE, dst := [.none], a := .sNoX, x := fun _ x => fld x 9 7 = 0, branch := true }
/-- `fork` (04 R93). -/
def fork : Form := { strands := onE, dst := [.none], x := anyX, unguarded := true }
/-- `rejoin` (04 R94, R95). -/
def rejoin : Form := { strands := onE, dst := [.none], c := .sel 15, x := anyX, unguarded := true }
/-- `sbset` and `sbclr` (04 R94). -/
def sb : Form := { strands := onE, dst := [.none], c := .sel 15 }
/-- `sbwait` (04 R94). -/
def sbwait : Form := { strands := onE, dst := [.none], c := .sel 15, x := fun _ x => fld x 1 15 = 0 }
/-- `seg` (04 R100). -/
def seg : Form := { strands := onHAE, dst := [.none], x := fun _ x => x ≠ 0#16, unguarded := true }
/-- `segend` (04 R101). -/
def segend : Form := { strands := onHAE, dst := [.none], a := .cbank, unguarded := true }
/-- `done` (04 R103). -/
def done : Form := { strands := onHAE, dst := [.none], unguarded := true }

end Forms

/-- Cycles to the next issue after a direct control instruction of a hint, taken or not (04 R91). -/
def directGap (bh : BitVec 2) (taken : Bool) : Nat :=
  match bh.toNat, taken with
  | 0, false => 1 | 1, false => 1 | 2, false => 4 | 3, false => 1
  | 0, true => 4 | 1, true => 4 | _, _ => 1

/-- Cycles to the next issue after an indirect control instruction under a false guard: where its hint is `0b10` or `0b11`, no
row but that of the indirect ones names it (04 R91). -/
def indirectGap (bh : BitVec 2) : Nat := if bh.toNat < 2 then 1 else 3

/-- Set how long the next unit waits. -/
def setGap (n : Nat) (s : State) : State := { s with cur := { s.cur with gap := n } }

/-- Write a link to `s30` of a strand: on an E strand it lands at the end of the issue cycle, as a result of latency 1 does
(02 R46, 04 R89; log 3). -/
def linkTo (op : Nat) (w : StrandWord) (next ipc : Word) (t : Nat) (c : Core) (n : Nat) : Core :=
  if n < 2 then c.modStrand n fun x => x.setSreg 30 next
  else { c with flights := c.flights ++ [{ due := t, strand := n, op, w, caps := { a := ofWord next }, ipc, iss := t + 1 }] }

/-- Transfer to a target aligned to the unit; `link` is the opcode and the word of a control instruction that writes a link
(04 R89). -/
def jumpTo (target : Word) (gap : Nat) (link : Option (Nat × StrandWord)) (s : State) : Eff := do
  need (target.toNat % unitBytes s = 0) cAlign
  let next := s.cur.pc + BitVec.ofNat 64 (unitBytes s)
  let s := match link with
    | some (op, w) => s.modMyCore fun c => (unitStrands s).foldl (linkTo op w next s.cur.pc s.cyc) c
    | none => s
  .ok { s with cur := { s.cur with npc := target, gap, taken := true } }

/-- An indirect control instruction: its effect, or the wait of one under a false guard (02 R39, 04 R91). -/
def issueIndirect (f : Form) (w : StrandWord) (eff : State → Eff) (s : State) : Host.Outcome State Fault Refusal :=
  settle s (do
    checkWord f w s
    if guardHolds w s then eff s else .ok (setGap (indirectGap w.bh) s))

/-- The target of a direct control instruction (04 R89, R90). -/
def directTarget (w : StrandWord) (s : State) : Word := s.cur.pc + BitVec.ofInt 64 (w.x.toInt * 8)

/-- `nop` (04 R90). -/
def execNop (w : StrandWord) (s : State) : Host.Outcome State Fault Refusal := issue Forms.nop w .ok s

/-- `br`: a false guard is the not-taken outcome (04 R90, R91). -/
def execBr (w : StrandWord) (s : State) : Host.Outcome State Fault Refusal :=
  settle s (do
    checkWord Forms.direct w s
    if guardHolds w s then jumpTo (directTarget w s) (directGap w.bh true) none s
    else .ok (setGap (directGap w.bh false) s))

/-- `jl` (04 R90): modulo 2^64. -/
def execJl (w : StrandWord) (s : State) : Host.Outcome State Fault Refusal :=
  issueIndirect Forms.indirect w (fun s => do
    let (k, s) ← capture Forms.indirect id w s
    jumpTo (s.cur.pc + lo64 k.a * 8) 3 none s) s

/-- `jmp` (04 R90). -/
def execJmp (w : StrandWord) (s : State) : Host.Outcome State Fault Refusal :=
  issueIndirect Forms.indirect w (fun s => do
    let (k, s) ← capture Forms.indirect id w s
    jumpTo (lo64 k.a) 3 none s) s

/-- `call` (04 R90). -/
def execCall (w : StrandWord) (s : State) : Host.Outcome State Fault Refusal :=
  settle s (do
    checkWord Forms.direct w s
    if guardHolds w s then jumpTo (directTarget w s) (directGap w.bh true) (some (0x044, w)) s
    else .ok (setGap (directGap w.bh false) s))

/-- `callr`: the target is read at issue (04 R90). -/
def execCallr (w : StrandWord) (s : State) : Host.Outcome State Fault Refusal :=
  issueIndirect Forms.indirect w (fun s => do
    let (k, s) ← capture Forms.indirect id w s
    jumpTo (lo64 k.a) 3 (some (0x045, w)) s) s

/-- `ret` (04 R90). -/
def execRet (w : StrandWord) (s : State) : Host.Outcome State Fault Refusal :=
  issueIndirect Forms.ret w (fun s => jumpTo (s.me.sreg 30) 3 none s) s

/-- `rpt`: the body runs count times; a count of zero skips it (04 R92, R91). -/
def execRpt (w : StrandWord) (s : State) : Host.Outcome State Fault Refusal :=
  settle s (do
    checkWord Forms.rpt w s
    if guardHolds w s then
      need (!s.me.rpt.active) cIllegalOperand
      let (k, s) ← capture Forms.rpt id w s
      let n := fld w.x 0 9 + 1
      let count := zx (lo64 k.a) 32
      if count = 0 then
        .ok { s with cur := { s.cur with npc := s.cur.pc + BitVec.ofNat 64 (unitBytes s * (n + 1)),
                                         gap := directGap w.bh true } }
      else
        .ok { s with cur := { s.cur with gap := directGap w.bh false,
                                         newRpt := some { active := true, n, pos := 0, left := count } } }
    else .ok (setGap (directGap w.bh false) s))

/-- `fork`: in all four words of a bundle, each strand goes on apart at its own target in cycle c + 3 (04 R92, R93). -/
def execFork (w : StrandWord) (s : State) : Host.Outcome State Fault Refusal :=
  issue Forms.fork w (fun s => do
    need (s.cur.bundle && s.cur.ops = [0x048, 0x048, 0x048, 0x048] && !s.me.rpt.active) cIllegalOperand
    let target := directTarget w s
    let s := s.modMe fun t => { t with pc := target, run := .running, ready := s.cyc + 3 }
    let s := if s.cur.strand = 5 then s.modMyCore fun c => { c with lock := false } else s
    .ok { s with cur := { s.cur with whole := true } }) s

/-- The E strands enter lock-step state at a target (04 R95). -/
def enterLock (target : Word) (n : Nat) (s : State) : State :=
  s.modMyCore fun c =>
    let c := { c with lock := true, sbArr := Tab.put c.sbArr n 0#4 }
    [2, 3, 4, 5].foldl (fun c i => c.modStrand i fun t => { t with pc := target, run := .running, ready := s.cyc + 3 }) c

/-- `rejoin` (04 R92, R94, R95). -/
def execRejoin (w : StrandWord) (s : State) : Host.Outcome State Fault Refusal :=
  issue Forms.rejoin w (fun s => do
    need (!s.myCore.lock && !s.me.rpt.active) cIllegalOperand
    let target := directTarget w s
    need (target.toNat % 32 = 0) cAlign
    let n := w.c.idx.toNat
    let arr := (Tab.get 0#4 s.myCore.sbArr n).toNat ||| 2 ^ (s.cur.strand - 2)
    let tgts := Tab.put s.myCore.sbTgt s.cur.strand target
    if arr = 15 then
      need ([2, 3, 4, 5].all fun i => Tab.get 0 tgts i = target) cIllegalOperand
      .ok { enterLock target n s with cur := { s.cur with whole := true } }
    else
      let s := s.modMyCore fun c => { c with sbArr := Tab.put c.sbArr n (BitVec.ofNat 4 arr), sbTgt := tgts }
      let s := s.modMe fun t => { t with run := .blocked 4 n }
      .ok { s with cur := { s.cur with whole := true } }) s

/-- `sbset`: the value is 1 at the end of the cycle (04 R94). -/
def execSbset (w : StrandWord) (s : State) : Host.Outcome State Fault Refusal :=
  issue Forms.sb w (fun s => .ok (s.modMyCore fun c => { c with sbSet := setFld c.sbSet w.c.idx.toNat 1 1 })) s

/-- `sbclr` (04 R94). -/
def execSbclr (w : StrandWord) (s : State) : Host.Outcome State Fault Refusal :=
  issue Forms.sb w (fun s => .ok (s.modMyCore fun c => { c with sbClr := setFld c.sbClr w.c.idx.toNat 1 1 })) s

/-- `sbwait`: it issues in the first cycle whose start finds the value (04 R94). -/
def execSbwait (w : StrandWord) (s : State) : Host.Outcome State Fault Refusal :=
  issue Forms.sbwait w (fun s => do
    orWait (bit s.myCore.sbVal w.c.idx.toNat = bit w.x 0) 3 w.c.idx.toNat
    .ok s) s

/-- `seg` and `segend` on E strands stand in the E0 word of a bundle with `nop` in the others (04 R100). -/
def segPlace (op : Nat) (s : State) : Bool :=
  s.cur.strand < 2 || (s.cur.bundle && s.cur.strand = 2 && s.cur.ops = [op, 0x040, 0x040, 0x040])

/-- Update every strand a segment instruction acts for: all four E strands in lock-step (04 R100). -/
def modUnit (f : Strand → Strand) (s : State) : State :=
  (unitStrands s).foldl (fun s n => s.modStrand s.cur.die s.cur.core n f) s

/-- `seg`: opens a segment; while a switch is pending the strand parks before it (04 R92, R100, R102). -/
def execSeg (w : StrandWord) (s : State) : Host.Outcome State Fault Refusal :=
  issue Forms.seg w (fun s => do
    need (segPlace 0x04D s && !s.me.rpt.active && s.me.seg.isNone) cIllegalOperand
    if s.myCore.incoming.isSome && s.myCore.frame.isNone then
      .ok { modUnit (fun t => { t with run := .parked }) s with cur := { s.cur with whole := true } }
    else
      let s := modUnit (fun t => { t with seg := some { cost := w.x.toNat, lead := false } }) s
      .ok (s.modMe fun t => { t with seg := some { cost := w.x.toNat } })) s

/-- The live set of a descriptor's entries (04 R101). -/
def liveOf (d v : Word) : LiveSet :=
  { s := d.extractLsb' 0 32, p := d.extractLsb' 32 8, m := d.extractLsb' 40 8, v := v.extractLsb' 0 32 }

/-- `segend`: closes the segment; a pending switch parks the strand after it (04 R101, R102). -/
def execSegend (w : StrandWord) (s : State) : Host.Outcome State Fault Refusal :=
  issue Forms.segend w (fun s => do
    let n := w.a.idx.toNat
    let isE := decide (2 ≤ s.cur.strand)
    need (segPlace 0x04E s && !s.me.rpt.active && s.me.seg.isSome && !(isE && n = 63)) cIllegalOperand
    let d := s.myCore.cb s.me n
    let v := if isE then s.myCore.cb s.me (n + 1) else 0
    need (fld d 48 16 = 0 && fld v 32 32 = 0 && (isE || fld d 40 8 = 0)) cReservedField
    let park := s.myCore.incoming.isSome && s.myCore.frame.isNone
    .ok (modUnit (fun t => { t with seg := none, live := liveOf d v, run := if park then .parked else t.run }) s)) s

/-- `done`: the strand's joined team slots leave first; then its part of the iteration ends, and the iteration with the sixth
(04 R103, 01 R27, 12 R322). -/
def execDone (w : StrandWord) (s : State) : Host.Outcome State Fault Refusal :=
  issue Forms.done w (fun s => do
    need (s.me.seg.isNone && !s.me.rpt.active &&
      (s.cur.strand < 2 || !s.cur.bundle || s.cur.ops = [0x04F, 0x04F, 0x04F, 0x04F])) cIllegalOperand
    leaveSlots [0, 1, 2, 3] (fun s =>
      let s := (release s).modMe fun t => { t with run := .done }
      if (List.range 6).all fun n => (s.myCore.strand n).run = .done then
        .ok { endIteration s.cur.die s.cur.core s with cur := { s.cur with whole := true } }
      else .ok s) s) s

end Sys2Proof.Machine
end

