-- ==== Sys2Proof/Machine/Vector.lean ====
section
/-! DEFINITION. The vector and mask instructions, 0x060 to 0x090 (05 R109 to R123, R131). -/

namespace Sys2Proof.Machine

/-- The format a floating literal of a vector opcode is converted to (05 R111): the default is `f32`. -/
def vecLit (fmt : Nat) : Nat := if fmt = 0 then 1 else fmt

/-- A vector instruction that lands a result (05 R131). -/
def issueVec (f : Form) (op lat : Nat) (w : StrandWord) (s : State) : Host.Outcome State Fault Refusal :=
  issue f w (fun s => do
    let (k, s) ← capture f vecLit w s
    deliver op lat w k s) s

/-- A special function: it occupies the strand's unit for 4 cycles, and a second one waits (05 R116). -/
def issueSfn (f : Form) (op : Nat) (w : StrandWord) (s : State) : Host.Outcome State Fault Refusal :=
  issue f w (fun s => do
    orWait (decide (s.me.sfuFree ≤ s.cyc)) 10 0
    let (k, s) ← capture f vecLit w s
    deliver op 8 w k (s.modMe fun t => { t with sfuFree := s.cyc + 4 })) s

/-- A reduction: `.amax` under a format the table resolves to an integer is illegal too (05 R122). -/
def issueRed (f : Form) (op lat : Nat) (w : StrandWord) (s : State) : Host.Outcome State Fault Refusal :=
  issue f w (fun s => do
    let (k, s) ← capture f vecLit w s
    need (!(w.c.idx = 3#6 && (k.fmt = 12 || k.fmt = 13))) cIllegalOperand
    deliver op lat w k s) s


/-- `vadd` (05 R115). -/
def execVadd (w : StrandWord) (s : State) : Host.Outcome State Fault Refusal :=
  issueVec Forms.vadd 96 4 w s

/-- `vsub` (05 R115). -/
def execVsub (w : StrandWord) (s : State) : Host.Outcome State Fault Refusal :=
  issueVec Forms.vsub 97 4 w s

/-- `vmul` (05 R115). -/
def execVmul (w : StrandWord) (s : State) : Host.Outcome State Fault Refusal :=
  issueVec Forms.vmul 98 4 w s

/-- `vfma` (05 R115). -/
def execVfma (w : StrandWord) (s : State) : Host.Outcome State Fault Refusal :=
  issueVec Forms.vfma 99 4 w s

/-- `vfms` (05 R115). -/
def execVfms (w : StrandWord) (s : State) : Host.Outcome State Fault Refusal :=
  issueVec Forms.vfms 100 4 w s

/-- `vfnma` (05 R115). -/
def execVfnma (w : StrandWord) (s : State) : Host.Outcome State Fault Refusal :=
  issueVec Forms.vfnma 101 4 w s

/-- `vmin` (05 R115). -/
def execVmin (w : StrandWord) (s : State) : Host.Outcome State Fault Refusal :=
  issueVec Forms.vmin 102 4 w s

/-- `vmax` (05 R115). -/
def execVmax (w : StrandWord) (s : State) : Host.Outcome State Fault Refusal :=
  issueVec Forms.vmax 103 4 w s

/-- `vabs` (05 R115). -/
def execVabs (w : StrandWord) (s : State) : Host.Outcome State Fault Refusal :=
  issueVec Forms.vabs 104 4 w s

/-- `vneg` (05 R115). -/
def execVneg (w : StrandWord) (s : State) : Host.Outcome State Fault Refusal :=
  issueVec Forms.vneg 105 4 w s

/-- `vamax` (05 R115). -/
def execVamax (w : StrandWord) (s : State) : Host.Outcome State Fault Refusal :=
  issueVec Forms.vamax 106 4 w s

/-- `vrcp` (05 R116). -/
def execVrcp (w : StrandWord) (s : State) : Host.Outcome State Fault Refusal :=
  issueSfn Forms.vrcp 107 w s

/-- `vrsq` (05 R116). -/
def execVrsq (w : StrandWord) (s : State) : Host.Outcome State Fault Refusal :=
  issueSfn Forms.vrsq 108 w s

/-- `vsqrt` (05 R116). -/
def execVsqrt (w : StrandWord) (s : State) : Host.Outcome State Fault Refusal :=
  issueSfn Forms.vsqrt 109 w s

/-- `vexp2` (05 R116). -/
def execVexp2 (w : StrandWord) (s : State) : Host.Outcome State Fault Refusal :=
  issueSfn Forms.vexp2 110 w s

/-- `vlog2` (05 R116). -/
def execVlog2 (w : StrandWord) (s : State) : Host.Outcome State Fault Refusal :=
  issueSfn Forms.vlog2 111 w s

/-- `vtanh` (05 R116). -/
def execVtanh (w : StrandWord) (s : State) : Host.Outcome State Fault Refusal :=
  issueSfn Forms.vtanh 112 w s

/-- `vsigm` (05 R116). -/
def execVsigm (w : StrandWord) (s : State) : Host.Outcome State Fault Refusal :=
  issueSfn Forms.vsigm 113 w s

/-- `verf` (05 R116). -/
def execVerf (w : StrandWord) (s : State) : Host.Outcome State Fault Refusal :=
  issueSfn Forms.verf 114 w s

/-- `vsin2` (05 R116). -/
def execVsin2 (w : StrandWord) (s : State) : Host.Outcome State Fault Refusal :=
  issueSfn Forms.vsin2 115 w s

/-- `vcmp` (05 R117). -/
def execVcmp (w : StrandWord) (s : State) : Host.Outcome State Fault Refusal :=
  issueVec Forms.vcmp 116 4 w s

/-- `vsel` (05 R118). -/
def execVsel (w : StrandWord) (s : State) : Host.Outcome State Fault Refusal :=
  issueVec Forms.vsel 117 4 w s

/-- `vand` (05 R118). -/
def execVand (w : StrandWord) (s : State) : Host.Outcome State Fault Refusal :=
  issueVec Forms.vand 118 4 w s

/-- `vor` (05 R118). -/
def execVor (w : StrandWord) (s : State) : Host.Outcome State Fault Refusal :=
  issueVec Forms.vor 119 4 w s

/-- `vxor` (05 R118). -/
def execVxor (w : StrandWord) (s : State) : Host.Outcome State Fault Refusal :=
  issueVec Forms.vxor 120 4 w s

/-- `vshl` (05 R119). -/
def execVshl (w : StrandWord) (s : State) : Host.Outcome State Fault Refusal :=
  issueVec Forms.vshl 121 4 w s

/-- `vshr` (05 R119). -/
def execVshr (w : StrandWord) (s : State) : Host.Outcome State Fault Refusal :=
  issueVec Forms.vshr 122 4 w s

/-- `vsra` (05 R119). -/
def execVsra (w : StrandWord) (s : State) : Host.Outcome State Fault Refusal :=
  issueVec Forms.vsra 123 4 w s

/-- `viadd` (05 R119). -/
def execViadd (w : StrandWord) (s : State) : Host.Outcome State Fault Refusal :=
  issueVec Forms.viadd 124 4 w s

/-- `visub` (05 R119). -/
def execVisub (w : StrandWord) (s : State) : Host.Outcome State Fault Refusal :=
  issueVec Forms.visub 125 4 w s

/-- `vimul` (05 R119). -/
def execVimul (w : StrandWord) (s : State) : Host.Outcome State Fault Refusal :=
  issueVec Forms.vimul 126 4 w s

/-- `vimad` (05 R119). -/
def execVimad (w : StrandWord) (s : State) : Host.Outcome State Fault Refusal :=
  issueVec Forms.vimad 127 4 w s

/-- `vimin` (05 R119). -/
def execVimin (w : StrandWord) (s : State) : Host.Outcome State Fault Refusal :=
  issueVec Forms.vimin 128 4 w s

/-- `vimax` (05 R119). -/
def execVimax (w : StrandWord) (s : State) : Host.Outcome State Fault Refusal :=
  issueVec Forms.vimax 129 4 w s

/-- `vdot4` (05 R120). -/
def execVdot4 (w : StrandWord) (s : State) : Host.Outcome State Fault Refusal :=
  issueVec Forms.vdot4 130 4 w s

/-- `vred` (05 R122). -/
def execVred (w : StrandWord) (s : State) : Host.Outcome State Fault Refusal :=
  issueRed Forms.vred 131 8 w s

/-- `vscan` (05 R122). -/
def execVscan (w : StrandWord) (s : State) : Host.Outcome State Fault Refusal :=
  issueRed Forms.vscan 132 10 w s

/-- `vperm` (05 R123). -/
def execVperm (w : StrandWord) (s : State) : Host.Outcome State Fault Refusal :=
  issueVec Forms.vperm 133 5 w s

/-- `vshuf` (05 R123). -/
def execVshuf (w : StrandWord) (s : State) : Host.Outcome State Fault Refusal :=
  issueVec Forms.vshuf 134 5 w s

/-- `vbcast` (05 R118). -/
def execVbcast (w : StrandWord) (s : State) : Host.Outcome State Fault Refusal :=
  issueVec Forms.vbcast 135 4 w s

/-- `vext` (05 R118). -/
def execVext (w : StrandWord) (s : State) : Host.Outcome State Fault Refusal :=
  issueVec Forms.vext 136 4 w s

/-- `vins` (05 R118). -/
def execVins (w : StrandWord) (s : State) : Host.Outcome State Fault Refusal :=
  issueVec Forms.vins 137 4 w s

/-- `vmov` (05 R118). -/
def execVmov (w : StrandWord) (s : State) : Host.Outcome State Fault Refusal :=
  issueVec Forms.vmov 138 4 w s

/-- `vround` (05 R118). -/
def execVround (w : StrandWord) (s : State) : Host.Outcome State Fault Refusal :=
  issueVec Forms.vround 139 4 w s

/-- `vclass` (05 R118). -/
def execVclass (w : StrandWord) (s : State) : Host.Outcome State Fault Refusal :=
  issueVec Forms.vclass 140 4 w s

/-- `vlane` (05 R118). -/
def execVlane (w : StrandWord) (s : State) : Host.Outcome State Fault Refusal :=
  issueVec Forms.vlane 141 4 w s

/-- `mop` (05 R121). -/
def execMopTable (w : StrandWord) (s : State) : Host.Outcome State Fault Refusal :=
  issueRes Forms.mopTable 142 1 w s

/-- `mop` (05 R121). -/
def execMopMove (w : StrandWord) (s : State) : Host.Outcome State Fault Refusal :=
  issueRes Forms.mopMove 142 1 w s

/-- `mpop` (05 R121). -/
def execMpop (w : StrandWord) (s : State) : Host.Outcome State Fault Refusal :=
  issueRes Forms.mpop 143 1 w s

/-- `vclamp` (05 R115). -/
def execVclamp (w : StrandWord) (s : State) : Host.Outcome State Fault Refusal :=
  issueVec Forms.vclamp 144 4 w s


end Sys2Proof.Machine
end

