-- ==== Sys2Proof/Machine/Convert.lean ====
section
/-! DEFINITION. The conversion instructions, 0x0C0 to 0x0C6 (05 R124 to R131). -/

namespace Sys2Proof.Machine

/-- The source code of `vcvt`: selector C, or the format table's entry for 63 (05 R124; 02 R50). -/
def cvtSource (w : StrandWord) (s : State) : Except Stop Nat :=
  if w.c.idx = 63#6 then do
    let e ← resolveFmt Forms.vcvt 63 s
    .ok e
  else .ok w.c.idx.toNat

/-- `vcvt` (05 R124): a literal is read in the source format. -/
def execVcvt (w : StrandWord) (s : State) : Host.Outcome State Fault Refusal :=
  issue Forms.vcvt w (fun s => do
    let src ← cvtSource w s
    let (k, s) ← capture Forms.vcvt (fun _ => src) w s
    deliver 0x0C0 4 w { k with c := BitVec.ofNat 1024 src } s) s

/-- `vpack` (05 R126). -/
def execVpack (w : StrandWord) (s : State) : Host.Outcome State Fault Refusal :=
  issueVec Forms.vpack 0x0C1 4 w s

/-- `vunpk` (05 R126). -/
def execVunpk (w : StrandWord) (s : State) : Host.Outcome State Fault Refusal :=
  issue Forms.vunpk w (fun s => do
    let (k, s) ← capture Forms.vunpk vecLit w s
    need (decide (w.c.idx.toNat < 32 / elemBits k.fmt)) cIllegalOperand
    deliver 0x0C2 4 w k s) s

/-- `vqnt`: its operand is the three registers from A on (05 R128). -/
def execVqnt (w : StrandWord) (s : State) : Host.Outcome State Fault Refusal :=
  issue Forms.vqnt w (fun s => do
    let (k, s) ← capture Forms.vqnt vecLit w s
    let n := w.a.idx.toNat
    deliver 0x0C3 10 w { k with b := s.me.vreg (n + 1), c := s.me.vreg (n + 2) } s) s

/-- `vdqnt` (05 R129). -/
def execVdqnt (w : StrandWord) (s : State) : Host.Outcome State Fault Refusal :=
  issueVec Forms.vdqnt 0x0C4 6 w s

/-- `vscal` (05 R127). -/
def execVscal (w : StrandWord) (s : State) : Host.Outcome State Fault Refusal :=
  issueVec Forms.vscal 0x0C5 4 w s

/-- `vlat` (05 R130): a `b8` activation format has no weight type. -/
def execVlat (w : StrandWord) (s : State) : Host.Outcome State Fault Refusal :=
  issue Forms.vlat w (fun s => do
    let (k, s) ← capture Forms.vlat vecLit w s
    need (!(k.fmt = 20 && fld k.x 6 2 ≠ 0)) cIllegalOperand
    deliver 0x0C6 6 w k s) s

end Sys2Proof.Machine
end

