-- ==== Sys2Proof/Machine/Debug.lean ====
section
/-!
DEFINITION. The debug and monitor instructions 0x1B0 to 0x1B5, the fallow wave's phases, single step, resume, the trace
buffer's configuration, the wait-for log's, and clock freeze (16 R391 to R415, R420; log 17).
-/

namespace Sys2Proof.Machine

namespace Forms

/-- `brk` and `fallow` (16 R394). -/
def brk : Form := { strands := onHAE, dst := [.none], x := anyX }
/-- `cntrd` and `wfgrd`: on H and A, and on A. -/
def cntrd : Form := { strands := onHA, dst := [.scal], a := .s }
/-- `cntsel`. -/
def cntsel : Form := { strands := onA, dst := [.none], a := .s, b := .s, sup := true }
/-- `wfgrd`. -/
def wfgrd : Form := { strands := onA, dst := [.scal], a := .s }
/-- `trmark`. -/
def trmark : Form := { strands := onHAE, dst := [.none], a := .s }

end Forms

/-! ### The instructions (16 R394 to R395, R409 to R415) -/

/-- `brk` (16 R395). -/
def execBrk (w : StrandWord) (s : State) : Host.Outcome State Fault Refusal :=
  issue Forms.brk w (fun s => .ok (trapAfter cBreakpoint (w.x.setWidth 64) s)) s

/-- `fallow` (16 R409). -/
def execFallow (w : StrandWord) (s : State) : Host.Outcome State Fault Refusal :=
  issue Forms.brk w (fun s => .ok (trapAfter cFallow (w.x.setWidth 64) s)) s

/-- An event counter of a die. -/
def Die.counter (d : Die) (n : Nat) : Counter := Tab.get {} d.counters n

/-- `cntrd` (16 R412). -/
def execCntrd (w : StrandWord) (s : State) : Host.Outcome State Fault Refusal :=
  issue Forms.cntrd w (fun s => do
    let (k, s) ← capture Forms.cntrd id w s
    let n := (lo64 k.a).toNat
    need (decide (n ≤ 63)) cIllegalOperand
    let c := (s.die s.cur.die).counter n
    landWord 0x1B2 1 w (BitVec.ofNat 64 (b2n c.ovf * 2 ^ 63 + c.count % 2 ^ 48)) s) s

/-- The event codes that have a meaning (16 R411). -/
def eventCodes : List Nat :=
  [0x001, 0x002, 0x003, 0x004, 0x010, 0x011, 0x012, 0x013, 0x020, 0x021, 0x030, 0x031, 0x032, 0x040, 0x041, 0x042, 0x050,
   0x051, 0x060, 0x061, 0x062]

/-- `cntsel`: the configuration applies from the next cycle (16 R410). -/
def execCntsel (w : StrandWord) (s : State) : Host.Outcome State Fault Refusal :=
  issue Forms.cntsel w (fun s => do
    let (k, s) ← capture Forms.cntsel id w s
    let n := (lo64 k.a).toNat
    let v := lo64 k.b
    need (decide (n ≤ 63)) cIllegalOperand
    need (fld v 12 36 = 0 && eventCodes.contains (fld v 0 12)) cReservedField
    .ok (s.modDie s.cur.die fun d => { d with counters := Tab.put d.counters n { d.counter n with next := some v } })) s

/-- What `wfgrd` lands for a position (16 R415). -/
def wfgrdWord (s : State) (n : Nat) : Word :=
  let d := s.die s.cur.die
  if n = 4096 then BitVec.ofNat 64 (d.wflost % 2 ^ 32 * 2 ^ 32 + d.wflog.length)
  else
    let r := d.wflog.getD n 0
    if fld r 60 4 = s.mySlot ∨ s.sup then r else 0

/-- `wfgrd` (16 R415). -/
def execWfgrd (w : StrandWord) (s : State) : Host.Outcome State Fault Refusal :=
  issue Forms.wfgrd w (fun s => do
    let (k, s) ← capture Forms.wfgrd id w s
    let n := (lo64 k.a).toNat
    need (decide (n ≤ 4096)) cIllegalOperand
    landWord 0x1B4 1 w (wfgrdWord s n) s) s

/-- `trmark` (16 R414): the marks of a cycle are written at its end, in ascending agent identity. -/
def execTrmark (w : StrandWord) (s : State) : Host.Outcome State Fault Refusal :=
  issue Forms.trmark w (fun s => do
    let (k, s) ← capture Forms.trmark id w s
    let d := s.die s.cur.die
    if !bit (d.dbgReg 0x860) 63 then .ok s
    else
      let who := agentStrand s.cur.core s.cur.strand
      let w0 : Word := BitVec.ofNat 64 (who % 4096 * 2 ^ 52 + s.mySlot % 16 * 2 ^ 48 + zx k.a 32)
      .ok (s.modDie s.cur.die fun d => { d with marks := d.marks ++ [(who, w0, d.ftime)] })) s

/-! ### `TRCFG`, `WFCTL` (16 R413, R415) -/

/-- `TRIDX`. -/
def tridxWord (d : Die) : Word := BitVec.ofNat 64 (d.trLost % 2 ^ 32 * 2 ^ 32 + d.trTail % 2 ^ 32)

/-- Whether n bytes at a die-common offset lie in some context's `DCMWIN`. -/
def inSomeWin (s : State) (die off n : Nat) : Bool := (List.range 16).any fun k => inDcmWin (s.ctx die k) off n

/-- Write `TRCFG`: setting `EN` zeroes `TRIDX`. -/
def writeTrcfg (die : Nat) (v : Word) (s : State) : Eff := do
  let old := (s.die die).dbgReg 0x860
  let l := fld v 57 5
  need (fld v 22 35 = 0 && decide (8 ≤ l ∧ l ≤ 20) && inSomeWin s die (fld v 0 22 * 16) (16 * 2 ^ l) &&
    (!bit old 63 || setFld v 63 1 0 = setFld old 63 1 0)) cReservedField
  .ok (s.modDie die fun d =>
    let d := { d with dbg := Tab.put d.dbg 0x860 v }
    if bit v 63 && !bit old 63 then { d with trTail := 0, trLost := 0 } else d)

/-- `TRCFG_WRITE`: a is written. -/
def execTrcfgWrite (s : State) : Host.Outcome State Fault Refusal := hostWriteOf s (writeTrcfg s.cur.die s.hand.ev.a s)

/-- Write `WFCTL`: 1 empties the log. -/
def writeWfctl (die : Nat) (v : Word) (s : State) : Eff := do
  need (v = 1) cReservedField
  .ok (s.modDie die fun d => { d with wflog := [], wflost := 0 })

/-- `WFCTL_WRITE`: a is written. -/
def execWfctlWrite (s : State) : Host.Outcome State Fault Refusal := hostWriteOf s (writeWfctl s.cur.die s.hand.ev.a s)

/-! ### The stop slot of a watched remote access (16 R398) -/

/-- `WATCH_STOP_SLOT`: the first stop slot that has arrived reaches its core, whose A strand traps; a core that holds a frame
keeps it. -/
def execWatchStopSlot (s : State) : Host.Outcome State Fault Refusal :=
  let die := s.cur.die
  match takeInbox die .watchStop s with
  | none => stay s
  | some (x, s) =>
    let n := (x.w 0).toNat % 128
    let c := s.core die n
    if c.iter.isNone || c.frame.isSome then act s
    else
      act (raiseDue die n { strd := 1, cause := cWatchpoint, prec := false, info := x.w 1, addr := x.w 2,
                            t := (s.die die).cyc + 1 } s)

/-! ### The wave at a die (16 R401, R402, R406) -/

/-- The job a slot of the wave is about. -/
def slotJobOf (x : NetSlot) : BitVec 16 := (x.w 0).setWidth 16

/-- `FALLOW_STOP_ARRIVAL`: the first wave that has arrived acts at the die (16 R401). -/
def execFallowStopArrival (s : State) : Host.Outcome State Fault Refusal :=
  let die := s.cur.die
  match takeInbox die .wave s with
  | none => stay s
  | some (x, s) =>
    let n := (x.w 1).toNat % 2 ^ 16
    act (waveArrive die (slotJobOf x) n (noteWave die (slotJobOf x) n x.src s))

/-- `CAUSE_RECORD_ARRIVAL`: the first cause record that has arrived, once the wave before it has acted, is sorted into the
entries of its job's contexts (16 R406). -/
def execCauseRecordArrival (s : State) : Host.Outcome State Fault Refusal :=
  let die := s.cur.die
  match takeInbox die .causeRec s with
  | none => stay s
  | some (x, s1) =>
    if (s.die die).inbox.any fun y => decide (y.kind = .wave) && slotJobOf y = slotJobOf x then stay s
    else act (causeArrive die (slotJobOf x) Ctx.joinCause (x.words.drop 1) s1)

/-- Whether phase one is over on a die for a context: nothing of it acts any more (16 R401). -/
def waveStopped (die slot : Nat) (s : State) : Bool :=
  let x := s.ctx die slot
  x.state ≠ 2 && x.state ≠ 3 &&
    (x.state ≠ 1 || (((coresOf die slot s).all fun n => coreStopped (s.core die n)) && drillIdle die slot s))

/-- Whether a request a strand of a die has sent acts for a context of a job. -/
def requestOf (s : State) (die : Nat) (job : BitVec 16) (x : NetSlot) : Bool :=
  let mine := fun (w : Word) => (s.ctx die (s.core die (w.toNat % 128)).slot).job = job
  match x.kind with
  | .reply => decide (x.dst = die) && mine (x.w 1)
  | .access | .header | .team | .slotReq | .contrib | .free => decide (x.src = die) && mine (x.w 0)
  | _ => false

/-- Whether a die has traffic of a job left to deliver (16 R402). -/
def trafficOf (die : Nat) (job : BitVec 16) (s : State) : Bool :=
  s.net.any (requestOf s die job) || (List.range 8).any (fun d => (s.die d).inbox.any (requestOf s die job)) ||
    (jobSlots s die job).any fun k => !(s.ctx die k).pulls.isEmpty || !(s.ctx die k).pulling.isEmpty

/-- A die reports phase two to the origins it knows of and has not told yet; to itself at once (16 R402). -/
def reportPhase (die : Nat) (job : BitVec 16) (s : State) : State :=
  let w := Tab.get 0#64 (s.die die).fallow job.toNat
  let sinks := (List.range 8).filter fun d => bit w d && !bit w (8 + d)
  let s := sinks.foldl (fun s d =>
    if d = die then s else send .phaseTwo die d [job.setWidth 64, BitVec.ofNat 64 (fld w 32 16)] [] s) s
  let w := setFld w 8 8 (fld w 0 8)
  s.modDie die fun d => { d with fallow := Tab.put d.fallow job.toNat (if sinks.contains die then w ||| (1#64 <<< (16 + die)) else w) }

/-- `FALLOW_PHASE_TWO_DONE`: for the job of a, the die's contexts have stopped and begin to drain; then no traffic of theirs is
left, and the die reports it (16 R402). -/
def execFallowPhaseTwoDone (s : State) : Host.Outcome State Fault Refusal :=
  let die := s.cur.die
  let job : BitVec 16 := s.hand.ev.a.setWidth 16
  let w := Tab.get 0#64 (s.die die).fallow job.toNat
  let mine := jobSlots s die job
  let first := mine.filter fun k => (s.ctx die k).fst = 1
  if !first.isEmpty then
    if first.all fun k => waveStopped die k s then act (first.foldl (fun s k => s.modCtx die k fun c => c.setFst 2) s)
    else stay s
  else if fld w 0 8 = fld w 8 8 || trafficOf die job s then stay s
  else act (reportPhase die job s)

/-- The contexts of a job on a die are frozen (16 R402). -/
def setFrozen (die : Nat) (job : BitVec 16) (s : State) : State :=
  (jobSlots s die job).foldl (fun s k =>
    if (s.ctx die k).fst = 1 ∨ (s.ctx die k).fst = 2 then
      let s := s.modCtx die k fun c => c.setFst 3
      notify die 5 0 agentNone 63 k (BitVec.ofNat 64 (2 ^ 16 + (s.ctx die k).wseq)) 0 s
    else s) s

/-- Whether a die is the die of a wave's primary origin as its contexts' records have it (16 R402, R406). -/
def isController (die : Nat) (job : BitVec 16) (s : State) : Bool :=
  match jobSlots s die job with
  | [] => false
  | k :: _ => match (s.ctx die k).fwRecs with
    | r :: _ => fld (r.getD 0 0) 51 13 = dieIdentity die % 8192
    | [] => false

/-- `FALLOW_FROZEN`: the first frozen state that has arrived sets `FST` 3; a report of phase two is counted by the die it came
to; and once every die in service has reported for the job of a, its controller sends the frozen state (16 R402). -/
def execFallowFrozen (s : State) : Host.Outcome State Fault Refusal :=
  let die := s.cur.die
  match takeInbox die .frozen s with
  | some (x, s) => act (setFrozen die (slotJobOf x) s)
  | none =>
    match takeInbox die .phaseTwo s with
    | some (x, s) =>
      let k := (slotJobOf x).toNat
      let w := Tab.get 0#64 (s.die die).fallow k
      if (x.w 1).toNat ≠ fld w 32 16 then act s
      else act (s.modDie die fun d => { d with fallow := Tab.put d.fallow k (w ||| (1#64 <<< (16 + x.src % 8))) })
    | none =>
      let job : BitVec 16 := s.hand.ev.a.setWidth 16
      let w := Tab.get 0#64 (s.die die).fallow job.toNat
      if bit w 24 || fld w 0 8 = 0 || !isController die job s || !(s.unfenced.all fun d => bit w (16 + d)) then stay s
      else
        let s := s.modDie die fun d => { d with fallow := Tab.put d.fallow job.toNat (w ||| (1#64 <<< 24)) }
        let s := (s.unfenced.filter (· ≠ die)).foldl (fun s d => send .frozen die d [job.setWidth 64] [] s) s
        act (setFrozen die job s)

/-! ### `FWCTL` (16 R390, R400, R407, R408) -/

/-- Let a core go on for a step: as `rett` resumes it, or, in handler mode, its A strand alone (16 R407). -/
def startStep (die core k : Nat) (s : State) : State :=
  let u := (s.die die).cyc + 1
  s.modCore die core fun c =>
    let c := if (c.strand 1).handler then c.modStrand 1 fun t => { t with run := .running, ready := u } else c.resume u
    { c with stepCyc := some (k, u) }

/-- Whether a core holds a frozen iteration of a context. -/
def frozenCore (die core slot : Nat) (s : State) : Bool :=
  let c := s.core die core
  c.iter.isSome && decide (c.slot = slot) && c.frame.isSome && c.stepCyc.isNone

/-- The contexts of a job on a die learn of a resume instant (16 R408). -/
def setResume (die : Nat) (job : BitVec 16) (t : Word) (s : State) : State :=
  if (s.die die).resumes.any fun x => x.1 = job.toNat then s
  else
    let s := s.modDie die fun d => { d with resumes := Tab.put d.resumes job.toNat t }
    (jobSlots s die job).foldl (fun s k =>
      if (s.ctx die k).fst = 3 ∨ (s.ctx die k).fst = 4 then s.modCtx die k fun c => c.setFst 5 else s) s

/-- Write `FWCTL` for a context. -/
def writeFwctl (die slot : Nat) (v : Word) (s : State) : Eff := do
  let op := fld v 60 4
  let core := fld v 9 7
  let str := fld v 6 3
  let ring := fld v 0 2
  let x := s.ctx die slot
  let step := fun (s : State) => s.modCtx die slot fun c => { c.setFst 4 with fwstat := setFld (c.setFst 4).fwstat 60 1 0 }
  need (fld v 16 44 = 0 && fld v 2 4 = 0 && decide (1 ≤ op ∧ op ≤ 5) && decide (str ≤ 5)) cReservedField
  match op with
  | 1 =>
    need (x.state ≠ 0) cIllegalOperand
    .ok (launchWave die slot cFallow agentNone 0 0 s)
  | 2 =>
    need (x.fst = 3 && frozenCore die core slot s) cIllegalOperand
    .ok (startStep die core 7 (step s))
  | 3 =>
    need (x.fst = 3 && frozenCore die core slot s) cIllegalOperand
    .ok (startStep die core str (step s))
  | 4 =>
    need (x.fst = 3 && (s.ring die ring).en && decide ((s.ring die ring).owner = slot)) cIllegalOperand
    .ok ((step s).modDrill die ring fun d => { d with step := 1 })
  | _ =>
    let t := x.brkReg 0x821
    need (x.fst = 3 && decide ((s.die die).ftime.toNat + 3000 ≤ t.toNat)) cReservedField
    let s := setResume die x.job t s
    .ok ((s.unfenced.filter (· ≠ die)).foldl (fun s d => send .resume die d [x.job.setWidth 64, t] [] s) s)

/-- `FWCTL` written by the supervisor for the context of the unit number. -/
def fwctlEvent (v : Nat) (s : State) : Host.Outcome State Fault Refusal :=
  hostWriteOf s (writeFwctl s.cur.die (s.cur.unit % 16) (BitVec.ofNat 64 v) s)

/-- `FWCTL_LAUNCH` (16 R400). -/
def execFwctlLaunch (s : State) : Host.Outcome State Fault Refusal := fwctlEvent (2 ^ 60) s
/-- `FWCTL_STEP_CYCLE`: of core a (16 R407). -/
def execFwctlStepCycle (s : State) : Host.Outcome State Fault Refusal :=
  fwctlEvent (2 * 2 ^ 60 + s.hand.ev.a.toNat % 128 * 2 ^ 9) s
/-- `FWCTL_STEP_INSTRUCTION`: of strand b of core a (16 R407). -/
def execFwctlStepInstruction (s : State) : Host.Outcome State Fault Refusal :=
  fwctlEvent (3 * 2 ^ 60 + s.hand.ev.a.toNat % 128 * 2 ^ 9 + s.hand.ev.b.toNat % 8 * 2 ^ 6) s
/-- `FWCTL_STEP_WINDOW`: of ring a (16 R407). -/
def execFwctlStepWindow (s : State) : Host.Outcome State Fault Refusal := fwctlEvent (4 * 2 ^ 60 + s.hand.ev.a.toNat % 4) s
/-- `FWCTL_RESUME` (16 R408). -/
def execFwctlResume (s : State) : Host.Outcome State Fault Refusal := fwctlEvent (5 * 2 ^ 60) s

/-- `STEP_TIMEOUT`: the step of the core of the unit number has not issued within 4,096 cycles (16 R407). -/
def execStepTimeout (s : State) : Host.Outcome State Fault Refusal :=
  let die := s.cur.die
  let n := s.cur.core
  let c := s.core die n
  let t := (s.die die).cyc
  match c.stepCyc with
  | none => stay s
  | some (k, u) =>
    if k = 7 || t < u + 4096 || c.iter.isNone || c.due.isSome || (c.strand 1).pend.isSome || stepDone c k u t then stay s
    else act (finishStep die n k u t 1 s)

/-! ### The resume instant (16 R408; 14 R364) -/

/-- The deadlines of a job's reduction slots at a die go on, later by the time they stood. -/
def startDeadlines (die : Nat) (job : BitVec 16) (s : State) : State :=
  s.modDie die fun d =>
    { d with slots := d.slots.map fun (k, x) =>
        (k, match x.stopAt with
          | some t => if x.job = job then { x with stopAt := none, dl := x.dl + (d.ftime.toNat - t) } else x
          | none => x) }

/-- The engines of a context go on (16 R408). -/
def releaseEngines (die slot : Nat) (s : State) : State :=
  let s := s.modCtx die slot fun c => c.setFst 0
  let s := (ownRings die slot s).foldl (fun s k => s.modDrill die k fun d => { d with step := 0 }) s
  let s := notify die 5 0 agentNone 63 slot (BitVec.ofNat 64 (2 * 2 ^ 16 + (s.ctx die slot).wseq)) 0 s
  if (s.ctx die slot).state = 1 then applyAllHeld die slot 512 s else s

/-- The frozen cores of a context issue again from cycle u; a handler that was stopped goes on at its live PC (16 R408). -/
def releaseCores (die slot u : Nat) (s : State) : State :=
  if (s.ctx die slot).state ≠ 1 then s
  else
    (coresOf die slot s).foldl (fun s n =>
      checkSwitch die n (s.modCore die n fun c =>
        let c := { c with stepCyc := none }
        if (c.strand 1).handler then c.modStrand 1 fun t => { t with run := .running, ready := u } else c.resume u)) s

/-- `FALLOW_RESUME_INSTANT`: the first resume that has arrived is noted; at the instant of the job of a its engines and
deadlines go on, and 4 ns later its strands (16 R408). -/
def execFallowResumeInstant (s : State) : Host.Outcome State Fault Refusal :=
  let die := s.cur.die
  match takeInbox die .resume s with
  | some (x, s) => act (setResume die (slotJobOf x) (x.w 1) s)
  | none =>
    let job : BitVec 16 := s.hand.ev.a.setWidth 16
    let d := s.die die
    if d.resumes.all fun x => x.1 ≠ job.toNat then stay s
    else
      let t := (Tab.get 0#64 d.resumes job.toNat).toNat
      let mine := jobSlots s die job
      let held := (mine.any fun k => (s.ctx die k).fst = 5) || d.slots.any fun x => x.2.job = job && x.2.stopAt.isSome
      if held then
        if d.ftime.toNat < t then stay s
        else
          act ((mine.filter fun k => (s.ctx die k).fst = 5).foldl (fun s k => releaseEngines die k s) (startDeadlines die job s))
      else if d.ftime.toNat < t + 4 then stay s
      else
        let s := mine.foldl (fun s k => if (s.ctx die k).fst = 0 then releaseCores die k (d.cyc + 1) s else s) s
        act (s.modDie die fun d => { d with resumes := d.resumes.filter fun x => x.1 ≠ job.toNat })

/-! ### Clock freeze (16 R420) -/

/-- `CLOCK_FREEZE`: every clock of the die stops; only a reset of the module ends it. -/
def execClockFreeze (s : State) : Host.Outcome State Fault Refusal :=
  act (s.modDie s.cur.die fun d => { d with frozenClk := true })

end Sys2Proof.Machine
end

