-- ==== Sys2Proof/Machine/Dump.lean ====
section
/-!
DEFINITION. Core dumps (16 R416 to R419): the sections, what fits, the header with its omission list, writing them, and a
write that faults (log 11).
-/

namespace Sys2Proof.Machine

/-! ### Sections (16 R417, R419) -/

/-- `FWSTAT` as it reads: with `NREC` (16 R404). -/
def Ctx.fwstatWord (c : Ctx) : Word := setFld c.fwstat 56 4 c.fwRecs.length

/-- A core as the dump shows it: its image, with what software made of its saved section. -/
def dumpCore (die slot : Nat) (x : Nat × Core) (s : State) : Core :=
  match (s.ctx die slot).saved.find? fun y => y.core = x.1 with
  | none => x.2
  | some y => match recordBytes die slot y.off y.len s with
    | .ok (bs, _) => x.2.loadWords (wordsOfBytes bs)
    | .error _ => x.2

/-- Whether a queue's consumer waits for an entry that will not come: none is there, and its producer has trapped or is done
(16 R419). -/
def underflow (c : Core) (q : Nat) : Bool :=
  match c.frame with
  | none => false
  | some f =>
    let wait := Tab.get 0#64 f.wait (c.consumer q)
    let p := c.producer q
    let trapped := decide (f.strd = p) && f.cause ≠ cFallow && f.cause ≠ cPreempt && f.cause ≠ cSingleStep
    decide (c.consumer q < 6) && fld wait 60 4 = 1 && fld wait 52 8 = q && (c.queue q).ents.isEmpty && decide (p < 6) &&
      (trapped || fld (Tab.get 0#64 f.wait p) 60 4 = 7)

/-- The queue section of a core. -/
def queueWords (c : Core) : List Word :=
  (List.range 16).map fun q =>
    let es := (c.queue q).ents
    let landed := (es.filter fun e => e.val.isSome).length
    BitVec.ofNat 64 (b2n (underflow c q) * 2 ^ 63 + c.producer q * 2 ^ 52 + c.consumer q * 2 ^ 48 + landed * 2 ^ 40 +
      (es.length - landed) * 2 ^ 32)

/-- The words of a context's fault ring from `HEAD` to `TAIL`, after its `RSTAT`. -/
def faultWords (die slot : Nat) (s : State) : List Word :=
  let r := s.ring die (24 + slot)
  r.rstat :: (List.range (r.tail - r.head)).map fun i => s.word (ringKey die r (r.head + i))

/-- Every section of a dump, in order. -/
def dumpSections (die slot : Nat) (s : State) : List Section :=
  let x := s.ctx die slot
  let cores := (savedCores die slot s).map fun y => (y.1, dumpCore die slot y s)
  [(5, 0, bytesOfWords (x.fwstatWord :: x.fwRecs.flatten)), (6, 0, bytesOfWords (faultWords die slot s))] ++
    cores.flatMap (fun y => [(1, y.1, bytesOfWords y.2.saveWords), (7, y.1, bytesOfWords (queueWords y.2))]) ++
    [(2, 0, bytesOfWords (engineWords die slot false s)), (3, 0, bytesOfWords (contextWords die slot s))] ++
    windowKeys.map fun k => (4, k, windowBytes die slot k s)

/-! ### What fits, and the header (16 R417, R418) -/

/-- Bytes of a header that lists some omissions. -/
def dumpHead (omitted : Nat) : Nat := up64 (64 + 8 * omitted)

/-- The sections taken in order that fit from an offset on, and those that do not. -/
def fitSections (len : Nat) : Nat → List Section → List Section × List Section
  | _, [] => ([], [])
  | off, x :: xs =>
    if off + sectionLen x ≤ len then
      let (a, b) := fitSections len (off + sectionLen x) xs
      (x :: a, b)
    else
      let (a, b) := fitSections len off xs
      (a, x :: b)

/-- The plan of a dump: a longer omission list leaves less room, so the plan is made again until it lists what it omits. -/
def planDump (len : Nat) (xs : List Section) : Nat → Nat → List Section × List Section
  | 0, n => fitSections len (dumpHead n) xs
  | fuel + 1, n =>
    let p := fitSections len (dumpHead n) xs
    if p.2.length ≤ n then p else planDump len xs fuel p.2.length

/-- The header of a dump and its omission list: the sections written whole, and the section whose write faulted. -/
def dumpHeader (die slot : Nat) (t : Word) (req nsec size : Nat) (out : List Section) (foff fcause : Word) (s : State) :
    List Byte :=
  let c := s.ctx die slot
  let list := out.map fun x => BitVec.ofNat 64 (x.1 * 2 ^ 56 + x.2.1)
  let bs := bytesOfWords
    ([BitVec.ofNat 64 (2 ^ 48 + nsec % 2 ^ 16 * 2 ^ 32 + size / 64 % 2 ^ 32),
      BitVec.ofNat 64 (c.job.toNat * 2 ^ 48 + slot % 16 * 2 ^ 44 + 3 * 2 ^ 42 + b2n (c.frozen || decide (c.fst ≠ 0)) * 2 ^ 41 +
        b2n c.sup * 2 ^ 40 + dieIdentity die % 8192),
      t, BitVec.ofNat 64 (req / 64 % 2 ^ 32 * 2 ^ 32 + out.length), foff, fcause, 0, 0] ++ list)
  bs ++ List.replicate (up64 bs.length - bs.length) 0

/-! ### Writing it (16 R416, R417) -/

/-- `DUMPST`. -/
def dumpStatus (dst : Nat) (hfail : Bool) (cause : BitVec 8) (off : Nat) : Word :=
  BitVec.ofNat 64 (dst * 2 ^ 62 + b2n hfail * 2 ^ 61 + cause.toNat * 2 ^ 52 + off % 2 ^ 48)

/-- A dump ends with a status. -/
def endDump (die : Nat) (v : Word) (s : State) : State :=
  s.modDie die fun d => { d with dump := none, dbg := Tab.put d.dbg 0x873 v }

/-- Write sections from an offset on: how many were written whole, and how it ended. -/
def writeSections (w : Writer) (base lim : Nat) : Nat → Nat → List Section → State → Nat × Nat × SaveEnd × Nat × State
  | n, off, [], s => (n, off, .complete, off, s)
  | n, off, x :: xs, s =>
    let bs := sectionBytes x
    match writeRecord w (base + off) (lim - off) (bs.length / 64 + 1) 0 bs s with
    | (.complete, _, s) => writeSections w base lim (n + 1) (off + bs.length) xs s
    | (e, k, s) => (n, off, e, off + k, s)

/-- Write the dump of a context that began at field time t (16 R417). -/
def runDump (die slot : Nat) (t : Word) (s : State) : Except Stop State :=
  let base := ((s.die die).dbgReg 0x870).toNat
  let len := ((s.die die).dbgReg 0x871).toNat
  let xs := dumpSections die slot s
  let (ins, out) := planDump len xs xs.length 0
  let start := dumpHead out.length
  let size := ins.foldl (fun a x => a + sectionLen x) start
  let head := fun n foff fcause => dumpHeader die slot t (recordLen xs) n size out foff fcause s
  let w := saveWriter die slot
  let put := fun (bs : List Byte) (s : State) => writeRecord w base len (bs.length / 64 + 1) 0 bs s
  match put (head ins.length (BitVec.allOnes 64) 0) s with
  | (.waiting, _, _) => .error (.wait 10 0)
  | (.absent, _, _) => .error .absent
  | (.stopped c, off, s) => .ok (endDump die (dumpStatus 2 true c off) s)
  | (.complete, _, s) =>
    match writeSections w base len 0 start ins s with
    | (_, _, .waiting, _, _) => .error (.wait 10 0)
    | (_, _, .absent, _, _) => .error .absent
    | (_, _, .complete, off, s) => .ok (endDump die (dumpStatus 3 false 0 off) s)
    | (n, foff, .stopped c, off, s) =>
      match put (head n (BitVec.ofNat 64 foff) (BitVec.ofNat 64 (c.toNat * 2 ^ 56))) s with
      | (.waiting, _, _) => .error (.wait 10 0)
      | (.absent, _, _) => .error .absent
      | (.complete, _, s) => .ok (endDump die (dumpStatus 2 false c off) s)
      | (.stopped _, _, s) => .ok (endDump die (dumpStatus 2 true c off) s)

/-- Write `DUMPCTL` (16 R416). -/
def writeDumpctl (die : Nat) (v : Word) (s : State) : Eff := do
  let slot := fld v 0 4
  let x := s.ctx die slot
  need (fld v 8 56 = 0 && fld v 4 4 = 1) cReservedField
  need ((x.state = 4 || x.state = 5 || x.fst = 3) && (s.die die).dump.isNone) cIllegalOperand
  .ok (s.modDie die fun d =>
    { d with dump := some (slot, d.ftime.toNat), dbg := Tab.put d.dbg 0x873 (dumpStatus 1 false 0 0) })

/-- Write `DUMPBASE` or `DUMPLEN`. -/
def writeDumpReg (die sel : Nat) (v : Word) (s : State) : Eff := do
  need (v.toNat % 64 = 0 && (sel = 0x871 || (canonical v && !inAperture v))) cReservedField
  .ok (s.modDie die fun d => { d with dbg := Tab.put d.dbg sel v })

/-- `DUMPCTL_START`: of the context of the unit number. -/
def execDumpctlStart (s : State) : Host.Outcome State Fault Refusal :=
  hostWriteOf s (writeDumpctl s.cur.die (BitVec.ofNat 64 (16 + s.cur.unit % 16)) s)

/-- `DUMP_COMPLETE`: the dump of the die finishes, or stops on a fault (16 R417). -/
def execDumpComplete (s : State) : Host.Outcome State Fault Refusal :=
  match (s.die s.cur.die).dump with
  | none => stay s
  | some (slot, t) => hostWriteOf s (runDump s.cur.die slot (BitVec.ofNat 64 t) s)

end Sys2Proof.Machine
end

