-- ==== Sys2Proof/Machine/Message.lean ====
section
/-!
DEFINITION. The receive engine: posts and messages, matching, landing, completion records, the message instructions
0x180 to 0x185 and the control-ring commands (13 R337 to R348).
-/

namespace Sys2Proof.Machine

namespace Forms

/-- The message layout: `m` is the mask of the bits of `X[7:0]` that may be set. -/
def layM (m : Nat) (n : Nat) (x : BitVec 16) : Bool := twm n x && fld x 0 8 &&& (255 - m) = 0
/-- `msend`. -/
def msend : Form := { strands := onA, dst := [.none], a := .sNoX, b := .sNoX, c := .sNoX, x := layM 3 }
/-- `mpost`. -/
def mpost : Form := { strands := onA, dst := [.scal], a := .sNoX, b := .sNoX, x := layM 3 }
/-- `mprobe`. -/
def mprobe : Form := { strands := onA, dst := [.scal], a := .sNoX, x := layM 3 }
/-- `mcancel`. -/
def mcancel : Form := { strands := onA, dst := [.scal, .none], a := .sNoX, x := layM 0 }
/-- `mcomp` and `mcomp.nb`. -/
def mcomp : Form := { strands := onA, dst := [.scal], a := .sNoX, x := layM 4 }
/-- `mqry`. -/
def mqry : Form := { strands := onA, dst := [.scal], c := .sel 3, x := layM 0 }

end Forms

/-- The receive engine's identity (08 R209). -/
def agentRxe : Nat := agentEngine 18

/-! ### Completion records (13 R343) -/

/-- A completion record's words. -/
def compWords (status len : Nat) (cause : BitVec 8) (post : Nat) (tag rank : Nat) : Word × Word :=
  (BitVec.ofNat 64 (status * 2 ^ 60 + len % 2 ^ 24 * 2 ^ 32 + cause.toNat * 2 ^ 24 + post),
   BitVec.ofNat 64 (tag % 2 ^ 32 * 2 ^ 32 + rank % 2 ^ 24))

/-- A post of a context by its identity. -/
def Ctx.post (c : Ctx) (id : Nat) : Option Post := c.posts.find? fun p => p.id = id

/-- Make a post's completion record; its flag is incremented with it. -/
def completePost (die slot : Nat) (p : Post) (w : Word × Word) (s : State) : State :=
  let s := s.modCtx die slot fun c =>
    { c with posts := c.posts.map fun q => if q.id = p.id then { q with st := 2 } else q,
             comps := c.comps ++ [{ post := p.id, w0 := w.1, w1 := w.2 }] }
  flagInc die slot p.flag 1 (BitVec.ofNat 16 agentRxe) s

/-! ### Landing (13 R342) -/

/-- Bytes of an element of a landing tensor. -/
def landSize (t : Tlr) : Nat := elemBits (tlrFmt t) / 8

/-- Coordinates of a position of the walk over a tensor's extents, c0 fastest. -/
def walkCoords (t : Tlr) : Nat → Nat → List Nat
  | 0, _ => []
  | fuel + 1, n => let j := 4 - fuel; (if j < tlrRank t then n % tlrD t j else 0) ::
      walkCoords t fuel (if j < tlrRank t then n / tlrD t j else n)

/-- How many elements a tensor has. -/
def tlrCount (t : Tlr) : Nat := (List.range (tlrRank t)).foldl (fun a j => a * tlrD t j) 1

/-- A receive engine's writes for a context (16 R397). -/
def rxeWriter (die slot : Nat) : Writer := { g := engineAgent die slot, who := agentRxe, akind := 4 }

/-- Land whole elements in walk order; those beyond the ragged edge are discarded. The first store that faults ends it. -/
def landElems (w : Writer) (t : Tlr) : Nat → List (List Byte) → State → Option Stop × State
  | _, [], s => (none, s)
  | n, e :: es, s =>
    if tlrCount t ≤ n then (none, s)
    else
      let va := tlrW t 0 + BitVec.ofNat 64 (tlrOff t (walkCoords t 5 n) * landSize t)
      match writePiece w va (e.map some) s with
      | .error r => (some r, s)
      | .ok (_, s) => landElems w t (n + 1) es s

/-- Bytes cut into elements; a rest that is no whole element is dropped. -/
def cutElems (n : Nat) : Nat → List Byte → List (List Byte)
  | 0, _ => []
  | fuel + 1, bs => if n = 0 ∨ bs.length < n then [] else bs.take n :: cutElems n fuel (bs.drop n)

/-- A fault record of the receive engine; the spec leaves its information word open (log 16). -/
def rxeRecord (die slot : Nat) (cause : BitVec 8) (addr : Word) (s : State) : State :=
  let (v, s) := s.takeFree
  faultRecord die slot cause agentRxe 63 0 addr v s

/-- How many bytes of a message a post lands. -/
def landBytes (p : Post) (len : Nat) : Nat :=
  if p.maxlen < len then p.maxlen / landSize p.tlr * landSize p.tlr else len

/-- Land a message whose payload has come, as far as `cut` says it has come without fault: the post completes (13 R342,
R343). -/
def landMessage (die slot : Nat) (p : Post) (m : Msg) (data : List Byte) (cut : Option (BitVec 8)) (s : State) : State :=
  let rec_ := fun st (c : BitVec 8) s => completePost die slot p (compWords st m.len c p.id m.tag m.rank) s
  if m.len ≤ p.maxlen ∧ m.len % landSize p.tlr ≠ 0 then rec_ 3 cIllegalOperand s
  else
    let es := cutElems (landSize p.tlr) data.length (data.take (landBytes p m.len))
    match landElems (rxeWriter die slot) p.tlr p.eoff es s with
    | (some (.trap c _ a), s) => rec_ 3 c (rxeRecord die slot c a s)
    | (some _, s) => rec_ 3 cUncorrectable s
    | (none, s) =>
      match cut with
      | some c => rec_ 3 c s
      | none => rec_ (if p.maxlen < m.len then 1 else 0) 0 s

/-! ### Matching (13 R339 to R341) -/

/-- A post takes a message: an eager one lands, a long one is to be pulled. -/
def matchPost (die slot : Nat) (p : Post) (m : Msg) (s : State) : State :=
  let s := countEv die 0x041 (some slot) none 1 s
  if m.len ≤ 4096 then landMessage die slot p m m.data none s
  else
    s.modCtx die slot fun c =>
      { c with posts := c.posts.map fun q => if q.id = p.id then { q with st := 1 } else q, pulls := c.pulls ++ [(p.id, m)] }

/-- A header is taken in: the oldest active post that matches takes it, else it is unexpected. -/
def headerIn (die slot : Nat) (m : Msg) (s : State) : State :=
  match (s.ctx die slot).posts.find? fun p => p.matchesKey m.team m.tag m.rank with
  | some p => matchPost die slot p m s
  | none => countEv die 0x042 (some slot) none 1 (s.modCtx die slot fun c => { c with unexp := c.unexp ++ [m] })

/-- A new post: the oldest unexpected message it matches is its own, else it is active. -/
def postIn (die slot : Nat) (p : Post) (s : State) : State :=
  let s := s.modCtx die slot fun c => { c with posts := c.posts ++ [p] }
  match (s.ctx die slot).unexp.find? fun m => p.matchesKey m.team m.tag m.rank with
  | none => s
  | some m => matchPost die slot p m (s.modCtx die slot fun c => { c with unexp := c.unexp.erase m })

/-- Events of the receive engine's one cycle: headers in station order, then strands, then control rings (13 R339; log 7). -/
def rxeServe (die rank : Nat) (s : State) : Except Stop State := serve die thingRxe rank s
/-- A strand's place among them. -/
def rxeStrand (s : State) : Except Stop State := rxeServe s.cur.die (8 + s.rank) s

/-- `MESSAGE_HEADER_ARRIVAL`: the first header that has arrived is matched or queued, and its sender answered; a
context that holds no receive engine refuses it for good, and one that is not resident leaves it waiting (13 R339, R341). -/
def execMessageHeaderArrival (s : State) : Host.Outcome State Fault Refusal :=
  let die := s.cur.die
  match takeInbox die .header s with
  | none => stay s
  | some (x, s1) =>
    match rxeServe die (x.src + 1) s1 with
    | .error _ => stay s
    | .ok s =>
      let slot := (x.w 2).toNat % 16
      let c := s.ctx die slot
      if c.away then stay s
      else if c.state = 0 || !bit c.rxcfg 63 then act (answer die x cAddressClass 0 0 [] (countRefused die slot s))
      else act (answer die x 0 0 0 [] (headerIn die slot (slotMsg x) s))

/-! ### Long messages (13 R340) -/

/-- The oldest matched long message of a context is asked for at its sender's die: the slot names the pull, the sender's context,
address and flag, and the bytes that are to land. A message that lands nothing is asked for no byte (13 R342). -/
def sendPull (die slot : Nat) (s : State) : Option State :=
  let c := s.ctx die slot
  match c.pulls with
  | [] => none
  | (id, m) :: rest =>
    let s1 := s.modCtx die slot fun c => { c with pulls := rest }
    match c.post id with
    | none => some s1
    | some p =>
      let n := if m.len ≤ p.maxlen ∧ m.len % landSize p.tlr ≠ 0 then 0 else landBytes p m.len
      let num := s.nextReq * 16384 + id
      some (send .pull die m.srcDie
        [0, BitVec.ofNat 64 num, BitVec.ofNat 64 slot, BitVec.ofNat 64 m.srcSlot, m.srcAddr, BitVec.ofNat 64 m.srcFlag, BitVec.ofNat 64 n] []
        (s1.modCtx die slot fun c => { c with pulling := c.pulling ++ [(num, m)] }))

/-- A pull reaches the sender's die: the bytes are read as loads of the sending context as far as they can be, a fault is recorded
there, the sender's flag is incremented, and what was read goes back. -/
def answerPull (x : NetSlot) (s : State) : Except Stop State :=
  let die := x.dst
  let slot := (x.w 3).toNat % 16
  let (stop, bs, s) := readSome (engineAgent die slot) false (x.w 4) (x.w 6).toNat s
  let reply := fun (cause : BitVec 8) (a : Word) (s : State) =>
    send .pulled die x.src [0, x.w 1, x.w 2, cause.setWidth 64, a] bs
      (flagInc die slot (x.w 5).toNat 1 (BitVec.ofNat 16 agentRxe) s)
  match stop with
  | none => .ok (reply 0 0 s)
  | some (.trap c _ a) => .ok (reply c a (rxeRecord die slot c a s))
  | some r => .error r

/-- A pull's bytes come back: they land and the post completes; a fault of the pull is recorded here too. One whose post is gone is
dropped. -/
def landPull (x : NetSlot) (s : State) : State :=
  let die := x.dst
  let slot := (x.w 2).toNat % 16
  let num := (x.w 1).toNat
  let c := s.ctx die slot
  match c.pulling.find? fun y => y.1 = num, c.post (num % 16384) with
  | some (_, m), some p =>
    let s := s.modCtx die slot fun c => { c with pulling := c.pulling.filter fun y => y.1 ≠ num }
    let cause : BitVec 8 := (x.w 3).setWidth 8
    if cause = 0 then landMessage die slot p m x.data none s
    else landMessage die slot p m x.data (some cause) (rxeRecord die slot cause (x.w 4) s)
  | _, _ => s

/-- `RENDEZVOUS_PULL`: the payload of a long message goes one step on its way: it lands at its receiver, it is read at its sender,
or the context of slot a asks for its oldest (13 R340). -/
def execRendezvousPull (s : State) : Host.Outcome State Fault Refusal :=
  let die := s.cur.die
  match takeInbox die .pulled s, takeInbox die .pull s with
  | some (x, t), _ => act (landPull x t)
  | none, some (x, t) =>
    match answerPull x t with
    | .ok s => act s
    | .error .absent => .fault .absentMemory
    | .error _ => stay s
  | none, none =>
    match sendPull die (s.hand.ev.a.toNat % 16) s with
    | some s => act s
    | none => stay s

/-! ### Configuration (13 R337) -/

/-- Write `RXCFGk`. With `EN` 0 no buffer is judged; clearing `EN` discards the completion records of the posts too (log 16). -/
def writeRxcfg (die slot : Nat) (v : Word) (s : State) : Eff :=
  let x := s.ctx die slot
  let others := (List.range 16).foldl (fun a k => if k = slot then a else a + fld (s.ctx die k).rxcfg 48 15) 0
  let dcm := x.reg 0x01D
  let off := winBase dcm 65536 + fld v 0 10 * 65536
  let len := (fld v 44 4 + 1) * 65536
  let inside := decide (fld v 0 10 * 65536 + len ≤ winSize dcm 65536) && decide (off + len ≤ dcmSize)
  if fld v 10 34 ≠ 0 ∨ 16384 < fld v 48 15 ∨ 16384 < others + fld v 48 15 ∨ (bit v 63 ∧ !inside) then trapOf cReservedField
  else
    .ok (s.modCtx die slot fun c =>
      if bit c.rxcfg 63 && !bit v 63 then { c with rxcfg := v, posts := [], unexp := [], comps := [], pulls := [], pulling := [] }
      else { c with rxcfg := v })

/-- `RXCFG_WRITE`: value a is written for the context of the unit number (13 R337). -/
def execRxcfgWrite (s : State) : Host.Outcome State Fault Refusal :=
  hostWriteOf s (writeRxcfg s.cur.die (s.cur.unit % 16) s.hand.ev.a s)

/-! ### The instructions (13 R345 to R347) -/

/-- The receive engine of the executing context is enabled. -/
def needRxe (s : State) : Except Stop Unit := need (bit s.myCtx.rxcfg 63) cAddressClass

/-- The identity of the team of a joined slot (13 R338). -/
def teamOf (n : Nat) (s : State) : Except Stop (TeamAt × State) := do
  let m := s.me.team n
  need m.valid cIllegalOperand
  reachTeam s.agent m.handle m.desc 0 64 s

/-- The rank entry of a member of the team of a slot: 0 for a team another package holds (12 R322; 13 R345). -/
def memberOf (n rank : Nat) (s : State) : Except Stop (TeamAt × Word × State) := do
  let m := s.me.team n
  let (t, s) ← teamOf n s
  match t.key with
  | none => .ok (t, 0, s)
  | some k =>
    let d ← readTeam k s
    need (decide (rank < d.nextr)) cIllegalOperand
    let (rk, s) ← reachRank s.agent m.handle m.desc rank s
    need (bit (s.word rk) 0) cIllegalOperand
    .ok (t, s.word rk, s)

/-- Read the bytes a message sends, or, for a long one, check them (13 R346). -/
def sourceBytes (va : Word) (len : Nat) (s : State) : Except Stop (List Byte × State) := do
  let (bs, s) ← readRun s.agent false va 0 len s
  .ok (if len ≤ 4096 then bs else [], s)

/-- What a message's header says and where it goes, once its source and its team have been checked, with the payload of a short
message (13 R345, R346). A team another package holds leads to a member that only its home knows: the header goes there (log 4). -/
def headerOf (n : Nat) (a b : Word) (len : Nat) (s : State) : Except Stop (Nat × List Word × List Byte × State) := do
  need (!bit a 31 && decide (len < 2 ^ 24) && (s.me.team n).valid) cIllegalOperand
  let s := release s
  let (bs, s) ← sourceBytes b len s
  let (t, r, s) ← memberOf n (fld a 0 24) s
  .ok (if t.key.isSome then dieOf (fld r 51 13) else t.die,
    [BitVec.ofNat 64 (fld r 40 4), t.ident, BitVec.ofNat 64 (s.me.team n).rank, BitVec.ofNat 64 (fld a 32 32),
     BitVec.ofNat 64 len, BitVec.ofNat 64 s.mySlot, b, BitVec.ofNat 64 (fld a 24 7)], bs, s)

/-- `msend` (13 R345, R346): once its header is on its way it is checked no more. -/
def execMsend (w : StrandWord) (s : State) : Host.Outcome State Fault Refusal :=
  issueTok Forms.msend w (fun s => do
    let (k, s) ← capture Forms.msend id w s
    let a := lo64 k.a
    let len := (lo64 k.c).toNat
    let flag := fld a 24 7
    let (dst, words, bs, s) ← match s.me.pend with
      | some p => Except.ok (p.dst, [], [], s)
      | none => headerOf (fld k.x 0 2) a (lo64 k.b) len s
    ask none .header dst words bs (fun _ s =>
      if len ≤ 4096 ∨ 8 ≤ dst then
        .ok (flagInc s.cur.die s.mySlot flag 1 (BitVec.ofNat 16 (agentStrand s.cur.core s.cur.strand)) s)
      else .ok s) s) s

/-- The identity a new post of a context gets: any that no post of the context has; which one is free (log 16). -/
def newPostId (c : Ctx) (v : Word) : Nat :=
  let used := c.posts.map Post.id
  let from_ := v.toNat % 16384
  ((List.range (used.length + 1)).find? fun i => !used.contains ((from_ + i) % 16384)).elim 0 fun i => (from_ + i) % 16384

/-- The post of a descriptor and a landing record (13 R345, R347): the record keeps 06 R148 and has a format of 0x01 to
0x0F (13 R342). -/
def makePost (desc : List Word) (tlr : Tlr) (team : Word) (flag : Nat) : Except Stop Post := do
  need (tlrOk tlr) cReservedField
  need (decide (1 ≤ tlrFmt tlr) && decide (tlrFmt tlr ≤ 15)) cIllegalOperand
  .ok { id := 0, team, pat := desc.getD 0 0, wmask := desc.getD 1 0, tlr, maxlen := fld (desc.getD 3 0) 40 24,
        eoff := fld (desc.getD 3 0) 0 40, flag }

/-- Whether a context may hold another post (13 R337, R347). -/
def quotaLeft (c : Ctx) : Bool := decide (c.posts.length < fld c.rxcfg 48 15)

/-- Hand a post to the receive engine under an identity. -/
def handPost (die slot : Nat) (p : Post) (s : State) : Nat × State :=
  let (v, s) := s.takeFree
  let id := newPostId (s.ctx die slot) v
  (id, postIn die slot { p with id } s)

/-- `mpost` (13 R345, R347). -/
def execMpost (w : StrandWord) (s : State) : Host.Outcome State Fault Refusal :=
  issueTok Forms.mpost w (fun s => do
    let (k, s) ← capture Forms.mpost id w s
    let n := fld k.x 0 2
    let flag := (lo64 k.b).toNat
    need ((s.me.team n).valid && decide (flag ≤ 127)) cIllegalOperand
    needRxe s
    let (t, s) ← teamOf n s
    let (db, s) ← load (lo64 k.a) 32 (multiple 32 (lo64 k.a)) false false s
    let desc := wordsOfBytes db
    let va := desc.getD 2 0
    let (tb, s) ← load va 96 (multiple 128 va) false false s
    let p ← makePost desc (tlrResolve (capturedFmt s) (wordsOfBytes tb)) t.ident flag
    orWait (quotaLeft s.myCtx) 10 0
    let s ← rxeStrand s
    let (id, s) := handPost s.cur.die s.mySlot p s
    landWord 0x181 1 w (BitVec.ofNat 64 id) s) s

/-- Land a completion record: a queue takes both words, a register the first (13 R347). -/
def landRecord (op : Nat) (w : StrandWord) (r : Word × Word) (s : State) : Eff :=
  if (destQueue w).isSome then pushWords op w [r.1, r.2] s else landWord op 1 w r.1 s

/-- The record a non-blocking instruction returns when there is none (13 R343). -/
def noRecord : Word × Word := (BitVec.ofNat 64 (15 * 2 ^ 60), 0)

/-- `mprobe` (13 R347). -/
def execMprobe (w : StrandWord) (s : State) : Host.Outcome State Fault Refusal :=
  issueTok Forms.mprobe w (fun s => do
    let (k, s) ← capture Forms.mprobe id w s
    let n := fld k.x 0 2
    need (s.me.team n).valid cIllegalOperand
    needRxe s
    let (t, s) ← teamOf n s
    let (pb, s) ← load (lo64 k.a) 16 (multiple 16 (lo64 k.a)) false false s
    let s ← rxeStrand s
    let pat := wordsOfBytes pb
    let p : Post := { id := 0, team := t.ident, pat := pat.getD 0 0, wmask := pat.getD 1 0, tlr := [], maxlen := 0, eoff := 0, flag := 0 }
    let r := match s.myCtx.unexp.find? fun m => p.matchesKey m.team m.tag m.rank with
      | some m => compWords 0 m.len 0 0 m.tag m.rank
      | none => noRecord
    landRecord 0x182 w r s) s

/-- Cancel a post that is still active: whether it was (13 R347). -/
def cancelPost (die slot : Nat) (p : Post) (s : State) : Bool × State :=
  if p.st = 0 then (true, completePost die slot p (compWords 2 0 0 p.id 0 0) s) else (false, s)

/-- `mcancel` (13 R347). -/
def execMcancel (w : StrandWord) (s : State) : Host.Outcome State Fault Refusal :=
  issueTok Forms.mcancel w (fun s => do
    let (k, s) ← capture Forms.mcancel id w s
    needRxe s
    match s.myCtx.post (lo64 k.a).toNat with
    | none => trapOf cIllegalOperand
    | some p =>
      let s ← rxeStrand s
      let (v, s) := cancelPost s.cur.die s.mySlot p s
      landWord 0x183 1 w (BitVec.ofNat 64 (b2n v)) s) s

/-- Pop a completion record: its post's entry is free again, and the record acquires (13 R343, R344). -/
def popComp (r : Comp) (s : State) : State :=
  acquire (s.modMyCtx fun c => { c with comps := c.comps.filter fun x => x.post ≠ r.post,
                                        posts := c.posts.filter fun p => p.id ≠ r.post })

/-- `mcomp` and `mcomp.nb` (13 R347). -/
def execMcomp (w : StrandWord) (s : State) : Host.Outcome State Fault Refusal :=
  issueTok Forms.mcomp w (fun s => do
    let (k, s) ← capture Forms.mcomp id w s
    needRxe s
    let a := lo64 k.a
    let any := a = BitVec.allOnes 64
    need (any || (s.myCtx.post a.toNat).isSome) cIllegalOperand
    match s.myCtx.comps.find? fun r => any || r.post = a.toNat with
    | some r => landRecord 0x184 w (r.w0, r.w1) (popComp r s)
    | none => if bit k.x 2 then landRecord 0x184 w noRecord s else .error (.wait 10 0)) s

/-- `mqry` (13 R347). -/
def execMqry (w : StrandWord) (s : State) : Host.Outcome State Fault Refusal :=
  issueTok Forms.mqry w (fun s =>
    let c := s.myCtx
    let v := match w.c.idx.toNat with
      | 0 => (c.posts.filter fun p => p.st = 0).length
      | 1 => c.unexp.length
      | 2 => eagerUsed c
      | _ => c.refused
    landWord 0x185 1 w (BitVec.ofNat 64 v) s) s

/-! ### Control-ring commands (13 R348) -/

/-- The context slot of the control ring that acts. -/
def rxeSlot (s : State) : Nat := (s.ring s.cur.die (ringHere s)).owner

/-- `xnop` (13 R348). -/
def execXnop (s : State) : Host.Outcome State Fault Refusal := simpleCmd (s.hand.cmd.opnd = 0) .ok s

/-- `xpost`: it is held while the quota is full (13 R348). -/
def execXpost (s : State) : Host.Outcome State Fault Refusal :=
  simpleCmd (fld s.hand.cmd.opnd 7 33 = 0) (fun s => do
    let die := s.cur.die
    let slot := rxeSlot s
    let h := s.hand.cmd
    let g := engineAgent die slot
    need (bit (s.ctx die slot).rxcfg 63) cAddressClass
    let (t, s) ← reachTeam g false h.w1 0 64 s
    let _ ← locate s g h.w2 32 32 .rd false
    let (db, s) ← readPiece g h.w2 32 s
    let desc := wordsOfBytes db
    let (tlr, s) ← readTlr 0 g (desc.getD 2 0) s
    let p ← makePost desc tlr t.ident (fld h.opnd 0 7)
    let idw ← if h.w3 = 0 then .ok none else (locate s g h.w3 8 8 .wr false).map some
    orWait (quotaLeft (s.ctx die slot)) 10 0
    let s ← rxeServe die (rankEngine (ringHere s)) s
    let (v, s) := s.takeFree
    let id := newPostId (s.ctx die slot) v
    let s ← match idw with
      | none => Except.ok s
      | some f => do
        let (_, s) ← writePiece (rxeWriter die slot) h.w3 ((toBytes 8 id).map some) s
        .ok (keepFound s g h.w3 f false)
    .ok (postIn die slot { p with id } s)) s

/-- `xcancel` (13 R348). -/
def execXcancel (s : State) : Host.Outcome State Fault Refusal :=
  simpleCmd (fld s.hand.cmd.opnd 14 26 = 0) (fun s => do
    let die := s.cur.die
    let slot := rxeSlot s
    need (bit (s.ctx die slot).rxcfg 63) cAddressClass
    match (s.ctx die slot).post (fld s.hand.cmd.opnd 0 14) with
    | none => trapOf cIllegalOperand
    | some p => do
      let s ← rxeServe die (rankEngine (ringHere s)) s
      .ok (cancelPost die slot p s).2) s

end Sys2Proof.Machine
end

