-- ==== Sys2Proof/Machine/Optics.lean ====
section
/-!
DEFINITION. The optics: what the TFU fetches, when windows start, how they are judged and accumulated, calibration,
lasers and the symbol clock (10 R240 to R268; 11 R285 to R293; logs 12 and 18).
-/

namespace Sys2Proof.Machine

/-! ### Amplitudes (10 R241, R245) -/

/-- Amplitude of a code on a half of its side: half 1 is the high one. `t` is the block's type. -/
def halfAmp (b8 split : Bool) (t half code : Nat) : Int :=
  if b8 then (if half = 1 then wrapInt true 4 (code / 16 % 16) else (code % 16 : Nat))
  else if !split then amp4 t code
  else
    let k := code % 8
    let mag := if half = 1 then (if 5 ≤ k then 2 ^ (k - 5) else 0) else if 1 ≤ k ∧ k ≤ 4 then 2 ^ (k - 1) else 0
    if code / 8 % 2 = 1 then -(mag : Nat) else (mag : Nat)

/-- The lanes of one operand row: its scale word and its codes, on one lane or on a low and a high one; a block with E of
0 is modulated as amplitude 0 (10 R249). -/
def rowLanes (b8 split : Bool) (sw : Nat) (codes : List Nat) : List (Nat × List Int) :=
  let half := fun h => (sw, codes.map fun c => if scaleE sw = 0 then 0 else halfAmp b8 split (scaleT sw) h c)
  if split then [half 0, half 1] else [half 0]

/-- Whether a 4-bit block's type does not fit its side's mapping (10 R250). -/
def misfit (b8 split : Bool) (sw : Nat) : Bool := !b8 && (scaleT sw = 2) != split

/-! ### The tile fetch unit (10 R254 to R256; 11 R283) -/

/-- The 128-byte lines n bytes stand on, where they are in this package. -/
def linesOf (g : Agent) (va : Word) (n : Nat) (s : State) : List Nat :=
  (piecesOf va n).filterMap fun p =>
    match locate s g (va + BitVec.ofNat 64 p.1) p.2 1 .rd false with
    | .ok f => some (f.place.key / 128)
    | .error _ => none

/-- Codes of w symbols from bytes that start at the first symbol's byte. -/
def symCodes (b8 : Bool) (first w : Nat) (bs : List Byte) : List Nat :=
  (List.range w).map fun i =>
    if b8 then (bs.getD i 0).toNat
    else
      let e := first % 2 + i
      (bs.getD (e / 2) 0).toNat / 16 ^ (e % 2) % 16

/-- Where one row of a window stands: the agent that reads it, the addresses of its first code and of its scale word;
or the code and scale word it reads as beyond the data, and whether those came from a fill value. -/
inductive RowAt where
  | at_ (g : Agent) (codes scale : Word)
  | edge (code sw : Nat) (filled : Bool)
  deriving DecidableEq, Repr

/-- Row i of an operand at symbol S of its rows (11 R283; 06 R146, R147). -/
def rowAt (die owner : Nat) (b8 : Bool) (o : MxOpd) (i sym : Nat) (s : State) : RowAt :=
  let row := o.row + i
  let blk := sym / 96
  let bits := if b8 then 8 else 4
  let g := engineAgent die owner
  if o.kind = 1 then
    let e := (s.die die).tile o.tile
    let c := if b8 then 96 else 48
    let n := tileRowBytes e / (c + 2)
    if row < fld e 38 12 ∧ blk < n then
      let base := tileVa o.tile e + BitVec.ofNat 64 (row * tileRowBytes e)
      .at_ (tileAgent g o.tile) (base + BitVec.ofNat 64 (sym * bits / 8)) (base + BitVec.ofNat 64 (n * c + 2 * blk))
    else .edge 0 0 false
  else
    let t := o.tlr
    let d1 := if tlrRank t = 1 then 1 else tlrD t 1
    if row < d1 ∧ 96 * blk < tlrD t 0 then
      let off := sym + row * (if tlrRank t = 1 then 0 else tlrS t 1)
      let in_ := fun (v : Word) (n : Nat) =>
        if o.kind = 2 then setFld v 48 16 o.handle + BitVec.ofNat 64 n else v + BitVec.ofNat 64 n
      .at_ g (in_ (tlrW t 0) (off * bits / 8)) (in_ (tlrW t 10) (2 * (off / 96)))
    else if tlrFe t then .edge ((tlrW t 9).toNat % 2 ^ bits) (fld (tlrW t 9) 48 16) true
    else .edge 0 0 false

/-- Fetch one row of a window: its lanes, whether it breaks R250, the lines it pins, and the bytes read. -/
def fetchRow (die owner : Nat) (b8 split : Bool) (o : MxOpd) (i sym w : Nat) (s : State) :
    Except Stop ((List (Nat × List Int) × Bool × List Nat × Nat) × State) :=
  match rowAt die owner b8 o i sym s with
  | .edge code sw filled =>
    .ok ((rowLanes b8 split sw (List.replicate w code), filled && misfit b8 split sw, [], 0), s)
  | .at_ g ca sa => do
    let n := if b8 then w else (sym % 2 + w + 1) / 2
    let (bs, s) ← readRun g (o.kind = 2) ca 0 n s
    let (sb, s) ← readRun g (o.kind = 2) sa 0 2 s
    let sw := ofBytes sb
    let pins := if o.kind = 2 then [] else linesOf g ca n s ++ linesOf g sa 2 s
    .ok ((rowLanes b8 split sw (symCodes b8 sym w bs), misfit b8 split sw, pins, n + 2), s)

/-- Fetch one side of a window: a tile must be ready (06 R154). -/
def fetchSide (die owner lanes : Nat) (split : Bool) (b8 : Bool) (o : MxOpd) (sym w : Nat) (s : State) :
    Except Stop (WinSide × State) := do
  orWait (o.kind ≠ 1 || tileSt ((s.die die).tile o.tile) = 2) 10 0
  let rows := if split then lanes / 2 else lanes
  let (x, s) ← (List.range rows).foldlM (fun (acc : WinSide × State) i => do
    let ((ls, bad, ps, n), s) ← fetchRow die owner b8 split o i sym w acc.2
    let a := acc.1
    .ok ({ a with lanes := a.lanes ++ ls, bad := a.bad || bad, pins := a.pins ++ ps.filter fun p => !a.pins.contains p,
                  bytes := a.bytes + n }, s))
    ({ b8, tile := if o.kind = 1 then some o.tile else none }, s)
  .ok (x, s)

/-- The length of the window that starts at a symbol: it crosses no block and does not pass the K range (10 R243). -/
def winLen (w pos total : Nat) : Nat := min w (min (96 - pos % 96) (total - pos))

/-- The matrix command of a ring whose window is next: every command before it is a matrix command whose windows have
all started (log 18). -/
def nextMx : List TakenCmd → Option (TakenCmd × MxRun)
  | [] => none
  | t :: ts =>
    match t.job with
    | .mx r => if r.dead || decide (r.total ≤ r.pos) then nextMx ts else some (t, r)
    | .ready => nextMx ts
    | _ => none

/-- Fetch the next window of a matrix command. -/
def fetchWin (die k : Nat) (t : TakenCmd) (r : MxRun) (s : State) : Except Stop (Win × State) := do
  let owner := (s.ring die k).owner
  let w := winLen t.set.win r.pos r.total
  let sym := r.k0 * stepSyms r.b8 + r.pos
  let (a, s) ← (if r.act.kind = 3 then Except.ok (({ b8 := r.b8 } : WinSide), s)
                else fetchSide die owner r.m t.set.aspl r.b8 r.act sym w s)
  let (b, s) ← fetchSide die owner r.n t.set.wspl r.b8 r.wts sym w s
  .ok ({ id := t.id, pos := r.pos, w, act := a, wts := b, last := decide (r.total ≤ r.pos + w) }, s)

/-- Charge the owner of a ring with the energy its windows use, in fJ (10 R267). -/
def chargeRing (die k fj : Nat) (s : State) : State :=
  s.modCtx die (s.ring die k).owner fun c => { c with omeFj := c.omeFj + fj }

/-- Energy of bytes the TFU fetches, in fJ: 22 W at 38,400 bytes a slot (10 R267; log 12). -/
def fetchFj (bytes : Nat) : Nat := bytes * 44000000 / 38400

/-- `TFU_FETCH`: the operands of the next window of the unit's ring are fetched and pinned; a fault is held until the
command reaches the window (10 R254 to R256). -/
def execTfuFetch (s : State) : Host.Outcome State Fault Refusal :=
  let die := s.cur.die
  let k := drillHere s
  match nextMx (s.drill die k).taken with
  | none => stay s
  | some (t, r) =>
    if r.next.isSome || r.fault.isSome then stay s
    else
      match fetchWin die k t r s with
      | .ok (w, s1) =>
        let s1 := chargeRing die k (fetchFj (w.act.bytes + w.wts.bytes))
          (sideReader die w.wts true (sideReader die w.act true s1))
        drillEnd (advance die k 16 (setJob die k t.id (.mx { r with next := some w }) s1)) s
      | .error (.wait _ _) => stay s
      | .error .absent => .fault .absentMemory
      | .error (.trap c _ a) =>
        drillEnd (advance die k 16 (setJob die k t.id (.mx { r with fault := some (c, a) }) s)) s

/-! ### Slots and arbitration (10 R242, R257 to R265) -/

/-- Bits of a window's conditions, in the order of `CMASK`. -/
def cdFetch : Nat := 1
def cdLock : Nat := 2
def cdOvf : Nat := 4
def cdDim : Nat := 8
def cdSkew : Nat := 16
def cdMarg : Nat := 32
def cdSat : Nat := 64

/-- Laser power of a bus waveguide, in percent (10 R268). -/
def lpw (d : Die) (bus : Nat) : Nat := fld d.omestat (8 + 8 * bus) 8

/-- The conditions a window meets as it starts: a dim bus it uses (10 R253, R258), or a block that misfits. -/
def startCond (d : Die) (m thr : Nat) (w : Win) : Nat :=
  (if lpw d 0 < thr ∨ (128 < m ∧ lpw d 1 < thr) then cdDim else 0) + (if w.act.bad || w.wts.bad then cdFetch else 0)

/-- Whether windows may start on a die: it is in service, locked and settled, lit and calibrated, and in no gap. -/
def dieOpen (d : Die) : Bool := d.booted && !d.fenced && !d.frozenClk && d.locked && d.settle = 0 && d.lit && !d.gap

/-- Whether a ring's owner lets its windows start: it runs, or one window is stepped (10 R266). -/
def ringRuns (die k : Nat) (s : State) : Bool :=
  let r := s.ring die k
  (enginesRun (s.ctx die r.owner) || (s.drill die k).step = 1) && r.state ≠ 3

/-- Whether a ring's report part can take the report of one window more: a disabled one drops it (08 R201). -/
def reportRoom (die k : Nat) (s : State) : Bool :=
  let d := s.drill die k
  let r := s.ring die (reportRing k)
  !r.en || (d.stash.isEmpty && decide (r.tail - r.head + d.wins.length < r.size))

/-- The next window of a ring when it is ready to start: fetched, its session open, room for its report, no window before
it still promised to a broadcast, and under `ACT` 1 or 2 its command's first window only once the earlier command is
judged (10 R254, R265; 11 R293). -/
def readyWin (die k : Nat) (s : State) : Option (TakenCmd × MxRun × Win) :=
  let d := s.drill die k
  match nextMx d.taken with
  | none => none
  | some (t, r) =>
    match r.next with
    | none => none
    | some w =>
      let prevAct := d.taken.any fun x => decide (x.id < t.id) && decide (x.set.act ≠ 0) && d.wins.any fun v => v.id = x.id
      let clash := !r.started && !d.wins.isEmpty && (t.set.act ≠ 0 || prevAct)
      let behind := !r.session && d.wins.any fun v => v.ahead ≠ 0
      if ringRuns die k s && d.session && reportRoom die k s && !behind && !clash then some (t, r, w) else none

/-- The settings a window uses: those of its command's take (10 R263). -/
def winSet (d : Drill) (id : Nat) : DrillSet := ((d.taken.find? fun t => t.id = id).map TakenCmd.set).getD {}

/-- Energy of a window of some lanes and rows, in fJ: its modulators and receivers by the symbols, its conversions and
values once each, the lasers for its slot (10 R248, R267; log 12). -/
def windowFj (x : DrillSet) (w : Win) : Nat :=
  let m := w.act.lanes.length
  let n := w.wts.lanes.length
  let values := (if x.aspl then m / 2 else m) * (if x.wspl then n / 2 else n)
  n * w.w * 59000000 / (512 * 96) + (if w.act.own then m * w.w * 29400000 / (256 * 96) else 0) +
    m * n * w.w * 39400000 / (131072 * 96) + m * n * (if x.range then 400 else 450) + values * 80000000 / 131072 + 160000000

/-- A window begins to integrate in the present slot (10 R244). -/
def lightWin (die k seq : Nat) (s : State) : State :=
  let d := s.drill die k
  let x := s.die die
  match d.wins.find? fun w => w.seq = seq with
  | none => s
  | some w =>
    let set := winSet d w.id
    let c := startCond x w.act.lanes.length set.thr w ||| (if x.settle = 0 then 0 else cdLock)
    let s := s.modDrill die k fun d =>
      { d with wins := d.wins.map fun v => if v.seq = seq then { v with ahead := 0, lit := true, cond := v.cond ||| c } else v }
    let s := s.modDie die fun d => { d with laserNs := d.laserNs + 2 }
    countEv die 0x030 (some (s.ring die k).owner) none 1 (chargeRing die k (windowFj set w) s)

/-- The next window of a ring is given a slot: it takes the next sequence number (11 R285). With `ahead` 0 it is the
present one. -/
def startWin (die k ahead : Nat) (t : TakenCmd) (r : MxRun) (w : Win) (s : State) : State :=
  let d := s.drill die k
  let s := setJob die k t.id (.mx { r with next := none, pos := r.pos + w.w, started := true }) s
  let s := s.modDrill die k fun d =>
    { d with seq := (d.seq + 1) % 2 ^ 24, wins := d.wins ++ [{ w with seq := d.seq, ahead }],
             step := if d.step = 1 then 2 else d.step }
  if ahead = 0 then lightWin die k d.seq s else s

/-- The front command of a ring that takes slots: calibration or skew on command (11 R279). -/
def frontSlots (die k : Nat) (s : State) : Option (TakenCmd × Nat × SlotWork) :=
  match frontJob die k s with
  | some t => match t.job with
    | .slots (n + 1) work => if (s.drill die k).session || !t.sess then some (t, n, work) else none
    | _ => none
  | none => none

/-- Whether a window of a die is ready. -/
def anyReady (die : Nat) (s : State) : Bool := (List.range 4).any fun k => (readyWin die k s).isSome

/-- The energy of a slot that a command takes is what it is, and its ring's owner is charged with it (11 R279; log 12). -/
def freeUse (die k : Nat) (s : State) : State :=
  let (v, s) := s.takeFree
  chargeRing die k (fld v 0 32) s

/-- A consumer's path measurement that takes this slot (11 R287). -/
def pathSlot (die k : Nat) (s : State) : Option Nat :=
  match (s.drill die k).bc with
  | some b => if !b.producer && b.formed && 0 < b.path then some (b.path - 1) else none
  | none => none

/-- The unit of a calibration has a slot; a skew trim needs two (10 R257). -/
def calSlot (die u : Nat) (s : State) : State :=
  if u = skewUnit && !(s.die die).skewHalf then
    s.modDie die fun d => { d with skewHalf := true, steal := d.steal.erase u }
  else calibrated die [u] s

/-- What takes this slot from the windows of a die, if anything does (10 R257, R258; 11 R279): a calibration after a
relight, a command, a path measurement, a calibration that is due. -/
def takenSlot (die : Nat) (s : State) : Option State :=
  let d := s.die die
  if 0 < d.calLeft then
    let s := s.modDie die fun d => { d with calLeft := d.calLeft - 1, lit := d.lit || decide (d.calLeft = 1) }
    some (if d.calLeft = 1 then calibrateAll die s else s)
  else
    match (List.range 4).find? fun k => (frontSlots die k s).isSome with
    | some k => (frontSlots die k s).map fun (t, n, work) => freeUse die k (setJob die k t.id (.slots n work) s)
    | none =>
      match (List.range 4).find? fun k => (pathSlot die k s).isSome with
      | some k => (pathSlot die k s).map fun n =>
          let s := modBc die k (fun b => { b with path := n }) s
          if n = 0 then measurePath die k s else s
      | none =>
        match d.steal with
        | [] => none
        | u :: _ =>
          let s' := calSlot die u s
          some (if anyReady die s then
              countEv die 0x032 none none 1
                (s'.modDie die fun d => { d with omestat := setFld d.omestat 32 32 (fld d.omestat 32 32 + 1) })
            else s')

/-- n free amplitudes, of light that another package modulates (log 18). -/
def freeLanes (n w : Nat) (s : State) : List (Nat × List Int) × State :=
  ((List.range n).map fun l =>
    ((Config.freeValue (s.free + l * (w + 1))).toNat % 65536,
     (List.range w).map fun i => (((Config.freeValue (s.free + l * (w + 1) + 1 + i)).toNat % 63 : Nat) : Int) - 31),
   { s with free := s.free + n * (w + 1) })

/-- A consumer's window takes the producer's light: one that differs in length or lanes meets `FETCH` (11 R288). -/
def withLight (w : Win) (m : Nat) (p : Win) (pm : Nat) : Win :=
  { w with act := { p.act with bad := p.act.bad || w.w ≠ p.w || m ≠ pm, pins := [], tile := none, own := false } }

/-- Whether the governor withholds a slot of a die: which ones is open (17 R424; log 12). -/
def withheld (s : State) : Bool × State :=
  let (v, s) := s.takeFree
  (decide (v.toNat % 100 < s.pkg.shed), s)

/-- The members of a session for a window: the ring, and how many slots from now its own slot comes. A member's slot counts
on from its own grid, and the path's whole slots shift it (10 R262). -/
def sessionMembers (die k : Nat) (b : Bcast) (s : State) : List (Nat × Nat × Nat) :=
  (die, k, 1) :: (bcConsumers die b s).map fun x => (x.1, x.2.1, 1 + x.2.2.shift + b2n (s.die x.1).slotDue)

/-- Whether a member signals that it is ready: its operands are there, and the slot is free of taken slots, of freezes and
of other sessions' windows (10 R262). -/
def memberReady (x : Nat × Nat × Nat) (s : State) : Bool :=
  let wins := (List.range 4).flatMap fun k => (s.drill x.1 k).wins
  dieOpen (s.die x.1) && (takenSlot x.1 s).isNone && wins.all (fun w => w.ahead ≠ x.2.2) &&
    (s.drill x.1 x.2.1).wins.all (fun w => w.ahead < x.2.2) &&
    match readyWin x.1 x.2.1 s with
    | some (_, r, _) => r.session
    | none => false

/-- Whether no member's slot is withheld. -/
def noneWithheld (n : Nat) (s : State) : Bool × State :=
  (List.range n).foldl (fun acc _ => let (h, s) := withheld acc.2; (acc.1 && !h, s)) (true, s)

/-- A session whose producer is on a die gives its next window the slot that comes next, when every member signals that it
is ready: one slot ahead (10 R262; 11 R288). -/
def sessionSlot (die : Nat) (s : State) : Option State :=
  (List.range 4).findSome? fun k =>
    match (s.drill die k).bc, readyWin die k s with
    | some b, some (t, r, w) =>
      let ms := sessionMembers die k b s
      if !b.producer || !b.formed || decide ((s.die die).ftime.toNat + 2 < b.at_.toNat) || !ms.all (fun x => memberReady x s) then
        none
      else
        let (far, s) := farReady b.far s
        let (open_, s) := noneWithheld ms.length s
        if !far || !open_ then none
        else
          some (ms.tail.foldl (fun s x =>
            match readyWin x.1 x.2.1 s with
            | some (t', r', w') => startWin x.1 x.2.1 x.2.2 t' r' (withLight w' r'.m w r.m) s
            | none => s) (startWin die k 1 t r w s))
    | _, _ => none

/-- The window whose promised slot begins: its ring and sequence number; every other promise comes a slot nearer. -/
def promisedWin (die : Nat) (s : State) : Option (Nat × Nat) :=
  (List.range 4).findSome? fun k => ((s.drill die k).wins.find? fun w => w.ahead = 1).map fun w => (k, w.seq)

/-- The slot is over: no window integrates any more, and every promise of the die comes so many slots nearer. -/
def endSlot (die near : Nat) (s : State) : State :=
  (List.range 4).foldl (fun s k => s.modDrill die k fun d =>
    { d with wins := d.wins.map fun w => { w with lit := false, ahead := w.ahead - near } }) s

/-- A consumer whose producer is in another package starts its next window when that window's light arrives, which is as
it is: a free value (log 18). -/
def farSlot (die : Nat) (s : State) : Option State :=
  (List.range 4).findSome? fun k =>
    match (s.drill die k).bc, readyWin die k s with
    | some b, some (t, r, w) =>
      if b.producer || b.far = 0 || !b.formed || !r.session then none
      else
        let (arrived, s) := farReady b.far s
        if !arrived then none
        else
          let (ls, s) := freeLanes r.m w.w s
          let (v, s) := s.takeFree
          some (startWin die k 0 t r { w with act := { b8 := r.b8, lanes := ls, bad := bit v 0, own := false } } s)
    | _, _ => none

/-- The ring the arbitration chooses: the greatest credit, the lowest ring on equal credit (10 R265). -/
def greatest (cr : Nat → Int) : List Nat → Option Nat
  | [] => none
  | k :: ks => match greatest cr ks with
    | none => some k
    | some j => if cr j ≤ cr k then some k else some j

/-- The rings of a die whose next window the arbitration may start. -/
def eligible (die : Nat) (s : State) : List Nat :=
  (List.range 4).filter fun k =>
    match readyWin die k s with
    | some (_, r, _) => !r.session
    | none => false

/-- A ring that is not eligible at a slot boundary loses its credit (10 R265). -/
def loseCredit (die : Nat) (s : State) : State :=
  let el := eligible die s
  (List.range 4).foldl (fun s k => if el.contains k then s else s.modDrill die k fun d => { d with credit := 0 }) s

/-- Arbitrate among the eligible rings of a die and start the chosen ring's window (10 R265). -/
def arbitrate (die : Nat) (s : State) : State :=
  let el := eligible die s
  let wt := fun k => omeWeight (s.die die).omeshr k
  let credit := fun k => (s.drill die k).credit + (wt k : Int)
  match greatest credit el with
  | none => (List.range 4).foldl (fun s k => s.modDrill die k fun d => { d with credit := 0 }) s
  | some c =>
    let sum : Int := ((el.map wt).foldl (· + ·) 0 : Nat)
    let s := (List.range 4).foldl (fun s k => s.modDrill die k fun d =>
      { d with credit := if !el.contains k then 0 else if k = c then credit k - sum else credit k }) s
    match readyWin die c s with
    | some (t, r, w) => startWin die c 0 t r w s
    | none => s

/-! ### Upkeep in slots (10 R257, R258, R268) -/

/-- Nanoseconds for which a calibration of a unit is good: the lattice intervals hold while any ring that is enabled is in
lattice mode (10 R257; log 12). -/
def calGood (die u : Nat) (s : State) : Nat :=
  let lattice := (List.range 4).any fun k => (s.ring die k).en && !(s.drill die k).set.range
  if u < 16 then (if lattice then 1000000 else 10000000) else if u < 24 then 250000 else 100000

/-- When a unit's calibration runs out. -/
def calBy (die u : Nat) (s : State) : Nat := Tab.get 0 (s.die die).calAt u + calGood die u s

/-- Nanoseconds before its deadline at which a calibration counts as due: a run of every unit fits in (log 12). -/
def calLead : Nat := 52

/-- The units of some that are due and not yet noted so. -/
def dueUnits (die : Nat) (us : List Nat) (s : State) : List Nat :=
  if !(s.die die).lit then []
  else us.filter fun u => !(s.die die).steal.contains u && decide (calBy die u s ≤ s.pkg.ns + calLead)

/-- Slots a unit's calibration still takes, each noted by the unit's number. -/
def unitSlots (d : Die) (u : Nat) : List Nat := if u = skewUnit && !d.skewHalf then [u, u] else [u]

/-- Note a unit as due. -/
def noteDue (die u : Nat) (s : State) : State := s.modDie die fun d => { d with steal := d.steal ++ unitSlots d u }

/-- Note every unit of a die that is due. -/
def noteAll (die : Nat) (s : State) : State :=
  (dueUnits die (bankUnits ++ groupUnits ++ [skewUnit]) s).foldl (fun s u => noteDue die u s) s

/-- Of some units, the first whose calibration runs out soonest. -/
def soonest (die : Nat) (s : State) : List Nat → Option Nat
  | [] => none
  | u :: us => match soonest die s us with
    | none => some u
    | some v => if calBy die u s ≤ calBy die v s then some u else some v

/-- An idle slot may go to the calibration that will be due the soonest; whether it does is open (10 R257; log 12). -/
def idleSlot (die : Nat) (s : State) : State :=
  let (v, s) := s.takeFree
  if !(s.die die).lit || !bit v 0 then s
  else match soonest die s (bankUnits ++ groupUnits ++ [skewUnit]) with
    | some u => calSlot die u s
    | none => s

/-- The bus waveguides of a die whose power is below the lowest threshold of its enabled rings (10 R258). -/
def weakBuses (die : Nat) (s : State) : List Nat :=
  let on := (List.range 4).filter fun k => (s.ring die k).en
  [0, 1].filter fun bus => !on.isEmpty && on.all fun k => decide (lpw (s.die die) bus < (s.drill die k).set.thr)

/-- Slots after which a loss of power is sustained. -/
def lossSlots : Nat := 1000

/-- Laser power is monitored in every slot: a bus waveguide counts the slots its power has been too low for, up to a loss
that is sustained and one more for a loss that is notified (10 R258). -/
def watchPower (die : Nat) (s : State) : State :=
  let weak := weakBuses die s
  s.modDie die fun d =>
    { d with dimFor := [0, 1].foldl (fun t b =>
        let n := Tab.get 0 t b
        Tab.put t b (if weak.contains b then max n (min lossSlots (n + 1)) else 0)) d.dimFor }

/-- Whether a full calibration runs. -/
def calRuns (die : Nat) (s : State) : Bool :=
  decide (0 < (s.die die).calLeft) || (List.range 4).any fun k =>
    match frontSlots die k s with
    | some (_, _, work) => work = .full
    | none => false

/-- `OMESTAT` as the die stands. -/
def omestatNow (die : Nat) (s : State) : Word :=
  let d := s.die die
  setFld (setFld (setFld d.omestat 2 1 (b2n (calRuns die s))) 1 1 (b2n d.lit)) 0 1 (b2n (d.locked && d.settle = 0))

/-- The snapshot that `OMESTAT` reads as is taken (10 R268). -/
def snapshot (die : Nat) (s : State) : State := let w := omestatNow die s; s.modDie die fun d => { d with omeSnap := w }

/-- What a slot of a die is used for: a session window it is promised to, whatever takes it from the windows, the light of
another package, the ring the arbitration chooses, or a calibration ahead of its time (10 R257 to R265). -/
def useSlot (die : Nat) (promised : Option (Nat × Nat)) (s : State) : State :=
  let (held, s) := withheld s
  match promised with
  | some (k, seq) => lightWin die k seq s
  | none =>
    match takenSlot die s with
    | some s => s
    | none =>
      if !dieOpen (s.die die) || held then s
      else match farSlot die s with
        | some s => s
        | none => if anyReady die s then arbitrate die s else idleSlot die (arbitrate die s)

/-- A slot boundary: the last slot ends, what upkeep is due is noted, the slot is used, and sessions give windows the next
one (10 R242, R257 to R265, R268). -/
def nextSlot (die : Nat) (s : State) : State :=
  let promised := promisedWin die s
  let s := loseCredit die (watchPower die (noteAll die (endSlot die 1 s)))
  let s := useSlot die promised s
  snapshot die ((sessionSlot die s).getD s)

/-- Whether a die's slot grid runs, so that its boundaries are met as they come (10 R242). -/
def gridRuns (d : Die) : Bool := d.booted && !d.fenced && !d.frozenClk && d.locked

/-- `SLOT_BOUNDARY`: the next slot of a die begins, where its field time has come to a boundary (10 R242). A realignment gap
of no symbol or of 48 comes before it: boundaries fall on even nanoseconds again. -/
def execSlotBoundary (s : State) : Host.Outcome State Fault Refusal :=
  let die := s.cur.die
  let d := s.die die
  if !gridRuns d || !d.slotDue then stay s
  else
    match advanceAll die s with
    | .error .absent => .fault .absentMemory
    | .error _ => stay s
    | .ok s =>
      if d.gap then act ((endSlot die 0 s).modDie die fun d => { d with gap := false, slotDue := !d.odd, odd := false })
      else
        let s := s.modDie die fun d => { d with slotDue := false, settle := if 1 < d.settle then d.settle - 1 else d.settle }
        drillEnd (advanceAll die (nextSlot die s)) s

/-! ### Readings (10 R246 to R249) -/

/-- The nearest code a converter has. -/
def clampCode (c : Int) : Int := if c < -511 then -511 else if 511 < c then 511 else c

/-- What a receiver reads: its code, and whether it is saturated or marginal. `v` is the free value its analog
measurement stands for; `astray` says that the window's light is not held to the rules (10 R247, R248; log 12). -/
def receiver (range astray : Bool) (gain : Nat) (p : Int) (v : Nat) : Int × Bool × Bool :=
  let q : Int := ((2 ^ gain : Nat) : Int)
  if 511 * q < p ∨ p < -(511 * q) then (-512, true, false)
  else
    let lo := Int.fdiv p q
    let d := p - lo * q
    if range then
      if astray then (((v % 1023 : Nat) : Int) - 511, false, false)
      else (clampCode (if d = 0 then lo - 1 + ((v % 3 : Nat) : Int) else lo + ((v % 2 : Nat) : Int)), false, false)
    else
      let near := if 2 * d < q then lo else if q < 2 * d then lo + 1 else lo + ((v / 2 % 2 : Nat) : Int)
      if v % 2 = 1 then (clampCode (near - 1 + ((v / 4 % 3 : Nat) : Int)), false, true) else (near, false, false)

/-- A block's exponent of its low lattice unit (10 R249). -/
def unitExp (b8 : Bool) (t : Nat) : Int := if b8 then 0 else if t = 1 then -1 else if t = 2 then -3 else 0

/-- The value a window gives a product, and whether it overflows (10 R249). -/
def winValue (ab wb : Bool) (sa sw : Nat) (c : Int) : Nat × Bool :=
  let odd := fun (b8 : Bool) (s : Nat) => scaleE s = 255 || (b8 && scaleT s ≠ 0)
  if odd ab sa || odd wb sw then (0x7FC00000, false)
  else if scaleE sa = 0 || scaleE sw = 0 then (0, false)
  else
    let e : Int := (scaleE sa : Int) + scaleE sw - 266 + unitExp ab (scaleT sa) + unitExp wb (scaleT sw)
    let v := (f32.roundDyad 0 false
      { n := c * ((64 + scaleM sa : Nat) : Int) * ((64 + scaleM sw : Nat) : Int), e } false).bits
    (v, f32.mag v = 0x7F800000)

/-- The sum of products of two lanes. -/
def dotOf (a b : List Int) : Int := (List.zipWith (· * ·) a b).foldl (· + ·) 0

/-- One product of a window: its value, whether it overflows, and its member receivers with what each meets. -/
structure Product where
  value : Nat
  ovf : Bool
  members : List (Nat × Bool × Bool)
  deriving DecidableEq, Repr

/-- Logical product (i, j) of a window (10 R245, R246): `free` is the first of its readings' free values. -/
def productOf (x : DrillSet) (w : Win) (astray : Bool) (free i j : Nat) : Product :=
  let ha := if x.aspl then 2 else 1
  let hw := if x.wspl then 2 else 1
  let reads := (List.range ha).flatMap fun a => (List.range hw).map fun b =>
    let l := ha * i + a
    let r := hw * j + b
    let p := dotOf (w.act.lanes.getD l (0, [])).2 (w.wts.lanes.getD r (0, [])).2
    (a + b, l * 512 + r, receiver x.range astray x.gain p (Config.freeValue (free + l * 512 + r)).toNat)
  let c := reads.foldl (fun acc (h, _, c, _, _) => acc + ((16 ^ h * 2 ^ x.gain : Nat) : Int) * c) 0
  let (v, o) := winValue w.act.b8 w.wts.b8 (w.act.lanes.getD (ha * i) (0, [])).1 (w.wts.lanes.getD (hw * j) (0, [])).1 c
  { value := v, ovf := o, members := reads.map fun (_, rid, _, sat, marg) => (rid, sat, marg) }

/-- An addition into an accumulator (10 R251): no NaN but the canonical one. -/
def accAdd (a v : Nat) : Nat :=
  let r := (f32.add 0 false false a v).bits
  if f32.isNan r then 0x7FC00000 else r

/-- Whether an `f32` pattern is infinite. -/
def f32Inf (v : Nat) : Bool := f32.mag v = 0x7F800000

/-- The status a set of conditions gives (10 R253). -/
def condStatus (c : Nat) : Nat :=
  if c.testBit 0 || c.testBit 1 || c.testBit 3 || c.testBit 4 then 3
  else if c.testBit 6 || c.testBit 2 then 2
  else if c.testBit 5 then 1 else 0

/-- The report word of a window (11 R291). -/
def reportWord (seq cond : Nat) (last : Bool) (cnt first : Nat) : Word :=
  BitVec.ofNat 64 (seq % 2 ^ 24 * 2 ^ 40 + cond % 128 * 2 ^ 33 + b2n last * 2 ^ 32 + min cnt 32767 * 2 ^ 17 + first % 2 ^ 17)

/-- What judging a window finds: its conditions, the new value of each element of the target, and the receivers
affected. -/
structure Judged where
  cond : Nat
  sums : List Nat
  adds : Bool
  cnt : Nat
  first : Nat
  deriving DecidableEq, Repr

/-- The least of a list of receivers, or 0. -/
def leastRid : List Nat → Nat
  | [] => 0
  | [x] => x
  | x :: xs => min x (leastRid xs)

/-- Judge a window (10 R246 to R253; 11 R291): the readings' free values count from `free`; the last one says whether the
pilots show skew (log 12). `old` gives the elements of the target as the window finds them. -/
def judge (x : DrillSet) (r : MxRun) (w : Win) (free : Nat) (old : List Nat) : Judged :=
  let rows := if x.aspl then r.m / 2 else r.m
  let cols := if x.wspl then r.n / 2 else r.n
  let skew := (Config.freeValue (free + 512 * 256)).getLsbD 0
  let c0 := w.cond ||| (if skew then cdSkew else 0)
  let astray := c0 ≠ 0
  let used := !c0.testBit 0
  let ps := (List.range (rows * cols)).map fun e => productOf x w astray free (e / cols) (e % cols)
  let ms := ps.flatMap fun p => p.members
  let c1 := c0 ||| (if ms.any fun m => m.2.1 then cdSat else 0) ||| (if ms.any fun m => m.2.2 then cdMarg else 0) |||
    (if used && ps.any fun p => p.ovf then cdOvf else 0)
  let adds := condStatus c1 ≤ 1 || c1 = cdOvf
  let trial := (ps.zip old).map fun (p, o) =>
    let v := accAdd o p.value
    (v, f32Inf v && !f32Inf p.value && !f32.isNan p.value && !f32Inf o && !f32.isNan o)
  let c2 := if adds && trial.any Prod.snd then c1 ||| cdOvf else c1
  let hit := (ps.zip trial).flatMap fun (p, t) =>
    p.members.filterMap fun m =>
      if m.2.1 || m.2.2 || (used && p.ovf) || (adds && t.2) then some m.1 else none
  let whole := condStatus c2 = 3
  { cond := c2, sums := trial.map Prod.fst, adds, cnt := if whole then r.m * r.n else hit.length,
    first := if whole then 0 else leastRid hit }

/-- Write the elements of a target. -/
def accWrite (die lo : Nat) (vs : List Nat) (s : State) : State :=
  s.modDie die fun d =>
    { d with acc := (vs.zipIdx.foldl (fun t (v, i) => Tab.put t (lo + i) (BitVec.ofNat 32 v)) d.acc) }

/-- The oldest window of a ring is judged, accumulated and reported (10 R251; 11 R277, R278, R292). -/
def judgeWin (die k : Nat) (t : TakenCmd) (r : MxRun) (w : Win) (s : State) : State :=
  let x := t.set
  let n := (if x.aspl then r.m / 2 else r.m) * (if x.wspl then r.n / 2 else r.n)
  let s := if r.fresh then accClear die r.target n s else s
  let j := judge x r w s.free ((List.range n).map fun i => (accRead die (r.target + i) s).1.toNat)
  let s := { s with free := s.free + 512 * 256 + 1 }
  let flagged := j.cond &&& x.cmask ≠ 0
  let how := if flagged then x.act else 0
  let owner := (s.ring die k).owner
  let s := if flagged then countEv die 0x031 (some owner) none 1 s else s
  let s := if how = 1 then s
    else if how = 2 then accRaise die r.target n 3 s
    else accRaise die r.target n (condStatus j.cond) (if j.adds then accWrite die r.target j.sums s else s)
  let word := reportWord w.seq j.cond (w.last || decide (how = 2)) j.cnt j.first
  let s := if x.rep = 0 || flagged then s.modDrill die k fun d => { d with stash := d.stash ++ [(t.id, word)] } else s
  let r' := { r with fresh := false }
  if how = 1 then
    suspendMx die k t r cEngineFault 0 w.pos (fld word 32 8) (flushReports die k 64 s)
  else if how = 2 then
    let s := unpinNext die { t with job := .mx r } s
    let s := s.modDrill die k fun d => { d with wins := d.wins.map fun v => if v.id = t.id then { v with dead := true } else v }
    setJob die k t.id (.mx { r' with dead := true, next := none, fault := none }) s
  else setJob die k t.id (.mx r') s

/-- Whether a step of one window can start none: its ring has stopped (16 R407). -/
def stepStuck (die k : Nat) (s : State) : Bool := (s.drill die k).step = 1 && (s.ring die k).state = 3

/-- The step of one window ends once its report is appended: `FST` returns to 3 (16 R407). -/
def endWinStep (die k : Nat) (s : State) : State :=
  let d := s.drill die k
  if (d.step = 3 && d.stash.isEmpty) || stepStuck die k s then
    (s.modDrill die k fun d => { d with step := 0 }).modCtx die (s.ring die k).owner fun c => if c.fst = 4 then c.setFst 3 else c
  else s

/-- `WINDOW_ACCUMULATE`: the oldest window of the unit's ring is judged, added and reported; a window started after a
flagged one of its command adds nothing and writes no report (10 R244, R251; 11 R293). With no window under way, reports
that waited for room are appended. -/
def execWindowAccumulate (s : State) : Host.Outcome State Fault Refusal :=
  let die := s.cur.die
  let k := drillHere s
  let d := s.drill die k
  match d.wins with
  | [] =>
    if d.stash.isEmpty && !stepStuck die k s then stay s
    else drillEnd ((advance die k 16 s).map fun s => endWinStep die k s) s
  | w :: ws =>
    if w.lit || w.ahead ≠ 0 then stay s
    else
    let s1 := unpin die w (s.modDrill die k fun d => { d with wins := ws })
    let own := d.taken.find? fun t => t.id = w.id
    let s2 := match own with
      | some t => match t.job with
        | .mx r => if w.dead then s1 else judgeWin die k t r w s1
        | _ => s1
      | none => s1
    let s3 := if d.step = 2 then s2.modDrill die k fun d => { d with step := 3 } else s2
    drillEnd ((advance die k 16 s3).map fun s => endWinStep die k s) s

/-! ### Upkeep, lasers, the symbol clock (10 R257 to R259) -/

/-- The calibration of a unit falls due on a lit die (10 R257). -/
def calDue (us : List Nat) (s : State) : Host.Outcome State Fault Refusal :=
  match dueUnits s.cur.die us s with
  | u :: _ => act (noteDue s.cur.die u s)
  | [] => stay s

/-- `CONVERTER_TRIM_DUE`: one bank, one slot. -/
def execConverterTrimDue (s : State) : Host.Outcome State Fault Refusal := calDue bankUnits s
/-- `MODULATOR_BIAS_DUE`: one group, one slot. -/
def execModulatorBiasDue (s : State) : Host.Outcome State Fault Refusal := calDue groupUnits s
/-- `SKEW_TRIM_DUE`: the whole array, two slots. -/
def execSkewTrimDue (s : State) : Host.Outcome State Fault Refusal := calDue [skewUnit] s

/-- The laser module an event names: that of its die. -/
def moduleHere (s : State) : Nat := s.cur.die / 2

/-- Change both dies a module feeds. -/
def modFed (m : Nat) (f : Die → Die) (s : State) : State := (s.modDie (2 * m) f).modDie (2 * m + 1) f

/-- Nanoseconds a module stays lit after its last session, and those it takes to relight (10 R258). -/
def standbyAfter : Nat := 100000
def relightNs : Nat := 50000

/-- `LASER_STANDBY`: no die it feeds has had a session open for 100 microseconds, and the module goes to standby. -/
def execLaserStandby (s : State) : Host.Outcome State Fault Refusal :=
  let m := moduleHere s
  if Tab.get 0 s.pkg.lasers m ≠ 1 || moduleUsed m s || decide (s.pkg.ns < Tab.get 0 s.pkg.lasersAt m + standbyAfter) then
    stay s
  else
    act (modFed m (fun d => { d with lit := false, calLeft := 0, steal := [], skewHalf := false, omestat := setFld d.omestat 8 16 0 })
      { s with pkg := { s.pkg with lasers := Tab.put s.pkg.lasers m 2 } })

/-- `LASER_RELIGHT_DONE`: after 50 microseconds the lasers are lit, at the power a carries for each bus; a full calibration of both dies
follows (10 R257, R258). -/
def execLaserRelightDone (s : State) : Host.Outcome State Fault Refusal :=
  let m := moduleHere s
  if Tab.get 0 s.pkg.lasers m ≠ 3 || decide (s.pkg.ns < Tab.get 0 s.pkg.lasersAt m + relightNs) then stay s
  else
    act (modFed m (fun d => { d with calLeft := 4096, omestat := setFld d.omestat 8 16 (fld s.hand.ev.a 0 16) })
      { s with pkg := { s.pkg with lasers := Tab.put s.pkg.lasers m 1, lasersAt := Tab.put s.pkg.lasersAt m s.pkg.ns } })

/-- Whether a window still integrates: its slot is the present one, and its last symbol is not past. Within one nanosecond
what comes counts as within the window (10 R244, R253; log 12). -/
def integrates (d : Die) (w : Win) : Bool := w.lit && (decide (48 < w.w) || bit d.ftime 0 == d.odd)

/-- The windows of a die that integrate meet a condition. -/
def meet (die c : Nat) (which : DrillSet → Win → Bool) (s : State) : State :=
  let x := s.die die
  (List.range 4).foldl (fun s k => s.modDrill die k fun d =>
    { d with wins := d.wins.map fun w =>
        if integrates x w && which (winSet d w.id) w then { w with cond := w.cond ||| c } else w }) s

/-- `LASER_DIP`: the power of each bus waveguide is what a carries; every window that integrates and whose bus falls below its
ring's threshold meets `DIM`, on both fed dies (10 R253, R258). -/
def execLaserDip (s : State) : Host.Outcome State Fault Refusal :=
  let m := moduleHere s
  if Tab.get 0 s.pkg.lasers m ≠ 1 then stay s
  else
    let s := modFed m (fun d => { d with omestat := setFld d.omestat 8 16 (fld s.hand.ev.a 0 16) }) s
    let dim := fun (die : Nat) (s : State) =>
      let d := s.die die
      meet die cdDim (fun x w => decide (lpw d 0 < x.thr) || (decide (128 < w.act.lanes.length) && decide (lpw d 1 < x.thr))) s
    act (dim (2 * m + 1) (dim (2 * m) s))

/-- `LASER_LOSS_SUSTAINED`: power has stayed below the lowest threshold of the die's enabled rings for 1,000 slots, and the
supervisor is notified of each such bus waveguide, once (10 R258, 17 R433). -/
def execLaserLossSustained (s : State) : Host.Outcome State Fault Refusal :=
  let die := s.cur.die
  let d := s.die die
  let low := [0, 1].filter fun bus => Tab.get 0 d.dimFor bus = lossSlots
  if Tab.get 0 s.pkg.lasers (moduleHere s) ≠ 1 || low.isEmpty then stay s
  else
    act (low.foldl (fun s bus =>
      notify die 6 0 agentDrill 63 0 (BitVec.ofNat 64 (lpw d bus % 256 * 256 + bus)) 0
        (s.modDie die fun d => { d with dimFor := Tab.put d.dimFor bus (lossSlots + 1) })) s)

/-- A loss of the symbol clock cuts the present slot short; the windows promised a slot to come integrate in the loss (10
R259, R262; log 18). -/
def cutSlots (die : Nat) (s : State) : State :=
  (List.range 4).foldl (fun s k => s.modDrill die k fun d =>
    { d with wins := d.wins.map fun w =>
        { w with lit := false, ahead := 0, cond := if w.ahead = 0 then w.cond else w.cond ||| cdLock } }) s

/-- `SYMBOL_LOCK_LOSS`: every window that integrates meets `LOCK` (10 R259). -/
def execSymbolLockLoss (s : State) : Host.Outcome State Fault Refusal :=
  let die := s.cur.die
  if !(s.die die).locked then stay s
  else
    act (snapshot die (cutSlots die (meet die cdLock (fun _ _ => true)
      (s.modDie die fun d => { d with locked := false, settle := 0, slotDue := false }))))

/-- Slots the symbol clock settles for (10 R259). -/
def settleSlots : Nat := 1024

/-- `SYMBOL_LOCK_REGAINED`: the clock has lock again and settles. -/
def execSymbolLockRegained (s : State) : Host.Outcome State Fault Refusal :=
  let die := s.cur.die
  let d := s.die die
  if d.locked || !d.booted then stay s
  else act (s.modDie die fun d => { d with locked := true, settle := settleSlots + 1 })

/-- `SYMBOL_LOCK_SETTLED`: 1,024 slots have passed, and windows may start again. -/
def execSymbolLockSettled (s : State) : Host.Outcome State Fault Refusal :=
  let die := s.cur.die
  if (s.die die).settle ≠ 1 then stay s
  else act (s.modDie die fun d => { d with settle := 0 })

/-- `SESSION_OPENED`: the session of the unit's ring opens once the lasers are lit and its instant has come (11 R274). -/
def execSessionOpened (s : State) : Host.Outcome State Fault Refusal :=
  let die := s.cur.die
  let k := drillHere s
  match frontJob die k s with
  | some t => match t.job with
    | .opening _ => drillEnd (advance die k 16 s) s
    | _ => stay s
  | none => stay s

/-! ### `OMESTAT` and `OMESHR` (10 R264, R268) -/

/-- `OMESTAT` as it reads: the snapshot taken at the last slot boundary. -/
def omestatWord (die : Nat) (s : State) : Word := (s.die die).omeSnap

/-- Whether a ring has a matrix command taken and not retired. -/
def mxTaken (d : Drill) : Bool := d.taken.any fun t => match t.job with
  | .mx _ => true
  | _ => false

/-- Whether the allotments of two rings meet in one bank. -/
def allotClash (w : Word) (i j : Nat) : Bool :=
  omeWeight w i ≠ 0 && omeWeight w j ≠ 0 && omeCount w i ≠ 0 && omeCount w j ≠ 0 && decide (omeFirst w i < omeFirst w j + omeCount w j) &&
    decide (omeFirst w j < omeFirst w i + omeCount w i)

/-- Whether a value may be written to `OMESHR` (10 R264). -/
def omeshrOk (die : Nat) (v : Word) (s : State) : Bool :=
  let old := (s.die die).omeshr
  (List.range 4).all fun k =>
    fld v (16 * k) 2 = 0 && decide (fld v (16 * k + 7) 4 + fld v (16 * k + 2) 5 ≤ 16) &&
      (List.range k).all (fun j => !allotClash v j k) &&
      !(mxTaken (s.drill die k) && fld v (16 * k + 2) 10 ≠ fld old (16 * k + 2) 10)

/-- Write `OMESHR` (10 R264). -/
def writeOmeshr (die : Nat) (v : Word) (s : State) : Eff :=
  if omeshrOk die v s then .ok (s.modDie die fun d => { d with omeshr := v }) else trapOf cReservedField

/-- `OMESHR_WRITE`: the supervisor writes a to `OMESHR` of a die; a refused write changes nothing. -/
def execOmeshrWrite (s : State) : Host.Outcome State Fault Refusal :=
  match writeOmeshr s.cur.die s.hand.ev.a s with
  | .ok s => act s
  | .error _ => stay s

end Sys2Proof.Machine
end

