-- ==== Sys2Proof/Machine/Power.lean ====
section
/-!
DEFINITION. Power tokens, the governor, energy, `timrd`, `enrd`, `pace` and `pwrq`, clocks and field time, and the
registers of notifications (17 R421 to R428, R432, R435; 10 R242; logs 12, 13 and 14).
-/

namespace Sys2Proof.Machine

/-! ### Core clocks (17 R424, R426) -/

/-- Whether a pace grant is live at a field time. -/
def grantLive (now : Nat) (g : Nat × Nat) : Bool := decide (now < g.2)

/-- The live pace grants of a cluster: clock and deadline. -/
def liveGrants (die cl : Nat) (s : State) : List (Nat × Nat) :=
  (List.range 8).filterMap fun j =>
    match (s.core die (8 * cl + j)).grant with
    | some g => if grantLive (s.die die).ftime.toNat g then some g else none
    | none => none

/-- The core clock of a cluster in MHz: the greatest of its live grants, or the governor's clock, within its limits. -/
def clusterMhz (die cl : Nat) (s : State) : Nat :=
  let c := s.cluster die cl
  match liveGrants die cl s with
  | [] => c.base
  | gs => min c.limit (gs.foldl (fun a g => max a g.1) 800)

/-- The lowest core clock in force on any die in service: 0 when none is (17 R422 `FLOOR`). -/
def floorMhz (s : State) : Nat :=
  let ds := s.unfenced.filter fun d => (s.die d).booted
  if ds.isEmpty then 0
  else ds.foldl (fun a d => (List.range 16).foldl (fun a cl => min a (clusterMhz d cl s)) a) 2600

/-! ### Power registers and tokens (17 R422, R423) -/

/-- The most and the least a cap may be. -/
def capMax : Nat := 4000
def capMin : Nat := 1600

/-- Write `PWRCAP`. -/
def writePwrcap (v : Word) (s : State) : Eff := do
  need (fld v 12 52 = 0) cReservedField
  .ok { s with pkg := { s.pkg with cap := max capMin (min capMax (fld v 0 12)) } }

/-- `PWRST`. -/
def pwrstWord (s : State) : Word :=
  BitVec.ofNat 64 (s.pkg.draw % 2 ^ 16 * 2 ^ 48 + s.pkg.out % 2 ^ 16 * 2 ^ 32 + s.pkg.shed % 2 ^ 8 * 2 ^ 24 + floorMhz s % 2 ^ 12)

/-- Write `TOKXFER` on a die: the cap falls and the tokens are on their way; those for this package itself travel to its
first die in service. -/
def writeTokxfer (die : Nat) (v : Word) (s : State) : Eff := do
  let n := fld v 0 16
  let dest := fld v 32 10
  need (fld v 42 22 = 0 && fld v 16 16 = 0 && n ≠ 0 && decide (capMin + n ≤ s.pkg.cap)) cReservedField
  let id := s.nextReq
  let s := { s with pkg := { s.pkg with cap := s.pkg.cap - n, out := s.pkg.out + n,
                                        transfers := s.pkg.transfers ++ [(id, n)], returns := s.pkg.returns ++ [(id, n)] } }
  .ok (if dest = Config.pkgNumber.toNat then
      send .tokens die (s.unfenced.headD 0) [BitVec.ofNat 64 id, BitVec.ofNat 64 n] [] s
    else { s with nextReq := s.nextReq + 1 })

/-- The package takes tokens in: its cap and what is left of them. -/
def takeTokens (n : Nat) (s : State) : Nat × State :=
  let r := min n (capMax - s.pkg.cap)
  (n - r, { s with pkg := { s.pkg with cap := s.pkg.cap + r } })

/-- `PWRCAP_WRITE`: a is written. -/
def execPwrcapWrite (s : State) : Host.Outcome State Fault Refusal := hostWriteOf s (writePwrcap s.hand.ev.a s)
/-- `TOKXFER_WRITE`: a is written. -/
def execTokxferWrite (s : State) : Host.Outcome State Fault Refusal := hostWriteOf s (writeTokxfer s.cur.die s.hand.ev.a s)

/-- `TOKEN_ARRIVAL`: the tokens of the first slot that has arrived raise the cap; what is over goes back, with an
acknowledgement. With no slot there, a tokens come from another package, to which the answers go (17 R423). -/
def execTokenArrival (s : State) : Host.Outcome State Fault Refusal :=
  let die := s.cur.die
  match takeInbox die .tokens s with
  | some (x, s) =>
    let (left, s) := takeTokens (x.w 1).toNat s
    let s := if left = 0 then s else send .tokenBack die x.src [x.w 0, BitVec.ofNat 64 left] [] s
    act (send .tokenAck die x.src [x.w 0] [] s)
  | none => if fld s.hand.ev.a 0 16 = 0 then stay s else act (takeTokens (fld s.hand.ev.a 0 16) s).2

/-- Tokens of the transfer of a number come back to the donor, no more than it gave. -/
def tokensBack (id n : Nat) (s : State) : State :=
  match s.pkg.returns.find? fun x => x.1 = id with
  | none => s
  | some (_, k) =>
    { s with pkg := { s.pkg with cap := min capMax (s.pkg.cap + min n k), returns := s.pkg.returns.filter fun x => x.1 ≠ id } }

/-- `TOKEN_RETURN`: the first slot of returned tokens that has arrived, or, with none there, b tokens of the transfer of number
a that went to another package (17 R423). -/
def execTokenReturn (s : State) : Host.Outcome State Fault Refusal :=
  match takeInbox s.cur.die .tokenBack s with
  | some (x, s) => act (tokensBack (x.w 0).toNat (x.w 1).toNat s)
  | none => act (tokensBack s.hand.ev.a.toNat (fld s.hand.ev.b 0 16) s)

/-- The transfer of a number is settled. -/
def settleTokens (id : Nat) (s : State) : State :=
  match s.pkg.transfers.find? fun x => x.1 = id with
  | none => s
  | some (_, n) => { s with pkg := { s.pkg with out := s.pkg.out - n, transfers := s.pkg.transfers.filter fun x => x.1 ≠ id } }

/-- `TOKEN_ACK`: the first acknowledgement that has arrived, or, with none there, that of the transfer of number a (17 R423). -/
def execTokenAck (s : State) : Host.Outcome State Fault Refusal :=
  match takeInbox s.cur.die .tokenAck s with
  | some (x, s) => act (settleTokens (x.w 0).toNat s)
  | none => act (settleTokens s.hand.ev.a.toNat s)

/-! ### The governor and energy (17 R424, R425) -/

/-- The clusters of the dies in service. -/
def allClusters (s : State) : List (Nat × Nat) := s.unfenced.flatMap fun d => (List.range 16).map fun cl => (d, cl)

/-- The latest deadline of a cluster's live grants. -/
def lastDeadline (die cl : Nat) (s : State) : Nat := (liveGrants die cl s).foldl (fun a g => max a g.2) 0

/-- Of some clusters, the one with the latest deadline. -/
def latest (s : State) : List (Nat × Nat) → Option (Nat × Nat)
  | [] => none
  | x :: xs => match latest s xs with
    | none => some x
    | some y => if lastDeadline x.1 x.2 s < lastDeadline y.1 y.2 s then some y else some x

/-- The step of a core clock. -/
def clockStep : Nat := 50

/-- One step down: slots first, then the clusters without a grant, then the paced one of the latest deadline. -/
def shedStep (s : State) : State :=
  let paced := fun (x : Nat × Nat) => !(liveGrants x.1 x.2 s).isEmpty
  let cs := allClusters s
  if s.pkg.shed < 100 then { s with pkg := { s.pkg with shed := s.pkg.shed + 1 } }
  else
    let free := cs.filter fun x => !paced x && decide (800 < (s.cluster x.1 x.2).base)
    if !free.isEmpty then
      free.foldl (fun s x => s.modCluster x.1 x.2 fun c => { c with base := max 800 (c.base - clockStep) }) s
    else
      match latest s (cs.filter fun x => paced x && decide (800 < clusterMhz x.1 x.2 s)) with
      | none => s
      | some x => s.modCluster x.1 x.2 fun c => { c with limit := max 800 (clusterMhz x.1 x.2 s - clockStep) }

/-- One step up, in the reverse order. -/
def restoreStep (s : State) : State :=
  let cs := allClusters s
  match cs.find? fun x => decide ((s.cluster x.1 x.2).limit < 2600) with
  | some x => s.modCluster x.1 x.2 fun c => { c with limit := min 2600 (c.limit + clockStep) }
  | none =>
    let low := cs.filter fun x => decide ((s.cluster x.1 x.2).base < 2400)
    if !low.isEmpty then low.foldl (fun s x => s.modCluster x.1 x.2 fun c => { c with base := min 2400 (c.base + clockStep) }) s
    else { s with pkg := { s.pkg with shed := s.pkg.shed - 1 } }

/-- Several steps. -/
def repeatStep (f : State → State) : Nat → State → State
  | 0, s => s
  | n + 1, s => repeatStep f n (f s)

/-- An energy counter grows and never wraps (17 R425). -/
def addEnergy (w : Word) (n : Nat) : Word := BitVec.ofNat 64 (min (w.toNat + n) (2 ^ 64 - 1))

/-- The energy of one interval in one counter, in nJ: a free value (log 12). -/
def freeEnergy (s : State) : Nat × State :=
  let (v, s) := s.takeFree
  (v.toNat % 2 ^ 32, s)

/-- Energy of some nanoseconds that the lasers of a die use, in nJ: 80 W while they are lit, and half of their module's 8 W in
standby (01 R32; 10 R258, R267). -/
def laserNj (die ns : Nat) (s : State) : Nat :=
  match Tab.get 0 s.pkg.lasers (die / 2) with
  | 1 => 80 * ns
  | 2 => 4 * ns
  | _ => 0

/-- Charge a die's tasks, contexts and the die itself with the energy of an interval: the die's counter takes in every charge.
A context is charged with what its windows used; the lasers' energy beyond it is the die's alone (10 R267). -/
def chargeDie (die : Nat) (s : State) : State :=
  let (total, s) := (List.range 16).foldl (fun (acc : Nat × State) k =>
    let s := acc.2
    if (s.ctx die k).state = 0 then (acc.1, s)
    else
      let mine := (s.die die).tasks.filter fun t => t.slot = k && t.started
      let (own, s) := mine.foldl (fun (a : Nat × State) t =>
        let (e, s) := freeEnergy a.2
        (a.1 + e, s.modDie die fun d =>
          { d with tasks := d.tasks.map fun x => if x.num = t.num then { x with charge := addEnergy x.charge e } else x })) (0, s)
      let (e, s) := freeEnergy s
      let e := e + (s.ctx die k).omeFj / 1000000
      (acc.1 + own + e, s.modCtx die k fun c => { c with energy := addEnergy c.energy (own + e), omeFj := c.omeFj % 1000000 }))
    (0, s)
  let (e, s) := freeEnergy s
  let (w, s) := s.takeFree
  let rest := laserNj die (s.pkg.ns - s.pkg.govAt - (s.die die).laserNs) s
  s.modDie die fun d =>
    { d with energy := addEnergy d.energy (total + rest + e), draw := w.toNat % (capMax + 1), laserNs := 0 }

/-- Whether nothing is left to shed. -/
def allShed (s : State) : Bool := decide (100 ≤ s.pkg.shed) && (allClusters s).all fun x => decide (clusterMhz x.1 x.2 s ≤ 800)

/-- `GOVERNOR_INTERVAL`: an interval of 10 microseconds is over: the draw is read, energy is charged, and power is shed when
the draw is above the cap, or else may be restored, by as many steps as the governor judges the next interval to need. What
it has acted on holds: the draw is no more than the cap it acted on last, unless nothing was left to shed (01 R32; 17 R424,
R425; log 12). -/
def execGovernorInterval (s : State) : Host.Outcome State Fault Refusal :=
  let s := s.unfenced.foldl (fun s d => if (s.die d).booted then chargeDie d s else s) s
  let (v, s) := s.takeFree
  let most := if allShed s then capMax else min capMax s.pkg.capHeld
  let draw := fld v 0 16 % (most + 1)
  let s := { s with pkg := { s.pkg with draw, capHeld := s.pkg.cap, govAt := s.pkg.ns } }
  let n := fld v 16 16 % 200
  act (if s.pkg.cap < draw then repeatStep shedStep (n + 1) s else repeatStep restoreStep n s)

/-- `PACE_GRANT_EXPIRY`: the grant of the core of the unit number is over (17 R426). -/
def execPaceGrantExpiry (s : State) : Host.Outcome State Fault Refusal :=
  match s.myCore.grant with
  | none => stay s
  | some g => if grantLive (s.die s.cur.die).ftime.toNat g then stay s else act (s.modMyCore fun c => { c with grant := none })

/-! ### The instructions (17 R426) -/

namespace Forms

/-- `timrd`. -/
def timrd : Form := { strands := onHAE, dst := [.scal] }
/-- `enrd`: selectors 0 to 2. -/
def enrd : Form := { strands := onHA, dst := [.scal], c := .sel 2 }
/-- `pace`. -/
def pace : Form := { strands := onA, dst := [.scal, .none], a := .s, b := .s }
/-- `pwrq`: selectors 0 to 3. -/
def pwrq : Form := { strands := onA, dst := [.scal], c := .sel 3 }

end Forms

/-- `timrd`. -/
def execTimrd (w : StrandWord) (s : State) : Host.Outcome State Fault Refusal :=
  issue Forms.timrd w (fun s => landWord 0x1B6 1 w (s.die s.cur.die).ftime s) s

/-- What `enrd` reads. -/
def energyOf (s : State) (k : Nat) : Word :=
  let d := s.die s.cur.die
  match k with
  | 0 => match s.myCore.iter with
    | some i => ((d.tasks.find? fun t => t.num = i.task).map Task.charge).getD 0
    | none => 0
  | 1 => s.myCtx.energy
  | _ => d.energy

/-- `enrd`. -/
def execEnrd (w : StrandWord) (s : State) : Host.Outcome State Fault Refusal :=
  issue Forms.enrd w (fun s => landWord 0x1B7 1 w (energyOf s w.c.idx.toNat) s) s

/-- The clock that finishes n core cycles within some nanoseconds: the least multiple of 50 from 800 to 2,600, if any. -/
def paceClock (n ns : Nat) : Option Nat :=
  ((List.range 37).map fun i => 800 + 50 * i).find? fun f => decide (n * 1000 ≤ ns * f)

/-- What `pace` asks for: the clock, and whether the deadline will be missed. -/
def paceAsk (now d n : Nat) : Nat × Bool :=
  if d ≤ now then (2600, false)
  else match paceClock n (d - now) with
    | some f => (f, false)
    | none => (2600, true)

/-- `pace`. -/
def execPace (w : StrandWord) (s : State) : Host.Outcome State Fault Refusal :=
  issue Forms.pace w (fun s => do
    let (k, s) ← capture Forms.pace id w s
    let d := (lo64 k.a).toNat
    let (f, miss) := paceAsk (s.die s.cur.die).ftime.toNat d (zx k.b 32 * 16)
    landWord 0x1B8 1 w (BitVec.ofNat 64 (b2n miss * 2 ^ 63 + f)) (s.modMyCore fun c => { c with grant := some (f, d) })) s

/-- What `pwrq` reads. -/
def powerOf (s : State) (k : Nat) : Nat :=
  match k with
  | 0 => s.pkg.cap
  | 1 => s.pkg.draw
  | 2 => (s.die s.cur.die).draw
  | _ => clusterMhz s.cur.die (s.cur.core / 8) s

/-- `pwrq`. -/
def execPwrq (w : StrandWord) (s : State) : Host.Outcome State Fault Refusal :=
  issue Forms.pwrq w (fun s => landWord 0x1B9 1 w (BitVec.ofNat 64 (powerOf s w.c.idx.toNat)) s) s

/-! ### Clocks and field time (17 R427, R428; 10 R242) -/

/-- `CLKST`: `HOLDUS` counts on while the die is in holdover. -/
def clkstWord (d : Die) : Word :=
  let past := fld d.clkst 0 32
  let now := if bit d.clkst 62 then (d.ftime.toNat - d.holdFrom.toNat) / 1000 else 0
  setFld d.clkst 0 32 (min (past + now) (2 ^ 32 - 1))

/-- Notify that holdover is entered or left (17 R433 kind 7). -/
def notifyHold (die entered : Nat) (s : State) : State :=
  notify die 7 0 agentNone 63 0 (BitVec.ofNat 64 (fld (clkstWord (s.die die)) 0 32 * 2 ^ 32 + entered)) 0 s

/-- `REFERENCE_LOSS`: the die goes on from its own oscillator. -/
def execReferenceLoss (s : State) : Host.Outcome State Fault Refusal :=
  let die := s.cur.die
  let d := s.die die
  if !d.booted || bit d.clkst 62 then stay s
  else act (notifyHold die 1 (s.modDie die fun d => { d with clkst := 1#64 <<< 62, holdFrom := d.ftime }))

/-- `REFERENCE_LOCK`: lock returns; field time is a nanoseconds, a signed number, behind its true value, no more than its error
can be after the holdover, and is to be slewed by as much. -/
def execReferenceLock (s : State) : Host.Outcome State Fault Refusal :=
  let die := s.cur.die
  let d := s.die die
  if !bit d.clkst 62 then stay s
  else
    let us := fld (clkstWord d) 0 32
    let most : Int := ((20 * us / 1000 + 4 : Nat) : Int)
    let err := max (-most) (min most s.hand.ev.a.toInt)
    act (notifyHold die 0 (s.modDie die fun d =>
      { d with clkst := BitVec.ofNat 64 (2 ^ 63 + 2 ^ 61 + us), slew := err, slewAt := d.ftime }))

/-- `SLEW_STEP`: the correction changes by one nanosecond, no sooner than a microsecond after the last; a step back is a
nanosecond that field time does not count. -/
def execSlewStep (s : State) : Host.Outcome State Fault Refusal :=
  let die := s.cur.die
  let d := s.die die
  if !bit d.clkst 61 || d.slew = 0 || d.skipNs || d.ftime.toNat < d.slewAt.toNat + 1000 then stay s
  else
    act (s.modDie die fun d =>
      if 0 < d.slew then { d with ftime := d.ftime + 1, odd := !d.odd, slew := d.slew - 1, slewAt := d.ftime }
      else { d with skipNs := true, slew := d.slew + 1, slewAt := d.ftime })

/-- `REALIGNMENT_GAP`: the correction is complete, and a gap takes the place of the next slot. -/
def execRealignmentGap (s : State) : Host.Outcome State Fault Refusal :=
  let die := s.cur.die
  let d := s.die die
  if !bit d.clkst 61 || d.slew ≠ 0 then stay s
  else act (s.modDie die fun d => { d with clkst := setFld d.clkst 61 1 0, gap := true })

/-! ### Field reset (17 R435) -/

/-- `FIELD_RESET_REQUEST`: at the root module, die 0 asks every die of the field whether it holds a context other than the one in
slot 15; what the dies of other packages answer is open. At any other module the input is ignored. -/
def execFieldResetRequest (s : State) : Host.Outcome State Fault Refusal :=
  if Config.pkgNumber ≠ 0 || (s.die 0).fenced || !(s.die 0).booted then stay s
  else
    let (v, s) := s.takeFree
    let held := s.unfenced.any fun d => (List.range 15).any fun k => (s.ctx d k).state ≠ 0
    if held || bit v 0 then act { s with pkg := { s.pkg with resetRefused := true } }
    else act { s with pkg := { s.pkg with resetRefused := false, fieldReset := some ((s.die 0).ftime + 1000000) } }

/-- Field time starts again on a die, and with it the slot grid, whose boundaries fall on even nanoseconds from 0 on: nothing else
changes. A holdover under way keeps its length. -/
def zeroTime (d : Die) : Die :=
  { d with clkst := clkstWord d, ftime := 0, holdFrom := 0, slewAt := 0, skipNs := false, odd := false, slotDue := gridRuns d }

/-- `FIELD_RESET_INSTANT`: at the instant every die in service sets its field time to 0. A module that is not the root learns of
the instant, a, by a slot of the root's first. -/
def execFieldResetInstant (s : State) : Host.Outcome State Fault Refusal :=
  match s.pkg.fieldReset with
  | none => if Config.pkgNumber = 0 then stay s else act { s with pkg := { s.pkg with fieldReset := some s.hand.ev.a } }
  | some t =>
    if (s.die (s.unfenced.headD 0)).ftime.toNat < t.toNat then stay s
    else
      act (s.unfenced.foldl (fun s d => s.modDie d zeroTime) { s with pkg := { s.pkg with fieldReset := none } })

/-! ### The notification ring's registers (17 R431, R432) -/

/-- `NOTIDX`. -/
def notidxWord (d : Die) : Word := BitVec.ofNat 64 (d.notLost % 2 ^ 32 * 2 ^ 32 + d.notHead % 2 ^ 32)

/-- A value of `NOTCFG` without the fields that may change while the ring is enabled. -/
def notcfgKept (v : Word) : Word := setFld (setFld v 63 1 0) 24 10 0

/-- Write `NOTCFG`: setting `EN` zeroes the indices. -/
def writeNotcfg (die : Nat) (v : Word) (s : State) : Eff := do
  let old := (s.die die).dbgReg 0x930
  let l := fld v 58 5
  need (fld v 34 24 = 0 && fld v 22 2 = 0 && decide (4 ≤ l ∧ l ≤ 16) && inDcmWin (s.ctx die 15) (fld v 0 22 * 32) (32 * 2 ^ l) &&
    (!bit old 63 || notcfgKept v = notcfgKept old)) cReservedField
  .ok (s.modDie die fun d =>
    let d := { d with dbg := Tab.put d.dbg 0x930 v }
    if bit v 63 && !bit old 63 then { d with notHead := 0, notAck := 0, notLost := 0 } else d)

/-- `NOTCFG_WRITE`: a is written. -/
def execNotcfgWrite (s : State) : Host.Outcome State Fault Refusal := hostWriteOf s (writeNotcfg s.cur.die s.hand.ev.a s)

/-- `INTERRUPT_HOLDOFF_EXPIRY`: the microsecond of vector a of the die's port is over, and events merged in it are signalled in
one message. -/
def execInterruptHoldoffExpiry (s : State) : Host.Outcome State Fault Refusal :=
  let die := s.cur.die
  let d := s.die die
  let v := s.hand.ev.a.toNat % 64
  if Tab.get 0 d.msixHold v ≠ 0 || !Tab.get false d.msixMore v then stay s
  else act (s.modDie die fun d => { d with msixHold := Tab.put d.msixHold v 1000, msixMore := Tab.put d.msixMore v false })

end Sys2Proof.Machine
end

