-- ==== Sys2Proof/Machine/Registers.lean ====
section
/-!
DEFINITION. The system, debug and host registers by selector: who may read and write each, what it reads, and what a write
does (15 R373 to R376; 16 R389, R390; 17 R421, R422; log 17).
-/

namespace Sys2Proof.Machine

/-! ### The table (15 R374, 16 R389, 17 R421) -/

/-- A row: the strands that reach the register; who reads it (0 any, 1 any its own context's and the supervisor any, 2 the
supervisor); who writes it (0 any, 1 the supervisor, 2 nobody). -/
structure RegRow where
  strands : Strands
  read : Nat
  write : Nat
  deriving DecidableEq, Repr

/-- Whether a number lies from lo to hi. -/
def within (n lo hi : Nat) : Bool := decide (lo ≤ n) && decide (n ≤ hi)

/-- The rows of 15 R374. -/
def sysRow (k : Nat) : Option RegRow :=
  if k = 0x000 ∨ k = 0x001 then some ⟨onHAE, 0, 0⟩
  else if k = 0x002 then some ⟨onHA, 2, 1⟩
  else if within k 0x010 0x012 then some ⟨onHA, 1, 1⟩
  else if k = 0x013 then some ⟨onA, 0, 1⟩
  else if k = 0x014 then some ⟨onHA, 1, 2⟩
  else if k = 0x015 ∨ k = 0x016 then some ⟨onA, 2, 1⟩
  else if k = 0x017 ∨ k = 0x018 then some ⟨onA, 2, 2⟩
  else if within k 0x019 0x01F then some ⟨onHA, 1, 1⟩
  else if k = 0x020 ∨ within k 0x030 0x05F then some ⟨onA, 2, 1⟩
  else if k = 0x060 then some ⟨onA, 0, 1⟩
  else if within k 0x061 0x063 ∨ within k 0x065 0x068 ∨ within k 0x080 0x0BF then some ⟨onA, 2, 1⟩
  else if k = 0x064 then some ⟨onHA, 0, 2⟩
  else none

/-- The rows of 16 R389 and 17 R421. -/
def debugRow (k : Nat) : Option RegRow :=
  if k = 0x800 ∨ k = 0x801 ∨ within k 0x810 0x81F ∨ k = 0x821 then some ⟨onA, 1, 1⟩
  else if k = 0x802 ∨ k = 0x820 ∨ k = 0x862 ∨ k = 0x901 then some ⟨onA, 0, 1⟩
  else if k = 0x822 ∨ within k 0x840 0x85F then some ⟨onHA, 1, 2⟩
  else if k = 0x860 ∨ k = 0x900 then some ⟨onA, 0, 1⟩
  else if k = 0x861 ∨ k = 0x902 ∨ k = 0x910 ∨ k = 0x920 then some ⟨onHA, 0, 2⟩
  else if within k 0x870 0x872 ∨ k = 0x930 ∨ k = 0x932 ∨ k = 0x933 then some ⟨onA, 2, 1⟩
  else if k = 0x873 then some ⟨onA, 2, 2⟩
  else if k = 0x931 then some ⟨onHA, 2, 2⟩
  else none

/-- The row of a selector: none for a reserved one. -/
def regRow (k : Nat) : Option RegRow := if k < 0x800 then sysRow k else debugRow k

/-! ### Reading -/

/-- `CTXST` (15 R378). -/
def ctxstWord (c : Ctx) : Word :=
  BitVec.ofNat 64 (c.state % 8 * 2 ^ 61 + b2n c.frozen * 2 ^ 60 + c.lcause.toNat * 2 ^ 52 + b2n c.sup * 2 ^ 51 +
    c.job.toNat * 2 ^ 32 + c.lcore % 128 * 2 ^ 16)

/-- Word n of a context's cause records: four words each (16 R405). -/
def fwrecWord (c : Ctx) (n : Nat) : Word := (c.fwRecs.getD (n / 4) []).getD (n % 4) 0

/-- A register of a context. -/
def readCtxReg (die slot k : Nat) (s : State) : Word :=
  let c := s.ctx die slot
  if k = 0x014 then ctxstWord c
  else if k = 0x018 then svqryWord die slot s
  else if k = 0x822 then c.fwstatWord
  else if within k 0x840 0x85F then fwrecWord c (k - 0x840)
  else if k = 0x802 ∨ k = 0x820 then 0
  else if 0x800 ≤ k then c.brkReg k
  else c.reg k

/-- A register of a die, a cluster of it, or the package. -/
def readDieReg (die cl k : Nat) (s : State) : Word :=
  let d := s.die die
  if within k 0x030 0x03F then (s.ctx die (k - 0x030)).lqcfg
  else if within k 0x040 0x04F then (s.ctx die (k - 0x040)).evcfg
  else if within k 0x050 0x05F then (s.ctx die (k - 0x050)).rxcfg
  else if within k 0x080 0x0BF then Tab.get 0 d.roteNew (k - 0x080)
  else
    match k with
    | 0x060 => (s.cluster die cl).clcfg
    | 0x061 => d.cqsel
    | 0x062 => Tab.get 0x0180000000000000#64 d.cqcfg (cqKey (fld d.cqsel 6 4) (fld d.cqsel 0 6))
    | 0x063 => d.omeshr
    | 0x064 => omestatWord die s
    | 0x065 => d.wfthr
    | 0x066 => d.cqtmo
    | 0x067 => d.hmsel
    | 0x068 => (Tab.get [] s.pkg.homes (fld d.hmsel 0 12)).getD 13 0
    | 0x861 => tridxWord d
    | 0x900 => BitVec.ofNat 64 s.pkg.cap
    | 0x902 => pwrstWord s
    | 0x910 => clkstWord d
    | 0x920 => s.pkg.bootrpt
    | 0x931 => notidxWord d
    | 0x932 => BitVec.ofNat 64 (d.notAck % 2 ^ 32)
    | _ => if k = 0x860 ∨ within k 0x870 0x871 ∨ k = 0x873 ∨ k = 0x930 ∨ k = 0x933 then d.dbgReg k else 0

/-- Whether a selector names a register of a context. -/
def perCtx (k : Nat) : Bool :=
  within k 0x010 0x012 || within k 0x014 0x020 || within k 0x800 0x85F

/-- What a register reads, but for those of a strand. -/
def readReg (die slot cl k : Nat) (s : State) : Word :=
  if perCtx k then readCtxReg die slot k s else readDieReg die cl k s

/-! ### Writing (15 R373, R375) -/

/-- Whether a value may be written to `TRPOL`: no group is 3, and the groups that always read 0 are 0 (15 R366). -/
def trpolOk (v : Word) : Bool :=
  (List.range 32).all fun c =>
    fld v (2 * c) 2 ≠ 3 && (!trpolFixed c || fld v (2 * c) 2 = 0)

/-- Whether a root lies in a die's physical memory (15 R375, 06 R136). -/
def rootOk (die : Nat) (v : Word) : Bool :=
  let pa := fld v 20 28 * 2 ^ 20
  decide (pa / 2 ^ 45 = die) && decide (pa % 2 ^ 45 < physPerDie)

/-- Whether a value may be written to a register of a context that has no behaviour of its own (15 R366, R375; 16 R390). -/
def ctxRegOk (die k : Nat) (v : Word) : Bool :=
  let translated := canonical v && !inAperture v
  match k with
  | 0x010 => fld v 48 16 = 0 && fld v 0 20 = 0 && rootOk die v
  | 0x011 => trpolOk v
  | 0x012 => canonical v && v.toNat % 8 = 0
  | 0x015 => canonical v && v.toNat % 64 = 0
  | 0x016 => canonical v && v.toNat % 64 = 0
  | 0x019 => v = 0
  | 0x800 => v = 0 || (translated && v.toNat % 64 = 0)
  | 0x801 => canonical (setFld v 0 16 0)
  | 0x821 => true
  | _ =>
    if within k 0x810 0x81F then
      if k % 2 = 0 then fld v 0 4 = 0 && canonical v else fld v 50 13 = 0 && fld v 16 32 = 0 && fld v 48 2 ≠ 3
    else true

/-- The bits of a register of a context that a write changes: reserved bits of `WINTAB` and `WINKEY` read zero (13 R330,
R331). -/
def ctxRegKept (k : Nat) (v : Word) : Word :=
  if k = 0x01F then setFld v 0 4 0 else if k = 0x020 then setFld v 32 32 0 else v

/-- Every translation of a context that a die holds is discarded, and with them the checks passed at it (15 R387; 13 R333). -/
def dropTlb (die slot : Nat) (s : State) : State :=
  (clearChecks die slot s).modDie die fun d => { d with tlb := d.tlb.filter fun e => e.slot ≠ slot }

/-- Write a register of a context. -/
def writeCtxReg (die slot k : Nat) (v : Word) (s : State) : Eff :=
  if k = 0x802 then .ok (syncBreaks die slot s)
  else if k = 0x820 then writeFwctl die slot v s
  else do
    need (ctxRegOk die k v) cReservedField
    let s := s.modCtx die slot fun c =>
      if 0x800 ≤ k then { c with brkRegs := Tab.put c.brkRegs k v } else { c with regs := Tab.put c.regs k (ctxRegKept k v) }
    .ok (if k = 0x010 then dropTlb die slot s else if k = 0x020 then clearChecks die slot s else s)

/-- Write `EVCFGk` (12 R305). -/
def writeEvcfg (die slot : Nat) (v : Word) (s : State) : Eff := do
  let l := fld v 58 5
  let base : Word := (setFld (v.setWidth 56) 0 13 0 : BitVec 56).signExtend 64
  need (fld v 56 2 = 0 && fld v 0 13 = 0 && decide (8 ≤ l ∧ l ≤ 16) && !inAperture base) cReservedField
  .ok (s.modCtx die slot fun c => { c with evcfg := v })

/-- Write `HMENT` as context `slot`: the record at REC is installed in every die's home map, or the entry emptied (15 R376; 06
R149). `entry` is the writer's format table entry (06 R148). -/
def writeHment (entry die slot : Nat) (v : Word) (s : State) : Eff := do
  let e := fld (s.die die).hmsel 0 12
  if v = 0 then .ok { s with pkg := { s.pkg with homes := s.pkg.homes.filter fun x => x.1 ≠ e } }
  else
    let (t, s) ← readTlr entry (engineAgent die slot) v s
    need (tlrHome t) cReservedField
    let job : Word := (s.ctx die slot).job.setWidth 64
    .ok { s with pkg := { s.pkg with homes := Tab.put s.pkg.homes e (t.take 12 ++ [job, v]) } }

/-- Write a register of a die, a cluster or the package; `slot` is `CTXSEL.CTX` and `cl` is `CTXSEL.CL`. -/
def writeDieReg (die slot cl k : Nat) (v : Word) (s : State) : Eff :=
  if within k 0x030 0x03F then writeLqcfg die (k - 0x030) v s
  else if within k 0x040 0x04F then writeEvcfg die (k - 0x040) v s
  else if within k 0x050 0x05F then writeRxcfg die (k - 0x050) v s
  else if within k 0x080 0x0BF then do
    need (fld v 48 11 = 0 && fld v 16 16 = 0) cReservedField
    .ok (s.modDie die fun d => { d with roteNew := Tab.put d.roteNew (k - 0x080) v })
  else
    match k with
    | 0x013 => writeCtxctl die v s
    | 0x060 => .ok (s.modCluster die cl fun c => { c with clNext := some (BitVec.ofNat 64 (min (fld v 0 5) 16)) })
    | 0x061 => .ok (s.modDie die fun d => { d with cqsel := setFld v 10 54 0 })
    | 0x062 => writeCqcfg die v s
    | 0x063 => writeOmeshr die v s
    | 0x065 => .ok (s.modDie die fun d => { d with wfthr := setFld v 32 32 0 })
    | 0x066 => .ok (s.modDie die fun d => { d with cqtmo := setFld v 32 32 0 })
    | 0x067 => do
      need (fld v 12 52 = 0) cReservedField
      .ok (s.modDie die fun d => { d with hmsel := v })
    | 0x068 => writeHment 0 die slot v s
    | 0x860 => writeTrcfg die v s
    | 0x862 => writeWfctl die v s
    | 0x870 => writeDumpReg die 0x870 v s
    | 0x871 => writeDumpReg die 0x871 v s
    | 0x872 => writeDumpctl die v s
    | 0x900 => writePwrcap v s
    | 0x901 => writeTokxfer die v s
    | 0x930 => writeNotcfg die v s
    | 0x932 => .ok (s.modDie die fun d => { d with notAck := fld v 0 32 })
    | 0x933 => .ok (s.modDie die fun d => { d with dbg := Tab.put d.dbg 0x933 (setFld v 60 4 0) })
    | _ => trapOf cIllegalOperand

/-- Write a register, but for those of a strand. -/
def writeReg (die slot cl k : Nat) (v : Word) (s : State) : Eff :=
  if perCtx k then writeCtxReg die slot k v s else writeDieReg die slot cl k v s

/-! ### A strand's own registers (02 R43, R44; 15 R375) -/

/-- Write `FSR`: its flags are cleared by ones (02 R43). -/
def writeFsr (t : Strand) (v : Word) : Except Stop Strand := do
  need (decide (fld v 8 3 ≤ 4)) cReservedField
  .ok { t with fsr := BitVec.ofNat 16 (fld v 8 3 * 2 ^ 8 + (fld t.fsr 0 5).land (31 - fld v 0 5)) }

/-- Write a register of a strand: `FSR`, `CBSEL` or `CTXSEL`. -/
def writeStrandReg (t : Strand) (k : Nat) (v : Word) : Except Stop Strand :=
  match k with
  | 0 => writeFsr t v
  | 1 => .ok { t with cbsel := BitVec.ofNat 16 (fld v 0 4) }
  | _ => do
    need (fld v 12 52 = 0 && fld v 4 4 = 0) cReservedField
    .ok { t with ctxsel := v }

/-- Read a register of a strand. -/
def readStrandReg (t : Strand) (k : Nat) : Word :=
  match k with
  | 0 => t.fsr.setWidth 64
  | 1 => t.cbsel.setWidth 64
  | _ => t.ctxsel

/-! ### `mfsr`, `mtsr` (15 R373) -/

/-- The selector of a word. -/
def selOf (x : BitVec 16) : Nat := fld x 0 12

/-- Whether a strand may name a register to read. -/
def mayRead (n : Nat) (x : BitVec 16) : Bool :=
  fld x 12 4 = 0 && match regRow (selOf x) with
    | some r => r.strands.allows n
    | none => false

/-- Whether a strand may name a register to write. -/
def mayWrite (n : Nat) (x : BitVec 16) : Bool :=
  fld x 12 4 = 0 && match regRow (selOf x) with
    | some r => r.strands.allows n && r.write ≠ 2
    | none => false

/-- Whether reading, or writing, the named register needs supervisor privilege (03 R66). -/
def readSup (x : BitVec 16) : Bool := match regRow (selOf x) with | some r => r.read = 2 | none => false
/-- Likewise for writing. -/
def writeSup (x : BitVec 16) : Bool := match regRow (selOf x) with | some r => r.write = 1 | none => false

namespace Forms

/-- `mfsr`. -/
def mfsr (x : BitVec 16) : Form := { strands := onHAE, dst := [.scal], x := mayRead, sup := readSup x }
/-- `mtsr`. -/
def mtsr (x : BitVec 16) : Form := { strands := onHAE, dst := [.none], a := .sNoX, x := mayWrite, sup := writeSup x }

end Forms

/-- The context slot a register access of a strand acts on: the one `CTXSEL` names, for the supervisor; its own, else. -/
def actsOn (s : State) : Nat := if s.sup then fld s.me.ctxsel 0 4 else s.mySlot

/-- `mfsr`. -/
def execMfsr (w : StrandWord) (s : State) : Host.Outcome State Fault Refusal :=
  issue (Forms.mfsr w.x) w (fun s =>
    let k := selOf w.x
    landWord 0x1A4 1 w (if k < 3 then readStrandReg s.me k else readReg s.cur.die (actsOn s) (fld s.me.ctxsel 8 4) k s) s) s

/-- `mtsr`. A flag of `FSR` that it clears and that a result raises at the end of its cycle is set after it: the write acts at
issue (02 R43, 15 R373; log 17). -/
def execMtsr (w : StrandWord) (s : State) : Host.Outcome State Fault Refusal :=
  issue (Forms.mtsr w.x) w (fun s => do
    let k := selOf w.x
    let (c, s) ← capture (Forms.mtsr w.x) id w s
    let v := lo64 c.a
    if k < 3 then
      let t ← writeStrandReg s.me k v
      .ok (s.modMe fun _ => t)
    else if k = 0x068 then writeHment (capturedFmt s) s.cur.die (actsOn s) v s
    else writeReg s.cur.die (actsOn s) (fld s.me.ctxsel 8 4) k v s) s

/-! ### Writes as events -/

/-- `PTBASE_WRITE`: a is written for the context of the unit number. -/
def execPtbaseWrite (s : State) : Host.Outcome State Fault Refusal :=
  hostWriteOf s (writeReg s.cur.die (s.cur.unit % 16) 0 0x010 s.hand.ev.a s)

/-- `HMENT_WRITE`: a is written, as the context of the unit number. -/
def execHmentWrite (s : State) : Host.Outcome State Fault Refusal :=
  hostWriteOf s (writeReg s.cur.die (s.cur.unit % 16) 0 0x068 s.hand.ev.a s)

/-- `REGISTER_WRITE`: b is written by the supervisor to the register of selector a, with d as `CTXSEL`. -/
def execRegisterWrite (s : State) : Host.Outcome State Fault Refusal :=
  let e := s.hand.ev
  let k := e.a.toNat % 2 ^ 12
  match regRow k with
  | some r => if k < 3 || r.write = 2 then stay s else hostWriteOf s (writeReg s.cur.die (fld e.d 0 4) (fld e.d 8 4) k e.b s)
  | none => stay s

/-- `CLCFG_APPLY`: the split that is pending on the cluster of the unit number takes effect, and its SRAM reads zero (06 R135). -/
def execClcfgApply (s : State) : Host.Outcome State Fault Refusal :=
  let die := s.cur.die
  let cl := s.cur.unit % 16
  if (s.cluster die cl).clNext.isNone || clusterBusy (s.die die) cl then stay s else act (applySplit die cl s)

end Sys2Proof.Machine
end

