-- ==== Sys2Proof/Machine/Host.lean ====
section
/-!
DEFINITION. The world outside the module: boot and the module reset (17 R429, R430, R434; 15 R379), and the host's accesses
through its ports (17 R431; 07 R191, R192; 08 R197; logs 5, 6 and 17).
-/

namespace Sys2Proof.Machine

/-! ### Boot (17 R429, R430; 15 R379) -/

/-- `BOOTRPT`: the fenced dies and their causes (17 R430). -/
def bootReport (s : State) : Word :=
  BitVec.ofNat 64 ((List.range 8).foldl (fun a d =>
    a + b2n (s.die d).fenced * 2 ^ (56 + d) + (s.die d).bootCause % 8 * 2 ^ (32 + 3 * d)) 0)

/-- One register of the supervisor context as boot leaves it: the firmware writes it, and a value that a write refuses leaves it as
it was (15 R373; log 6). -/
def bootReg (die : Nat) (x : Nat × Word) (s : State) : State :=
  match (if x.1 = 0x03F then writeLqcfg die 15 (setFld x.2 63 1 1) s
         else if x.1 = 0x04F then writeEvcfg die 15 (setFld x.2 63 1 1) s
         else if perCtx x.1 && x.1 ≠ 0x802 && x.1 ≠ 0x820 && ((regRow x.1).map fun r => r.write) ≠ some 2 then writeCtxReg die 15 x.1 x.2 s
         else .ok s) with
  | .ok s => s
  | .error _ => s

/-- A die that has booted, as boot prepares it: one context, in slot 15, of job 0 and with privilege, given cluster 15 by
`ROTE0`; its launch queue and event area enabled; the supervisor firmware launched as its first task (15 R379). -/
def bootDie (die : Nat) (s : State) : State :=
  let s := s.modCtx die 15 fun _ => { state := 1, sup := true, evStale := List.range 32 }
  let s := (Config.bootImage die).foldl (fun s (k, b) => s.putRaw k [some b]) s
  let regs := Config.bootRegs die
  let s := (regs.filter fun x => x.1 < 0x030 ∨ 0x060 ≤ x.1).foldl (fun s x => bootReg die x s) s
  let s := bootReg die (0x03F, ((regs.find? fun x => x.1 = 0x03F).map Prod.snd).getD 0) s
  let s := bootReg die (0x04F, ((regs.find? fun x => x.1 = 0x04F).map Prod.snd).getD 0) s
  let entry : Word := BitVec.ofNat 64 (2 ^ 63 + 15 * 2 ^ 59 + 2 ^ 32 + 2 ^ 15)
  let (l, f, arg) := Config.bootTask die
  let num := (s.die die).nextTask
  let t : Task :=
    { num, slot := 15, lnr := l, ftab := f, arg, deps := [], ready := some (s.die die).cyc, total := walkSize l (lnrWalk l true) }
  s.modDie die fun d =>
    { d with rote := Tab.put d.rote 0 entry, roteNew := Tab.put d.roteNew 0 entry, tasks := d.tasks ++ [t], nextTask := bumpTask num }

/-- Once every die has booted or is fenced, boot ends: the report stands, and each die in service is prepared and notifies its
supervisor (17 R433 kind 9). -/
def finishBoot (s : State) : State :=
  if (List.range 8).any fun d => !(s.die d).booted && !(s.die d).fenced then s
  else
    let s := { s with pkg := { s.pkg with bootrpt := bootReport s } }
    s.unfenced.foldl (fun s d => notify d 9 0 agentNone 63 0 s.pkg.bootrpt 0 (bootDie d s)) s

/-- Fence a die (17 R429). -/
def fenceDie (die cause : Nat) (s : State) : State :=
  s.modDie die fun d => { d with fenced := true, bootCause := cause }

/-- Field time of the dies in service: a die that joins them takes it (17 R427). -/
def fieldNow (s : State) : Word :=
  (List.range 8).foldl (fun t d => if (s.die d).booted && decide (t.toNat < (s.die d).ftime.toNat) then (s.die d).ftime else t) 0

/-- `DIE_BOOT`: a die takes its four steps. The event's a says how they end: 0 well, 1 its firmware's signature fails, 2 a
neighbour rejects it, 3 its memory does not train. -/
def execDieBoot (s : State) : Host.Outcome State Fault Refusal :=
  let die := s.cur.die
  let d := s.die die
  let r := s.hand.ev.a.toNat % 4
  if d.booted || d.fenced || d.frozenClk then stay s
  else if r ≠ 0 then act (finishBoot (fenceDie die r s))
  else act (finishBoot (s.modDie die fun d => { d with booted := true, ftime := fieldNow s, clkst := 1#64 <<< 63 }))

/-- `BOOT_ANSWER_TIMEOUT`: a die that has not answered is fenced. -/
def execBootAnswerTimeout (s : State) : Host.Outcome State Fault Refusal :=
  let d := s.die s.cur.die
  if d.booted || d.fenced then stay s else act (finishBoot (fenceDie s.cur.die 4 s))

/-- `MODULE_RESET`: every die of the module returns to its reset state and boots; what memory holds stays (17 R434; log 6). -/
def execModuleReset (s : State) : Host.Outcome State Fault Refusal :=
  act { s with dies := [], pkg := {}, net := [] }

/-- `BOARD_MANAGEMENT_READ`: the image a names is read: 0 `PWRST`, 1 the die's `CLKST`, 2 `BOOTRPT`, 3 whether the last field
reset was refused (17 R434, R435). -/
def execBoardManagementRead (s : State) : Host.Outcome State Fault Refusal :=
  let v : Word := match s.hand.ev.a.toNat % 4 with
    | 0 => pwrstWord s
    | 1 => clkstWord (s.die s.cur.die)
    | 2 => s.pkg.bootrpt
    | _ => BitVec.ofNat 64 (b2n s.pkg.resetRefused)
  act { s with pkg := { s.pkg with completion := some (toBytes 8 v.toNat) } }

/-! ### The host's windows (17 R431) -/

/-- The host as an agent, through a die's window. -/
def hostAgent (die : Nat) : Nat := 0x800 + die

/-- The window a host access names: its number. -/
def hostBar (e : Ev) : Nat := fld e.a 60 4

/-- The die whose window a host access falls in. -/
def hostDie (e : Ev) : Nat := if hostBar e = 0 then fld e.a 23 3 else fld e.a 26 3

/-- The key of the byte a host access of die common or a pool starts at: none where the window reads zero. -/
def hostKey (s : State) (e : Ev) : Option Nat :=
  let die := hostDie e
  let off := fld e.a 0 26
  match hostBar e with
  | 2 => if off < dcmSize then some (keyDcm die off) else none
  | 4 =>
    let cl := off / 2 ^ 22
    if off % 2 ^ 22 < cplSize s die (8 * cl) then some (keyCpl die cl (off % 2 ^ 22)) else none
  | _ => none

/-- How a host access of the window begins: `none` when it cannot be made at all, because no port is in service or the die is
not; `some true` for a completer abort at a fenced die (17 R431). -/
def hostStart (s : State) (e : Ev) : Option Bool :=
  let d := s.die (hostDie e)
  if (s.die 0).fenced && (s.die 4).fenced then none
  else if d.fenced then some true
  else if !d.booted || d.frozenClk then none
  else some false

/-- The access ends in a completer abort. -/
def hostAbort (s : State) : State := { s with pkg := { s.pkg with completion := none } }

/-- The access completes with some bytes. -/
def hostDone (bs : List Byte) (s : State) : State := { s with pkg := { s.pkg with completion := some bs } }

/-- Bytes a host access has in its page of 4 KiB, which no request crosses. -/
def hostCount (e : Ev) (most : Nat) : Nat := min (min e.b.toNat most) (4096 - fld e.a 0 12)

/-- Whether a host access of the register window names the engine ring control aperture (log 5). -/
def hostRing (e : Ev) : Bool := bit e.a 59

/-- What a read of the register window gives: a ring's control word, or a system register under the `CTXSEL` in d. -/
def hostReg (s : State) (e : Ev) : Word :=
  let die := hostDie e
  if hostRing e then
    let off := fld e.a 0 12
    if ringOff off then (s.ring die (off / 64)).block (off % 64) else 0
  else
    let k := fld e.a 0 12
    match regRow k with
    | some _ => if k < 3 then 0 else readReg die (fld e.d 0 4) (fld e.d 8 4) k s
    | none => 0

/-- `HOST_READ`: b bytes are read at the offset in a; registers and ring control by words of 8 bytes (17 R431, 07 R192). -/
def execHostRead (s : State) : Host.Outcome State Fault Refusal :=
  let e := s.hand.ev
  match hostStart s e with
  | none => stay s
  | some true => act (hostAbort s)
  | some false =>
    if hostBar e = 0 then act (hostDone (toBytes 8 (hostReg s e).toNat) s)
    else
      let n := hostCount e 4096
      match hostKey s e with
      | none => act (hostDone (List.replicate n 0) s)
      | some k =>
        match s.badIn k n with
        | some _ => act (hostAbort s)
        | none => act (hostDone (s.bytes k n) (scrub (hostDie e) k n s))

/-- The address in a context's windows of a byte of die common or a pool, if one covers it. -/
def hostVa (c : Ctx) (e : Ev) : Option Word :=
  let off := fld e.a 0 26
  let at_ := fun (sel gran ap off : Nat) =>
    let r := c.reg sel
    if winBase r gran ≤ off ∧ off < winBase r gran + winSize r gran then
      some (BitVec.ofNat 64 ((0xFFF0 + ap) * 2 ^ 48 + (off - winBase r gran)))
    else none
  if hostBar e = 2 then at_ 0x01D 65536 3 off else at_ 0x01C 4096 2 (off % 2 ^ 22)

/-- The watchpoints of every context whose window covers a host write (16 R396, R398). -/
def hostWatch (e : Ev) (n : Nat) (s : State) : State :=
  (List.range 16).foldl (fun s slot =>
    let c := s.ctx (hostDie e) slot
    if c.state = 0 then s
    else match hostVa c e with
      | some va => (watchOther (hostDie e) slot (hostAgent (hostDie e)) 5 0 0 0 va (List.replicate n true) s).2
      | none => s) s

/-- A write of the register window: a register under the `CTXSEL` in d; a ring's `RCFG`, its `TAIL` by 4 bytes, or its `RSTAT`
(08 R197). -/
def hostWriteReg (e : Ev) (s : State) : Host.Outcome State Fault Refusal :=
  let die := hostDie e
  if hostRing e then
    let off := fld e.a 0 12
    let n := off / 64
    if e.b = 4 ∧ off % 64 = 8 ∧ n < 40 then execHostTailStore { s with cur := { s.cur with die, unit := n }, hand := { s.hand with ev := { e with a := e.c } } }
    else if e.b = 8 then hostWriteOf s (ringStore die 15 true (BitVec.ofNat 64 (0xFFF4 * 2 ^ 48 + off)) e.c s)
    else stay s
  else
    let k := fld e.a 0 12
    match regRow k with
    | some r => if k < 3 || r.write = 2 then stay s else hostWriteOf s (writeReg die (fld e.d 0 4) (fld e.d 8 4) k e.c s)
    | none => stay s

/-- `HOST_WRITE`: the low b bytes of c are written at the offset in a (17 R431, 07 R191). -/
def execHostWrite (s : State) : Host.Outcome State Fault Refusal :=
  let e := s.hand.ev
  match hostStart s e with
  | none => stay s
  | some true => act (hostAbort s)
  | some false =>
    if hostBar e = 0 then hostWriteReg e s
    else
      let n := hostCount e 8
      match hostKey s e with
      | none => act s
      | some k =>
        let bs := (toBytes n e.c.toNat).map some
        if partialBad s k bs then act (hostAbort s) else act (hostWatch e n (s.putBytes k bs))

/-- `HOST_ATOMIC`: a claim of c slots on the claim word at the offset in a, as `aclm` relaxed (07 R176, R191). -/
def execHostAtomic (s : State) : Host.Outcome State Fault Refusal :=
  let e := s.hand.ev
  match hostStart s e with
  | none => stay s
  | some true => act (hostAbort s)
  | some false =>
    match hostKey s e with
    | none => act (hostDone (List.replicate 8 0) s)
    | some k =>
      if k % 8 ≠ 0 || (s.badIn k 8).isSome then act (hostAbort s)
      else
        let s := scrub (hostDie e) k 8 s
        let (new, v) := claim (s.num k 8) (fld e.c 0 32)
        let s := hostDone (toBytes 8 v.toNat) s
        match new with
        | some w => act (hostWatch e 8 (s.putNum k 8 w))
        | none => act s

end Sys2Proof.Machine
end

