-- ==== Sys2Proof/Machine/Scalar.lean ====
section
/-! DEFINITION. The scalar and predicate instructions, 0x000 to 0x01F (04 R82 to R88). -/

namespace Sys2Proof.Machine

/-- Latency of `div` and `rem` on an E strand (04 R84). -/
def divLat (f : Form) (w : StrandWord) : Nat := if (intFmt (fld (f.effX w) 8 8)).2 ≤ 32 then 12 else 20


/-- `add` (04 R85). -/
def execAdd (w : StrandWord) (s : State) : Host.Outcome State Fault Refusal :=
  issueRes Forms.add 0 1 w s

/-- `sub` (04 R85). -/
def execSub (w : StrandWord) (s : State) : Host.Outcome State Fault Refusal :=
  issueRes Forms.sub 1 1 w s

/-- `mul` (04 R85). -/
def execMul (w : StrandWord) (s : State) : Host.Outcome State Fault Refusal :=
  issueRes Forms.mul 2 3 w s

/-- `mulh` (04 R85). -/
def execMulh (w : StrandWord) (s : State) : Host.Outcome State Fault Refusal :=
  issueRes Forms.mulh 3 3 w s

/-- `div` (04 R85). -/
def execDiv (w : StrandWord) (s : State) : Host.Outcome State Fault Refusal :=
  issueRes Forms.div 4 (divLat Forms.div w) w s

/-- `rem` (04 R85). -/
def execRem (w : StrandWord) (s : State) : Host.Outcome State Fault Refusal :=
  issueRes Forms.rem 5 (divLat Forms.rem w) w s

/-- `and` (04 R85). -/
def execAnd (w : StrandWord) (s : State) : Host.Outcome State Fault Refusal :=
  issueRes Forms.and 6 1 w s

/-- `or` (04 R85). -/
def execOr (w : StrandWord) (s : State) : Host.Outcome State Fault Refusal :=
  issueRes Forms.or 7 1 w s

/-- `xor` (04 R85). -/
def execXor (w : StrandWord) (s : State) : Host.Outcome State Fault Refusal :=
  issueRes Forms.xor 8 1 w s

/-- `andn` (04 R85). -/
def execAndn (w : StrandWord) (s : State) : Host.Outcome State Fault Refusal :=
  issueRes Forms.andn 9 1 w s

/-- `orn` (04 R85). -/
def execOrn (w : StrandWord) (s : State) : Host.Outcome State Fault Refusal :=
  issueRes Forms.orn 10 1 w s

/-- `shl` (04 R85). -/
def execShl (w : StrandWord) (s : State) : Host.Outcome State Fault Refusal :=
  issueRes Forms.shl 11 1 w s

/-- `shr` (04 R85). -/
def execShr (w : StrandWord) (s : State) : Host.Outcome State Fault Refusal :=
  issueRes Forms.shr 12 1 w s

/-- `sra` (04 R85). -/
def execSra (w : StrandWord) (s : State) : Host.Outcome State Fault Refusal :=
  issueRes Forms.sra 13 1 w s

/-- `rot` (04 R85). -/
def execRot (w : StrandWord) (s : State) : Host.Outcome State Fault Refusal :=
  issueRes Forms.rot 14 1 w s

/-- `clz` (04 R85). -/
def execClz (w : StrandWord) (s : State) : Host.Outcome State Fault Refusal :=
  issueRes Forms.clz 15 1 w s

/-- `ctz` (04 R85). -/
def execCtz (w : StrandWord) (s : State) : Host.Outcome State Fault Refusal :=
  issueRes Forms.ctz 16 1 w s

/-- `popc` (04 R85). -/
def execPopc (w : StrandWord) (s : State) : Host.Outcome State Fault Refusal :=
  issueRes Forms.popc 17 1 w s

/-- `bswap` (04 R85). -/
def execBswap (w : StrandWord) (s : State) : Host.Outcome State Fault Refusal :=
  issueRes Forms.bswap 18 1 w s

/-- `min` (04 R85). -/
def execMin (w : StrandWord) (s : State) : Host.Outcome State Fault Refusal :=
  issueRes Forms.min 19 1 w s

/-- `max` (04 R85). -/
def execMax (w : StrandWord) (s : State) : Host.Outcome State Fault Refusal :=
  issueRes Forms.max 20 1 w s

/-- `abs` (04 R85). -/
def execAbs (w : StrandWord) (s : State) : Host.Outcome State Fault Refusal :=
  issueRes Forms.abs 21 1 w s

/-- `sel` (04 R85). -/
def execSel (w : StrandWord) (s : State) : Host.Outcome State Fault Refusal :=
  issueRes Forms.sel 22 1 w s

/-- `mov` (04 R85). -/
def execMov (w : StrandWord) (s : State) : Host.Outcome State Fault Refusal :=
  issueRes Forms.mov 23 1 w s

/-- `movk` (04 R85). -/
def execMovk (w : StrandWord) (s : State) : Host.Outcome State Fault Refusal :=
  issueRes Forms.movk 24 1 w s

/-- `ext` (04 R85). -/
def execExt (w : StrandWord) (s : State) : Host.Outcome State Fault Refusal :=
  issueRes Forms.ext 25 1 w s

/-- `dep` (04 R85). -/
def execDep (w : StrandWord) (s : State) : Host.Outcome State Fault Refusal :=
  issueRes Forms.dep 26 1 w s

/-- `addx` (04 R85). -/
def execAddx (w : StrandWord) (s : State) : Host.Outcome State Fault Refusal :=
  issueRes Forms.addx 27 1 w s

/-- `cmp` (04 R85). -/
def execCmp (w : StrandWord) (s : State) : Host.Outcome State Fault Refusal :=
  issueRes Forms.cmp 28 1 w s

/-- `plog` (04 R85). -/
def execPlog (w : StrandWord) (s : State) : Host.Outcome State Fault Refusal :=
  issueRes Forms.plog 29 1 w s

/-- `pmov` (04 R88). -/
def execPmovToPred (w : StrandWord) (s : State) : Host.Outcome State Fault Refusal :=
  issueRes Forms.pmovToPred 30 1 w s

/-- `pmov` (04 R88). -/
def execPmovToScalar (w : StrandWord) (s : State) : Host.Outcome State Fault Refusal :=
  issueRes Forms.pmovToScalar 30 1 w s

/-- `clamp` (04 R85). -/
def execClamp (w : StrandWord) (s : State) : Host.Outcome State Fault Refusal :=
  issueRes Forms.clamp 31 1 w s


end Sys2Proof.Machine
end

