-- ==== Sys2Proof/Machine/Fetch.lean ====
section
/-!
DEFINITION. How a strand comes to its next unit: whether it may issue, fetching the unit's words, its break bits, and
what an undecodable word does (02 R39, R46, R48; 03 R64; 15 R365; 16 R392).
-/

namespace Sys2Proof.Machine

/-- What fetching a unit gives: a word to execute, the four words of a bundle, or a step that is over. -/
inductive Fetched where
  | run (i : Instr) (s : State)
  | bundle (i0 i1 i2 i3 : Except DecodeError Instr) (s : State)
  | over (s : State)
  | absent

/-- Whether a single step lets a strand issue in a cycle: every strand in the cycle of a step of one cycle, and the A strand
until its access completes; the strand that is stepped alone, for 4,096 cycles (16 R407). -/
def stepAllows (c : Core) (n cyc : Nat) : Bool :=
  match c.stepCyc with
  | none => true
  | some (7, u) => cyc = u || (decide (n = 1) && (c.strand 1).pend.isSome)
  | some (k, u) => (n = k || (c.lock && decide (2 ≤ n) && decide (2 ≤ k))) && (decide (cyc < u + 4096) || (decide (n = 1) && (c.strand 1).pend.isSome))

/-- Whether a strand may issue in this cycle (02 R46, 04 R91, 15 R365, R380). A core that holds a frame issues only the
handler on A, and H up to its stop unit. -/
def mayIssue (s : State) (die core n : Nat) : Bool :=
  let d := s.die die
  let c := s.core die core
  let t := c.strand n
  let x := s.ctx die c.slot
  let live := match t.run with
    | .running => true
    | .blocked k _ => k ≠ 4
    | _ => false
  c.iter.isSome && !d.frozenClk && (match c.due with | some u => decide (d.cyc < u.t) || (decide (n = 1) && t.pend.isSome) | none => true) && c.landed ≠ some d.cyc && live && decide (t.ready ≤ d.cyc) && !(c.lock && decide (2 < n)) &&
    (match c.frame with
      | none => decide (x.state = 1) && stepAllows c n d.cyc
      | some _ => (decide (n = 1) && t.handler && stepAllows c n d.cyc) || (decide (n = 0) && c.hStopBy.isSome))

/-- Whether H must stop before an instruction: `iter`, `seg` or `done` (15 R365); and one that would itself trap, since its
core holds a frame already (log 17). -/
def isHStop (i : Instr) : Bool :=
  match i with
  | .iter _ => true
  | .seg _ => true
  | .done _ => true
  | .trap _ => true
  | .brk _ => true
  | .fallow _ => true
  | _ => false

/-- Take a fault of the fetch itself, with the PC at the target (04 R89). -/
def fetchFault (s : State) (r : Stop) : Fetched :=
  match r with
  | .trap c i a => .over { raiseTrap s.cur.die s.cur.core s.cur.strand c i a s with verdict := .trapped c i a }
  | .wait k n => .over (markWait k n s)
  | .absent => .absent

/-- Fetch the next unit of a strand. -/
def fetchUnit (die core n : Nat) (s : State) : Fetched :=
  let s := takeDue die core s
  let c := s.core die core
  if !mayIssue s die core n then .over { s with verdict := .idle }
  else if c.frame.isSome && n = 0 && (match c.hStopBy with | some t => decide (t ≤ s.cyc) | none => true) then
    .over { haltH die core s with verdict := .idle }
  else
    let t := c.strand n
    let lock := c.lock && decide (2 ≤ n)
    let size := if lock then 32 else 8
    let cu : Cur := { die, core, strand := n, pc := t.pc, npc := t.pc + BitVec.ofNat 64 size, bundle := lock }
    let s := { s with cur := cu }
    let g : Agent := { die, core, slot := c.slot, strand := n }
    match fetchBytes s g t.pc size with
    | .error r => fetchFault s r
    | .ok (bs, _, s) =>
      let s := fillLines die core c.slot t.pc size s
      match brokenAt s die core n t.pc size with
      | some i => fetchFault { s with cur := { s.cur with strand := if lock then n + i else n } } (.trap cBreakpoint (BitVec.ofNat 64 (2 ^ 63 + i)) 0)
      | none =>
        if lock then
          let ops := (List.range 4).map (fun k => opField (BitVec.ofNat 64 (ofBytes (bs.drop (8 * k)))))
          let s := { s with cur := { s.cur with ops := ops } }
          .bundle (decodeStrand (BitVec.ofNat 64 (ofBytes bs))) (decodeStrand (BitVec.ofNat 64 (ofBytes (bs.drop 8))))
            (decodeStrand (BitVec.ofNat 64 (ofBytes (bs.drop 16)))) (decodeStrand (BitVec.ofNat 64 (ofBytes (bs.drop 24)))) s
        else
          match decodeStrand (BitVec.ofNat 64 (ofBytes bs)) with
          | .error _ => fetchFault s (.trap cIllegalOpcode 0 0)
          | .ok i =>
            if c.frame.isSome && n = 0 && isHStop i then .over { haltH die core s with verdict := .idle }
            else .run i s

/-- The state in which word k of a bundle executes: strand Ek at its own word's address (02 R48). -/
def bundleWord (s : State) (base : Cur) (k : Nat) : State :=
  { s with cur := { base with strand := 2 + k, pc := base.pc + BitVec.ofNat 64 (8 * k), npc := s.cur.npc,
                              gap := s.cur.gap, after := s.cur.after, whole := s.cur.whole, taken := s.cur.taken,
                              newRpt := s.cur.newRpt } }

/-- The end of a bundle whose words are all performed: back to the E0 word's address (02 R48). -/
def bundleDone (s : State) (base : Cur) : State :=
  retire { s with cur := { base with npc := s.cur.npc, gap := s.cur.gap, after := s.cur.after, whole := s.cur.whole,
                                     taken := s.cur.taken, newRpt := s.cur.newRpt, strand := 2, bundle := false } }

/-- The end of a bundle one of whose words traps or waits: no word of it is performed (15 R365, 02 R48). -/
def bundleStop (s0 : State) (base : Cur) (k : Nat) (v : Verdict) : State :=
  let s := { s0 with cur := { base with bundle := false } }
  match v with
  | .trapped c i a =>
    { raiseTrap base.die base.core (2 + k) c i a s with verdict := .trapped c i a }
  | .waited kind num => markWait kind num s
  | _ => { s with verdict := .idle }

/-- What follows a unit of H on a core that holds a frame: a unit that blocks is H's stop unit (15 R365). -/
def afterUnit (die core n : Nat) (s : State) : State :=
  if n = 0 && (s.core die core).frame.isSome && (s.core die core).hStopBy.isSome then
    match s.verdict with
    | .waited _ _ => haltH die core s
    | _ => s
  else s

end Sys2Proof.Machine
end

