-- ==== Sys2Proof/Machine/Xlate.lean ====
section
/-!
DEFINITION. `tlbi`, `sve` and `pgmig`, 0x1A6 to 0x1A8, and page migration's copy point (15 R386 to R388; 07 R190); landing,
combining-buffer and translation events (02 R46; 06 R138, R141; 07 R187); a memory word's errors (06 R170).
-/

namespace Sys2Proof.Machine

namespace Forms

/-- `tlbi`: the form that discards everything may leave A zero (log 17). -/
def tlbi (w : StrandWord) : Form :=
  { strands := onA, dst := [.none], a := if w.c.idx = 0#6 ∧ Src.zero w.a then .none else .s, c := .sel 2, sup := true }
/-- `sve`. -/
def sve : Form := { strands := onA, dst := [.scal, .none], a := .s, sup := true }
/-- `pgmig`. -/
def pgmig : Form := { strands := onA, dst := [.scal, .none], a := .s, b := .s, sup := true }

end Forms

/-! ### `tlbi` (15 R387) -/

/-- The context slot the executing strand's `CTXSEL` names. -/
def State.selCtx (s : State) : Nat := fld s.me.ctxsel 0 4

/-- `tlbi.all`. -/
def execTlbiAll (w : StrandWord) (s : State) : Host.Outcome State Fault Refusal :=
  issue (Forms.tlbi w) w (fun s => do
    let (_, s) ← capture (Forms.tlbi w) id w s
    .ok (dropTlb s.cur.die s.selCtx s)) s

/-- The translations of the page that holds an address, of any size, are discarded, and with them the checks passed at the
context (15 R387; 13 R333). -/
def dropPage (die slot : Nat) (va : Word) (s : State) : State :=
  (clearChecks die slot s).modDie die fun d =>
    { d with tlb := d.tlb.filter fun e => !(decide (e.slot = slot) && decide (e.page = va.toNat / 2 ^ pageBits e.leaf.level)) }

/-- Every translation by the leaf at a key goes: an access that still had it is refused with "moved" at the old home and is
translated again (07 R190). -/
def dropLeaf (key : Nat) (s : State) : State :=
  { s with dies := s.dies.map fun (i, d) => (i, { d with tlb := d.tlb.filter fun e => e.leaf.key ≠ key }) }

/-- `tlbi.va`. -/
def execTlbiVa (w : StrandWord) (s : State) : Host.Outcome State Fault Refusal :=
  issue (Forms.tlbi w) w (fun s => do
    let (k, s) ← capture (Forms.tlbi w) id w s
    .ok (dropPage s.cur.die s.selCtx (lo64 k.a) s)) s

/-- `tlbi.win`: window entries are read at each use, so only the check caches hold anything of one (log 9). -/
def execTlbiWin (w : StrandWord) (s : State) : Host.Outcome State Fault Refusal :=
  issue (Forms.tlbi w) w (fun s => do
    let (k, s) ← capture (Forms.tlbi w) id w s
    let slot := s.selCtx
    let h := zx k.a 16
    .ok (s.modDie s.cur.die fun d =>
      { d with
        cores := d.cores.map fun (n, c) => (n, if c.home = some slot then c.forget fun x => x.handle = h else c)
        parked := d.parked.map fun (n, c) => (n, if n < 2048 ∧ n % 16 = slot then c.forget fun x => x.handle = h else c) })) s

/-! ### `sve` (15 R386) -/

/-- `sve`. -/
def execSve (w : StrandWord) (s : State) : Host.Outcome State Fault Refusal :=
  issue Forms.sve w (fun s => do
    let (k, s) ← capture Forms.sve id w s
    let n := (lo64 k.a).toNat
    need (decide (n < 16)) cIllegalOperand
    let (v, s) ← resumeSave s.cur.die n s
    landWord 0x1A7 1 w v s) s

/-! ### `pgmig` (15 R388) -/

/-- Whether a value may become the leaf of a page of a level. -/
def newLeafOk (b : Word) (level : Nat) : Bool :=
  bit b 63 && bit b 48 && !bit b 51 && pteOk b level true && decide (fld b 57 3 ≤ 4)

/-- What a migration under way needs at its copy point, as the words of the request it keeps: the address, the new leaf, the
leaf's key and level, and the context slot. -/
def migWords (va b : Word) (key level slot : Nat) : Vec :=
  BitVec.ofNat 1024 (1 + slot * 2 + level * 2 ^ 8 + va.toNat * 2 ^ 64 + b.toNat * 2 ^ 128 + key * 2 ^ 192)

/-- `pgmig`: steps 1 and 2 at its issue; it waits at its PC until the copy point is done. -/
def execPgmig (w : StrandWord) (s : State) : Host.Outcome State Fault Refusal :=
  issue Forms.pgmig w (fun s => do
    let (k, s) ← capture Forms.pgmig id w s
    match s.me.pend with
    | some p =>
      if !p.answered then .error (.wait 10 0)
      else if p.cause ≠ 0 then .error (.trap p.cause p.info p.addr)
      else landWord 0x1A8 1 w (lo64 p.val) (s.modMe fun t => { t with pend := none })
    | none =>
      let die := s.cur.die
      let slot := s.selCtx
      let va := lo64 k.a
      let b := lo64 k.b
      if !canonical va || inAperture va then trapAt cAddressClass va
      else
        let l ← walk s die slot va
        need (newLeafOk b l.level) cReservedField
        need (!bit l.pte 51) cIllegalOperand
        let s := dropPage die slot va (s.putWord l.key (l.pte ||| (1#64 <<< 51)))
        .ok { s.modMe fun t => { t with pend := some { id := s.nextReq, val := migWords va b l.key l.level slot } } with
              nextReq := s.nextReq + 1, cur := { s.cur with hold := some (10, 0) } }) s

/-- The 256-byte pieces of a page, each with its old and new key: none when a leaf places a piece nowhere. -/
def migPieces (s : State) (job : BitVec 16) (base : Word) (old new : Leaf) : Except Stop (List (Nat × Nat)) :=
  (List.range (2 ^ pageBits old.level / 256)).mapM fun i => do
    let va := base + BitVec.ofNat 64 (256 * i)
    let p ← leafPlace s job va old
    let q ← leafPlace s job va new
    .ok (p.key, q.key)

/-- Whether a 128-byte line is pinned by a window of any drill (10 R255). -/
def linePinned (s : State) (line : Nat) : Bool :=
  (List.range 8).any fun die => (List.range 4).any fun k =>
    let d := s.drill die k
    let next := d.taken.filterMap fun t => match t.job with
      | .mx r => r.next
      | _ => none
    (d.wins ++ next).any fun w => w.act.pins.contains line || w.wts.pins.contains line

/-- Where a key of an old place is now. -/
def movedKey (ps : List (Nat × Nat)) (k : Nat) : Nat :=
  match ps.find? fun p => decide (p.1 ≤ k) && decide (k < p.1 + 256) with
  | some p => p.2 + (k - p.1)
  | none => k

/-- Writes that are still held go to the page's new place: the old home refuses them (07 R190). -/
def moveHeld (ps : List (Nat × Nat)) (s : State) : State :=
  { s with dies := s.dies.map fun (i, d) =>
      (i, { d with cores := d.cores.map fun (n, c) =>
        (n, c.mapStrands fun t => { t with held := t.held.map fun h => { h with key := movedKey ps h.key } }) }) }

/-- Copy a page's bytes to its new place; a word with an uncorrectable error keeps it there, and the number of those is
landed. -/
def copyPage (ps : List (Nat × Nat)) (s : State) : Nat × State :=
  let s' := ps.foldl (fun t p => t.putRaw p.2 ((s.bytes p.1 256).map some)) s
  let bad := s.bad.filter fun k => ps.any fun p => decide (p.1 ≤ k) && decide (k < p.1 + 256)
  (bad.length, { s' with bad := s'.bad ++ (bad.map (movedKey ps)).filter fun k => !s'.bad.contains k })

/-- `PGMIG_COPY_POINT`: of the migration that the core of the unit number waits for: no line of the page is pinned; its bytes
are copied and the new leaf written (15 R388 steps 3 to 6). A new place that is not there ends the migration with its fault
and the old leaf (log 17). -/
def execPgmigCopyPoint (s : State) : Host.Outcome State Fault Refusal :=
  let die := s.cur.die
  let core := s.cur.core
  match (s.strand die core 1).pend with
  | none => stay s
  | some p =>
    let w := fun i : Nat => p.val.extractLsb' (64 * i) 64
    let slot := fld (w 0) 1 4
    let level := fld (w 0) 8 3
    let key := (w 3).toNat
    if p.answered || !bit (w 0) 0 then stay s
    else
      let pte : Word := setFld (s.word key) 51 1 0
      let base : Word := BitVec.ofNat 64 ((w 1).toNat / 2 ^ pageBits level * 2 ^ pageBits level)
      let job := (s.ctx die slot).job
      match migPieces s job base { pte, key, level } { pte := w 2, key, level } with
      | .error .absent => .fault .absentMemory
      | .error (.wait _ _) => stay s
      | .error (.trap c i a) => act (settlePend die core p.id c i a 0 (s.putWord key pte))
      | .ok ps =>
        if ps.any fun q => linePinned s (q.1 / 128) || linePinned s (q.1 / 128 + 1) then stay s
        else
          let (n, s) := copyPage ps s
          act (settlePend die core p.id 0 0 0 (BitVec.ofNat 1024 n) (dropLeaf key ((moveHeld ps s).putWord key (w 2))))

/-! ### Landing and held writes as events (02 R46, 07 R187) -/

/-- `RESULT_LANDING`: the results of the core of the unit number that are due at the end of this cycle land, and nothing issues
on it in the cycle any more. -/
def execResultLanding (s : State) : Host.Outcome State Fault Refusal :=
  let t := s.cyc
  if s.myCore.flights.all fun f => f.due ≠ t then stay s
  else act (s.modMyCore fun c => { c.landDue t with landed := some t, dlk := 0, moved := true })

/-- `COMBINING_BUFFER_TIMEOUT`: the writes of the unit's H or A strand that have been held their whole time leave. -/
def execCombiningBufferTimeout (s : State) : Host.Outcome State Fault Refusal :=
  let n := s.cur.strand
  if 2 ≤ n || (s.me.held.all fun h => s.cyc < h.since + heldLimit) then stay s
  else act (drainOld s.cur.die s.cur.core n s)

/-! ### Translation as events (06 R138, R141) -/

/-- `XLATE_WALK`: a walk for the unit's strand completes at address a, for a load (b 0), a store (1) or a fetch (2): the leaf is
marked accessed and kept; `DT` is left to the write. A fault of the fetch of the strand's next unit is raised; one of a data
access is left to the access. -/
def execXlateWalk (s : State) : Host.Outcome State Fault Refusal :=
  let e := s.hand.ev
  let g := s.agent
  let acc : Acc := if e.b = 0 then .rd else if e.b = 1 then .wr else .fetch
  if s.myCore.iter.isNone || 6 ≤ g.strand || !canonical e.a || inAperture e.a then stay s
  else
    match translate s g e.a acc with
    | .ok (l, _) => act (keepLeaf s g e.a l (if acc = .fetch then .fetch else .rd))
    | .error .absent => .fault .absentMemory
    | .error (.wait _ _) => stay s
    | .error (.trap c i a) =>
      if acc = .fetch && s.me.pc = e.a && mayIssue s g.die g.core g.strand then act (raiseTrap g.die g.core g.strand c i a s)
      else stay s

/-- `MOVING_PAGE_REWALK`: a strand that waits walks again at address a once the leaf's `MV` reads 0, and goes on. -/
def execMovingPageRewalk (s : State) : Host.Outcome State Fault Refusal :=
  let e := s.hand.ev
  let g := s.agent
  if s.me.run ≠ .blocked 10 0 || !canonical e.a || inAperture e.a then stay s
  else
    match walk s g.die g.slot e.a with
    | .error .absent => .fault .absentMemory
    | .error _ => stay s
    | .ok l => if bit l.pte 51 then stay s else act ((keepLeaf s g e.a l .rd).modMe fun t => { t with run := .running })

/-! ### Memory errors (06 R170) -/

/-- `MEMORY_SOFT_ERROR`: the stored word at key a takes a single-bit error, or, with b not 0, an uncorrectable one. -/
def execMemorySoftError (s : State) : Host.Outcome State Fault Refusal :=
  let k := s.hand.ev.a.toNat / 8 * 8
  if !keyExists k || s.bad.contains k then stay s
  else if s.hand.ev.b = 0 then
    if s.soft.contains k then act { s with soft := s.soft.filter (· ≠ k), bad := k :: s.bad } else act { s with soft := k :: s.soft }
  else act { s with soft := s.soft.filter (· ≠ k), bad := k :: s.bad }

end Sys2Proof.Machine
end

