-- ==== Sys2Proof/Machine/Dispatch.lean ====
section
/-! DEFINITION. One arm per row of spec/opcode_table.json: the meaning of each instruction, by one direct call. -/

namespace Sys2Proof.Machine

def exec (i : Instr) (s : State) : Host.Outcome State Fault Refusal :=
  match i with
  | .add w => Sys2Proof.Machine.execAdd w s
  | .sub w => Sys2Proof.Machine.execSub w s
  | .mul w => Sys2Proof.Machine.execMul w s
  | .mulh w => Sys2Proof.Machine.execMulh w s
  | .div w => Sys2Proof.Machine.execDiv w s
  | .rem w => Sys2Proof.Machine.execRem w s
  | .and w => Sys2Proof.Machine.execAnd w s
  | .or w => Sys2Proof.Machine.execOr w s
  | .xor w => Sys2Proof.Machine.execXor w s
  | .andn w => Sys2Proof.Machine.execAndn w s
  | .orn w => Sys2Proof.Machine.execOrn w s
  | .shl w => Sys2Proof.Machine.execShl w s
  | .shr w => Sys2Proof.Machine.execShr w s
  | .sra w => Sys2Proof.Machine.execSra w s
  | .rot w => Sys2Proof.Machine.execRot w s
  | .clz w => Sys2Proof.Machine.execClz w s
  | .ctz w => Sys2Proof.Machine.execCtz w s
  | .popc w => Sys2Proof.Machine.execPopc w s
  | .bswap w => Sys2Proof.Machine.execBswap w s
  | .min w => Sys2Proof.Machine.execMin w s
  | .max w => Sys2Proof.Machine.execMax w s
  | .abs w => Sys2Proof.Machine.execAbs w s
  | .sel w => Sys2Proof.Machine.execSel w s
  | .mov w => Sys2Proof.Machine.execMov w s
  | .movk w => Sys2Proof.Machine.execMovk w s
  | .ext w => Sys2Proof.Machine.execExt w s
  | .dep w => Sys2Proof.Machine.execDep w s
  | .addx w => Sys2Proof.Machine.execAddx w s
  | .cmp w => Sys2Proof.Machine.execCmp w s
  | .plog w => Sys2Proof.Machine.execPlog w s
  | .pmovToPred w => Sys2Proof.Machine.execPmovToPred w s
  | .pmovToScalar w => Sys2Proof.Machine.execPmovToScalar w s
  | .clamp w => Sys2Proof.Machine.execClamp w s
  | .nop w => Sys2Proof.Machine.execNop w s
  | .br w => Sys2Proof.Machine.execBr w s
  | .jl w => Sys2Proof.Machine.execJl w s
  | .jmp w => Sys2Proof.Machine.execJmp w s
  | .call w => Sys2Proof.Machine.execCall w s
  | .callr w => Sys2Proof.Machine.execCallr w s
  | .ret w => Sys2Proof.Machine.execRet w s
  | .rpt w => Sys2Proof.Machine.execRpt w s
  | .fork w => Sys2Proof.Machine.execFork w s
  | .rejoin w => Sys2Proof.Machine.execRejoin w s
  | .sbset w => Sys2Proof.Machine.execSbset w s
  | .sbclr w => Sys2Proof.Machine.execSbclr w s
  | .sbwait w => Sys2Proof.Machine.execSbwait w s
  | .seg w => Sys2Proof.Machine.execSeg w s
  | .segend w => Sys2Proof.Machine.execSegend w s
  | .done w => Sys2Proof.Machine.execDone w s
  | .vadd w => Sys2Proof.Machine.execVadd w s
  | .vsub w => Sys2Proof.Machine.execVsub w s
  | .vmul w => Sys2Proof.Machine.execVmul w s
  | .vfma w => Sys2Proof.Machine.execVfma w s
  | .vfms w => Sys2Proof.Machine.execVfms w s
  | .vfnma w => Sys2Proof.Machine.execVfnma w s
  | .vmin w => Sys2Proof.Machine.execVmin w s
  | .vmax w => Sys2Proof.Machine.execVmax w s
  | .vabs w => Sys2Proof.Machine.execVabs w s
  | .vneg w => Sys2Proof.Machine.execVneg w s
  | .vamax w => Sys2Proof.Machine.execVamax w s
  | .vclamp w => Sys2Proof.Machine.execVclamp w s
  | .vrcp w => Sys2Proof.Machine.execVrcp w s
  | .vrsq w => Sys2Proof.Machine.execVrsq w s
  | .vsqrt w => Sys2Proof.Machine.execVsqrt w s
  | .vexp2 w => Sys2Proof.Machine.execVexp2 w s
  | .vlog2 w => Sys2Proof.Machine.execVlog2 w s
  | .vtanh w => Sys2Proof.Machine.execVtanh w s
  | .vsigm w => Sys2Proof.Machine.execVsigm w s
  | .verf w => Sys2Proof.Machine.execVerf w s
  | .vsin2 w => Sys2Proof.Machine.execVsin2 w s
  | .vcmp w => Sys2Proof.Machine.execVcmp w s
  | .vsel w => Sys2Proof.Machine.execVsel w s
  | .vand w => Sys2Proof.Machine.execVand w s
  | .vor w => Sys2Proof.Machine.execVor w s
  | .vxor w => Sys2Proof.Machine.execVxor w s
  | .vshl w => Sys2Proof.Machine.execVshl w s
  | .vshr w => Sys2Proof.Machine.execVshr w s
  | .vsra w => Sys2Proof.Machine.execVsra w s
  | .viadd w => Sys2Proof.Machine.execViadd w s
  | .visub w => Sys2Proof.Machine.execVisub w s
  | .vimul w => Sys2Proof.Machine.execVimul w s
  | .vimad w => Sys2Proof.Machine.execVimad w s
  | .vimin w => Sys2Proof.Machine.execVimin w s
  | .vimax w => Sys2Proof.Machine.execVimax w s
  | .vdot4 w => Sys2Proof.Machine.execVdot4 w s
  | .vred w => Sys2Proof.Machine.execVred w s
  | .vscan w => Sys2Proof.Machine.execVscan w s
  | .vperm w => Sys2Proof.Machine.execVperm w s
  | .vshuf w => Sys2Proof.Machine.execVshuf w s
  | .vbcast w => Sys2Proof.Machine.execVbcast w s
  | .vext w => Sys2Proof.Machine.execVext w s
  | .vins w => Sys2Proof.Machine.execVins w s
  | .vmov w => Sys2Proof.Machine.execVmov w s
  | .vround w => Sys2Proof.Machine.execVround w s
  | .vclass w => Sys2Proof.Machine.execVclass w s
  | .vlane w => Sys2Proof.Machine.execVlane w s
  | .mopTable w => Sys2Proof.Machine.execMopTable w s
  | .mopMove w => Sys2Proof.Machine.execMopMove w s
  | .mpop w => Sys2Proof.Machine.execMpop w s
  | .vcvt w => Sys2Proof.Machine.execVcvt w s
  | .vpack w => Sys2Proof.Machine.execVpack w s
  | .vunpk w => Sys2Proof.Machine.execVunpk w s
  | .vqnt w => Sys2Proof.Machine.execVqnt w s
  | .vdqnt w => Sys2Proof.Machine.execVdqnt w s
  | .vscal w => Sys2Proof.Machine.execVscal w s
  | .vlat w => Sys2Proof.Machine.execVlat w s
  | .resultLanding => Sys2Proof.Machine.execResultLanding s
  | .ld w => Sys2Proof.Machine.execLd w s
  | .st w => Sys2Proof.Machine.execSt w s
  | .ldv w => Sys2Proof.Machine.execLdv w s
  | .stv w => Sys2Proof.Machine.execStv w s
  | .ldvs w => Sys2Proof.Machine.execLdvs w s
  | .stvs w => Sys2Proof.Machine.execStvs w s
  | .gath w => Sys2Proof.Machine.execGath w s
  | .scat w => Sys2Proof.Machine.execScat w s
  | .ldl w => Sys2Proof.Machine.execLdl w s
  | .stl w => Sys2Proof.Machine.execStl w s
  | .pref w => Sys2Proof.Machine.execPref w s
  | .wbl w => Sys2Proof.Machine.execWbl w s
  | .invl w => Sys2Proof.Machine.execInvl w s
  | .tld w => Sys2Proof.Machine.execTld w s
  | .tst w => Sys2Proof.Machine.execTst w s
  | .tsetDef w => Sys2Proof.Machine.execTsetDef w s
  | .tsetOpen w => Sys2Proof.Machine.execTsetOpen w s
  | .tsetRel w => Sys2Proof.Machine.execTsetRel w s
  | .tqry w => Sys2Proof.Machine.execTqry w s
  | .ldcb w => Sys2Proof.Machine.execLdcb w s
  | .zfill w => Sys2Proof.Machine.execZfill w s
  | .aadd w => Sys2Proof.Machine.execAadd w s
  | .amin w => Sys2Proof.Machine.execAmin w s
  | .amax w => Sys2Proof.Machine.execAmax w s
  | .aand w => Sys2Proof.Machine.execAand w s
  | .aor w => Sys2Proof.Machine.execAor w s
  | .axor w => Sys2Proof.Machine.execAxor w s
  | .axch w => Sys2Proof.Machine.execAxch w s
  | .acas w => Sys2Proof.Machine.execAcas w s
  | .afadd w => Sys2Proof.Machine.execAfadd w s
  | .afmax w => Sys2Proof.Machine.execAfmax w s
  | .aclm w => Sys2Proof.Machine.execAclm w s
  | .ldacq w => Sys2Proof.Machine.execLdacq w s
  | .strel w => Sys2Proof.Machine.execStrel w s
  | .fenceAcq w => Sys2Proof.Machine.execFenceAcq w s
  | .fenceRel w => Sys2Proof.Machine.execFenceRel w s
  | .fenceAr w => Sys2Proof.Machine.execFenceAr w s
  | .fenceSc w => Sys2Proof.Machine.execFenceSc w s
  | .combiningBufferTimeout => Sys2Proof.Machine.execCombiningBufferTimeout s
  | .xlateWalk => Sys2Proof.Machine.execXlateWalk s
  | .movingPageRewalk => Sys2Proof.Machine.execMovingPageRewalk s
  | .enq w => Sys2Proof.Machine.execEnq w s
  | .enqn w => Sys2Proof.Machine.execEnqn w s
  | .deq w => Sys2Proof.Machine.execDeq w s
  | .engst w => Sys2Proof.Machine.execEngst w s
  | .flw w => Sys2Proof.Machine.execFlw w s
  | .fls w => Sys2Proof.Machine.execFls w s
  | .flr w => Sys2Proof.Machine.execFlr w s
  | .flrZ w => Sys2Proof.Machine.execFlrZ w s
  | .gset w => Sys2Proof.Machine.execGset w s
  | .gsetClr w => Sys2Proof.Machine.execGsetClr w s
  | .gqry w => Sys2Proof.Machine.execGqry w s
  | .cpy w => Sys2Proof.Machine.execCpy w s
  | .cpyt w => Sys2Proof.Machine.execCpyt w s
  | .cpyx w => Sys2Proof.Machine.execCpyx w s
  | .cpyq w => Sys2Proof.Machine.execCpyq w s
  | .twait w => Sys2Proof.Machine.execTwait w s
  | .tstat w => Sys2Proof.Machine.execTstat w s
  | .tkill w => Sys2Proof.Machine.execTkill w s
  | .nest w => Sys2Proof.Machine.execNest w s
  | .iter w => Sys2Proof.Machine.execIter w s
  | .pwait w => Sys2Proof.Machine.execPwait w s
  | .pret w => Sys2Proof.Machine.execPret w s
  | .lcnt w => Sys2Proof.Machine.execLcnt w s
  | .fsel w => Sys2Proof.Machine.execFsel w s
  | .launch w => Sys2Proof.Machine.execLaunch w s
  | .evsig w => Sys2Proof.Machine.execEvsig w s
  | .evwait w => Sys2Proof.Machine.execEvwait w s
  | .evwaitT w => Sys2Proof.Machine.execEvwaitT w s
  | .evclr w => Sys2Proof.Machine.execEvclr w s
  | .join w => Sys2Proof.Machine.execJoin w s
  | .leave w => Sys2Proof.Machine.execLeave w s
  | .tbar w => Sys2Proof.Machine.execTbar w s
  | .tinfo w => Sys2Proof.Machine.execTinfo w s
  | .rld w => Sys2Proof.Machine.execRld w s
  | .rst w => Sys2Proof.Machine.execRst w s
  | .rldv w => Sys2Proof.Machine.execRldv w s
  | .rstv w => Sys2Proof.Machine.execRstv w s
  | .ratom w => Sys2Proof.Machine.execRatom w s
  | .rcas w => Sys2Proof.Machine.execRcas w s
  | .rflush w => Sys2Proof.Machine.execRflush w s
  | .winq w => Sys2Proof.Machine.execWinq w s
  | .msend w => Sys2Proof.Machine.execMsend w s
  | .mpost w => Sys2Proof.Machine.execMpost w s
  | .mprobe w => Sys2Proof.Machine.execMprobe w s
  | .mcancel w => Sys2Proof.Machine.execMcancel w s
  | .mcomp w => Sys2Proof.Machine.execMcomp w s
  | .mqry w => Sys2Proof.Machine.execMqry w s
  | .cslot w => Sys2Proof.Machine.execCslot w s
  | .cred w => Sys2Proof.Machine.execCred w s
  | .cbcast w => Sys2Proof.Machine.execCbcast w s
  | .cbar w => Sys2Proof.Machine.execCbar w s
  | .cfree w => Sys2Proof.Machine.execCfree w s
  | .cqry w => Sys2Proof.Machine.execCqry w s
  | .trap w => Sys2Proof.Machine.execTrap w s
  | .rett w => Sys2Proof.Machine.execRett w s
  | .rpli w => Sys2Proof.Machine.execRpli w s
  | .rplr w => Sys2Proof.Machine.execRplr w s
  | .mfsr w => Sys2Proof.Machine.execMfsr w s
  | .mtsr w => Sys2Proof.Machine.execMtsr w s
  | .tlbiAll w => Sys2Proof.Machine.execTlbiAll w s
  | .tlbiVa w => Sys2Proof.Machine.execTlbiVa w s
  | .tlbiWin w => Sys2Proof.Machine.execTlbiWin w s
  | .sve w => Sys2Proof.Machine.execSve w s
  | .pgmig w => Sys2Proof.Machine.execPgmig w s
  | .pgmigCopyPoint => Sys2Proof.Machine.execPgmigCopyPoint s
  | .brk w => Sys2Proof.Machine.execBrk w s
  | .fallow w => Sys2Proof.Machine.execFallow w s
  | .cntrd w => Sys2Proof.Machine.execCntrd w s
  | .cntsel w => Sys2Proof.Machine.execCntsel w s
  | .wfgrd w => Sys2Proof.Machine.execWfgrd w s
  | .trmark w => Sys2Proof.Machine.execTrmark w s
  | .timrd w => Sys2Proof.Machine.execTimrd w s
  | .enrd w => Sys2Proof.Machine.execEnrd w s
  | .pace w => Sys2Proof.Machine.execPace w s
  | .pwrq w => Sys2Proof.Machine.execPwrq w s
  | .trapEntry => Sys2Proof.Machine.execTrapEntry s
  | .breakBitLoad => Sys2Proof.Machine.execBreakBitLoad s
  | .queueDeadlock => Sys2Proof.Machine.execQueueDeadlock s
  | .segmentOverrunTwice => Sys2Proof.Machine.execSegmentOverrunTwice s
  | .segmentOverrun => Sys2Proof.Machine.execSegmentOverrun s
  | .rotationGroupEnd => Sys2Proof.Machine.execRotationGroupEnd s
  | .rotationSwitch => Sys2Proof.Machine.execRotationSwitch s
  | .iterationStart => Sys2Proof.Machine.execIterationStart s
  | .clcfgApply => Sys2Proof.Machine.execClcfgApply s
  | .rcfgWrite => Sys2Proof.Machine.execRcfgWrite s
  | .hostTailStore => Sys2Proof.Machine.execHostTailStore s
  | .ringRestartRetry => Sys2Proof.Machine.execRingRestartRetry s
  | .ringRestartDiscard => Sys2Proof.Machine.execRingRestartDiscard s
  | .commandGuardDecided => Sys2Proof.Machine.execCommandGuardDecided s
  | .commandFlagSatisfied => Sys2Proof.Machine.execCommandFlagSatisfied s
  | .drillCommandReject => Sys2Proof.Machine.execDrillCommandReject s
  | .dnop => Sys2Proof.Machine.execDnop s
  | .symOpen => Sys2Proof.Machine.execSymOpen s
  | .sessionOpened => Sys2Proof.Machine.execSessionOpened s
  | .symClose => Sys2Proof.Machine.execSymClose s
  | .win => Sys2Proof.Machine.execWin s
  | .crng => Sys2Proof.Machine.execCrng s
  | .crngTrim => Sys2Proof.Machine.execCrngTrim s
  | .asrc => Sys2Proof.Machine.execAsrc s
  | .bcst => Sys2Proof.Machine.execBcst s
  | .bcstEnd => Sys2Proof.Machine.execBcstEnd s
  | .bjoin => Sys2Proof.Machine.execBjoin s
  | .bjoinEnd => Sys2Proof.Machine.execBjoinEnd s
  | .pass => Sys2Proof.Machine.execPass s
  | .accMode => Sys2Proof.Machine.execAccMode s
  | .accClr => Sys2Proof.Machine.execAccClr s
  | .drain => Sys2Proof.Machine.execDrain s
  | .rpol => Sys2Proof.Machine.execRpol s
  | .calFull => Sys2Proof.Machine.execCalFull s
  | .calConv => Sys2Proof.Machine.execCalConv s
  | .calMod => Sys2Proof.Machine.execCalMod s
  | .skewArray => Sys2Proof.Machine.execSkewArray s
  | .skewPath => Sys2Proof.Machine.execSkewPath s
  | .lzr => Sys2Proof.Machine.execLzr s
  | .dfence => Sys2Proof.Machine.execDfence s
  | .dloop => Sys2Proof.Machine.execDloop s
  | .mxM64n128 => Sys2Proof.Machine.execMxM64n128 s
  | .mxM64n256 => Sys2Proof.Machine.execMxM64n256 s
  | .mxM64n512 => Sys2Proof.Machine.execMxM64n512 s
  | .mxM128n128 => Sys2Proof.Machine.execMxM128n128 s
  | .mxM128n256 => Sys2Proof.Machine.execMxM128n256 s
  | .mxM128n512 => Sys2Proof.Machine.execMxM128n512 s
  | .mxM256n128 => Sys2Proof.Machine.execMxM256n128 s
  | .mxM256n256 => Sys2Proof.Machine.execMxM256n256 s
  | .mxM256n512 => Sys2Proof.Machine.execMxM256n512 s
  | .mxr => Sys2Proof.Machine.execMxr s
  | .tfuFetch => Sys2Proof.Machine.execTfuFetch s
  | .slotBoundary => Sys2Proof.Machine.execSlotBoundary s
  | .windowAccumulate => Sys2Proof.Machine.execWindowAccumulate s
  | .converterTrimDue => Sys2Proof.Machine.execConverterTrimDue s
  | .modulatorBiasDue => Sys2Proof.Machine.execModulatorBiasDue s
  | .skewTrimDue => Sys2Proof.Machine.execSkewTrimDue s
  | .laserStandby => Sys2Proof.Machine.execLaserStandby s
  | .laserRelightDone => Sys2Proof.Machine.execLaserRelightDone s
  | .laserDip => Sys2Proof.Machine.execLaserDip s
  | .laserLossSustained => Sys2Proof.Machine.execLaserLossSustained s
  | .symbolLockLoss => Sys2Proof.Machine.execSymbolLockLoss s
  | .symbolLockSettled => Sys2Proof.Machine.execSymbolLockSettled s
  | .omeshrWrite => Sys2Proof.Machine.execOmeshrWrite s
  | .copyNoop => Sys2Proof.Machine.execCopyNoop s
  | .copyLinear => Sys2Proof.Machine.execCopyLinear s
  | .copyFill => Sys2Proof.Machine.execCopyFill s
  | .copyToInstructionStore => Sys2Proof.Machine.execCopyToInstructionStore s
  | .copyToCommandRing => Sys2Proof.Machine.execCopyToCommandRing s
  | .copyTensor => Sys2Proof.Machine.execCopyTensor s
  | .copyTensorToTile => Sys2Proof.Machine.execCopyTensorToTile s
  | .copyTileToTensor => Sys2Proof.Machine.execCopyTileToTensor s
  | .copyBeat => Sys2Proof.Machine.execCopyBeat s
  | .copyRetire => Sys2Proof.Machine.execCopyRetire s
  | .queueStall => Sys2Proof.Machine.execQueueStall s
  | .copyQueueActRetry => Sys2Proof.Machine.execCopyQueueActRetry s
  | .copyQueueActSkip => Sys2Proof.Machine.execCopyQueueActSkip s
  | .cqcfgWrite => Sys2Proof.Machine.execCqcfgWrite s
  | .lqcfgWrite => Sys2Proof.Machine.execLqcfgWrite s
  | .launchPacketNoop => Sys2Proof.Machine.execLaunchPacketNoop s
  | .launchPacketTask => Sys2Proof.Machine.execLaunchPacketTask s
  | .launchPacketStream => Sys2Proof.Machine.execLaunchPacketStream s
  | .streamEnd => Sys2Proof.Machine.execStreamEnd s
  | .streamLaunch => Sys2Proof.Machine.execStreamLaunch s
  | .streamWait => Sys2Proof.Machine.execStreamWait s
  | .streamSig => Sys2Proof.Machine.execStreamSig s
  | .streamSkip => Sys2Proof.Machine.execStreamSkip s
  | .streamJump => Sys2Proof.Machine.execStreamJump s
  | .streamCall => Sys2Proof.Machine.execStreamCall s
  | .streamRet => Sys2Proof.Machine.execStreamRet s
  | .streamFence => Sys2Proof.Machine.execStreamFence s
  | .slotArrival => Sys2Proof.Machine.execSlotArrival s
  | .slotReturn => Sys2Proof.Machine.execSlotReturn s
  | .slotRetry => Sys2Proof.Machine.execSlotRetry s
  | .linkFrameReplay => Sys2Proof.Machine.execLinkFrameReplay s
  | .remoteAccessAtTarget => Sys2Proof.Machine.execRemoteAccessAtTarget s
  | .remoteResponse => Sys2Proof.Machine.execRemoteResponse s
  | .movedReissue => Sys2Proof.Machine.execMovedReissue s
  | .messageHeaderArrival => Sys2Proof.Machine.execMessageHeaderArrival s
  | .rendezvousPull => Sys2Proof.Machine.execRendezvousPull s
  | .rxcfgWrite => Sys2Proof.Machine.execRxcfgWrite s
  | .xnop => Sys2Proof.Machine.execXnop s
  | .xpost => Sys2Proof.Machine.execXpost s
  | .xcancel => Sys2Proof.Machine.execXcancel s
  | .cslotAtStation => Sys2Proof.Machine.execCslotAtStation s
  | .contributionArrival => Sys2Proof.Machine.execContributionArrival s
  | .slotDeadline => Sys2Proof.Machine.execSlotDeadline s
  | .slotFreeTimeout => Sys2Proof.Machine.execSlotFreeTimeout s
  | .cfreeAtStation => Sys2Proof.Machine.execCfreeAtStation s
  | .collectiveDelivery => Sys2Proof.Machine.execCollectiveDelivery s
  | .watchStopSlot => Sys2Proof.Machine.execWatchStopSlot s
  | .ctxctlPreempt => Sys2Proof.Machine.execCtxctlPreempt s
  | .ctxctlEvict => Sys2Proof.Machine.execCtxctlEvict s
  | .ctxctlResume => Sys2Proof.Machine.execCtxctlResume s
  | .ctxctlRestore => Sys2Proof.Machine.execCtxctlRestore s
  | .ctxctlTeardown => Sys2Proof.Machine.execCtxctlTeardown s
  | .ctxctlCreate => Sys2Proof.Machine.execCtxctlCreate s
  | .preemptComplete => Sys2Proof.Machine.execPreemptComplete s
  | .saveComplete => Sys2Proof.Machine.execSaveComplete s
  | .coreSectionReload => Sys2Proof.Machine.execCoreSectionReload s
  | .ptbaseWrite => Sys2Proof.Machine.execPtbaseWrite s
  | .hmentWrite => Sys2Proof.Machine.execHmentWrite s
  | .registerWrite => Sys2Proof.Machine.execRegisterWrite s
  | .brksyncWrite => Sys2Proof.Machine.execBrksyncWrite s
  | .fwctlLaunch => Sys2Proof.Machine.execFwctlLaunch s
  | .fwctlStepCycle => Sys2Proof.Machine.execFwctlStepCycle s
  | .fwctlStepInstruction => Sys2Proof.Machine.execFwctlStepInstruction s
  | .fwctlStepWindow => Sys2Proof.Machine.execFwctlStepWindow s
  | .fwctlResume => Sys2Proof.Machine.execFwctlResume s
  | .stepTimeout => Sys2Proof.Machine.execStepTimeout s
  | .fallowStopArrival => Sys2Proof.Machine.execFallowStopArrival s
  | .fallowPhaseTwoDone => Sys2Proof.Machine.execFallowPhaseTwoDone s
  | .fallowFrozen => Sys2Proof.Machine.execFallowFrozen s
  | .causeRecordArrival => Sys2Proof.Machine.execCauseRecordArrival s
  | .fallowResumeInstant => Sys2Proof.Machine.execFallowResumeInstant s
  | .dumpctlStart => Sys2Proof.Machine.execDumpctlStart s
  | .dumpComplete => Sys2Proof.Machine.execDumpComplete s
  | .wfctlWrite => Sys2Proof.Machine.execWfctlWrite s
  | .trcfgWrite => Sys2Proof.Machine.execTrcfgWrite s
  | .clockFreeze => Sys2Proof.Machine.execClockFreeze s
  | .pwrcapWrite => Sys2Proof.Machine.execPwrcapWrite s
  | .tokxferWrite => Sys2Proof.Machine.execTokxferWrite s
  | .tokenArrival => Sys2Proof.Machine.execTokenArrival s
  | .tokenReturn => Sys2Proof.Machine.execTokenReturn s
  | .tokenAck => Sys2Proof.Machine.execTokenAck s
  | .governorInterval => Sys2Proof.Machine.execGovernorInterval s
  | .paceGrantExpiry => Sys2Proof.Machine.execPaceGrantExpiry s
  | .referenceLoss => Sys2Proof.Machine.execReferenceLoss s
  | .referenceLock => Sys2Proof.Machine.execReferenceLock s
  | .slewStep => Sys2Proof.Machine.execSlewStep s
  | .realignmentGap => Sys2Proof.Machine.execRealignmentGap s
  | .fieldResetRequest => Sys2Proof.Machine.execFieldResetRequest s
  | .fieldResetInstant => Sys2Proof.Machine.execFieldResetInstant s
  | .moduleReset => Sys2Proof.Machine.execModuleReset s
  | .dieBoot => Sys2Proof.Machine.execDieBoot s
  | .bootAnswerTimeout => Sys2Proof.Machine.execBootAnswerTimeout s
  | .notcfgWrite => Sys2Proof.Machine.execNotcfgWrite s
  | .hostRead => Sys2Proof.Machine.execHostRead s
  | .hostWrite => Sys2Proof.Machine.execHostWrite s
  | .hostAtomic => Sys2Proof.Machine.execHostAtomic s
  | .boardManagementRead => Sys2Proof.Machine.execBoardManagementRead s
  | .memorySoftError => Sys2Proof.Machine.execMemorySoftError s
  | .symbolLockRegained => Sys2Proof.Machine.execSymbolLockRegained s
  | .teardownComplete => Sys2Proof.Machine.execTeardownComplete s
  | .restoreComplete => Sys2Proof.Machine.execRestoreComplete s
  | .interruptHoldoffExpiry => Sys2Proof.Machine.execInterruptHoldoffExpiry s

end Sys2Proof.Machine
end

