-- ==== Sys2Proof/Machine/Take.lean ====
section
/-!
DEFINITION. What each agent of the agenda does next: a strand fetches a unit, an engine or the scheduler takes a
command, packet or entry, an event happens, a cycle ends (INVENTORY.md, '## Agents'; log 1).
-/

namespace Sys2Proof.Machine

/-- The next action: the head of the agenda, or, when it is empty, a free choice (log 1). -/
def nextAction (s : State) : Action × State :=
  match s.agenda with
  | a :: rest => (a, { s with agenda := rest })
  | [] => (Config.choose s.free, { s with free := s.free + 1 })

/-- Whether an event may happen at a die whose clocks are frozen: one of its neighbours' or of the module's (16 R420). -/
def frozenMay (i : Instr) : Bool :=
  match i with
  | .moduleReset => true
  | .slotArrival => true
  | .boardManagementRead => true
  | _ => false

/-- Happen as a record says: the die and the unit it names act (log 5). -/
def fetchRecord (ws : List Word) (s : State) : Fetched :=
  match decode ws with
  | .error _ => .over { s with verdict := .idle }
  | .ok (i, h) =>
    if (s.die h.ev.die.toNat).frozenClk && !frozenMay i then .over { s with verdict := .idle }
    else
      .run i { s with hand := h,
                      cur := { die := h.ev.die.toNat, core := h.ev.unit.toNat % 128, unit := h.ev.unit.toNat,
                               strand := h.ev.unit.toNat / 128 % 8 } }

/-! ### Copy engines (09 R212, R213) -/

/-- The packet at the head of a core's port, when the engine may take it: the source has no copy in progress. -/
def portHead (die cl j : Nat) (s : State) : Option (Nat × Submitted) :=
  let core := 8 * cl + j
  match (s.core die core).port with
  | sub :: _ =>
    if enginesRun (s.ctx die sub.slot) && ((s.cluster die cl).copies.all fun x => x.1 ≠ j) then some (j, sub) else none
  | [] => none

/-- The packet a copy queue offers its engine. -/
def queueHead (die cl key : Nat) (q : PktQueue) (s : State) : Option (Nat × Submitted) :=
  let src := queueSource key
  if q.cluster = cl && q.takeable s && enginesRun (s.ctx die (key / 64)) &&
      ((s.cluster die cl).copies.all fun x => x.1 ≠ src) then
    some (src, { packet := if (q.badWord s).isSome then q.readable q.rdix s else q.packet q.rdix s, slot := key / 64, core := 127,
                 queue := some (key % 64), index := q.rdix, fmt3f := Tab.get 0 q.fmts q.rdix })
  else none

/-- The sources of a cluster's engine that hold a takeable packet, in its order. -/
def copySources (die cl : Nat) (s : State) : List (Nat × Submitted) :=
  ((List.range 8).filterMap fun j => portHead die cl j s) ++
    (s.die die).cqs.filterMap fun (key, q) => queueHead die cl key q s

/-- The next of an ordered list of sources after the one served last. -/
def roundRobin {α : Type} (last : Nat) (xs : List (Nat × α)) : Option (Nat × α) :=
  match xs.find? fun x => last < x.1 with
  | some x => some x
  | none => xs.head?

/-- The pool address, in a context's window, at which an engine meets an unreadable word of the queue it takes a packet from (01
R10; 06 R133). -/
def queueBad (die : Nat) (sub : Submitted) (s : State) : Option Word :=
  match sub.queue with
  | none => none
  | some n =>
    match s.cq die (cqKey sub.slot n) with
    | none => none
    | some q => (q.badWord s).map fun k =>
        BitVec.ofNat 64 (0xFFF2 * 2 ^ 48) + BitVec.ofNat 64 k -
          BitVec.ofNat 64 (keyCpl die q.cluster (winBase ((s.ctx die sub.slot).reg 0x01C) 4096))

/-- Take the packet off its port; a queue's packet stays in its slot until it retires. -/
def popPort (die cl src : Nat) (s : State) : State :=
  if src < 8 then s.modCore die (8 * cl + src) fun c => { c with port := c.port.tail } else s

/-- A copy engine takes its next packet (09 R212); one that has been cancelled is discarded (09 R239). -/
def fetchCopy (die cl : Nat) (s : State) : Fetched :=
  let c := s.cluster die cl
  if 16 ≤ c.copies.length then .over { s with verdict := .idle }
  else
    match roundRobin c.rr (copySources die cl s) with
    | none => .over { s with verdict := .idle }
    | some (src, sub) =>
      let s := s.modCluster die cl fun c => { c with rr := src }
      if wasKilled sub.slot sub.packet s then
        let s := endToken sub.slot sub.packet none (popPort die cl src s)
        .over { (match sub.queue with
          | some q => retireCq die (cqKey sub.slot q) s
          | none => s) with verdict := .performed }
      else
        let s := { s with hand := { packet := sub.packet },
                          cur := { die, core := 8 * cl, unit := cl, sub := some sub } }
        match queueBad die sub s, decodeCopyPacket sub.packet with
        | some a, _ => .over { copyFault die cl sub cUncorrectable a 0 s with verdict := .performed }
        | none, .ok i => .run i s
        | none, .error _ => .over { copyFault die cl sub cReservedField 0 0 (popPort die cl src s) with verdict := .performed }

/-! ### The scheduler (12 R297, R300 to R302) -/

/-- Whether the word that cannot be read is of a queue's header, and not of its slots. -/
def headerBad (q : PktQueue) (s : State) : Bool := (s.badIn q.hdr 8).isSome

/-- Whether the scheduler has something to do at a launch queue: a header it cannot read it records once, and then it takes nothing
from the queue (01 R10; 12 R297; log 16). -/
def launchReady (q : PktQueue) (s : State) : Bool :=
  if headerBad q s then q.cause ≠ cUncorrectable else q.takeable s

/-- A launch queue holds a word that cannot be read: its address is recorded, and a packet is refused and retired (01 R10; 12 R297,
R299, R304). -/
def launchBad (die slot : Nat) (q : PktQueue) (k : Nat) (s : State) : Fetched :=
  let va := lqVa (s.ctx die slot) + BitVec.ofNat 64 (k - q.hdr)
  if headerBad q s then
    .over { schedFault die slot cUncorrectable q.rdix va 0 (modLq die slot (fun q => { q with cause := cUncorrectable }) s) with
            verdict := .performed }
  else
    match launchRefuse { die, slot, idx := q.rdix, va, queue := true, p := q.readable q.rdix s } 0x82 cUncorrectable va s with
    | .ok (_, s) => .over { retireLq die slot s with verdict := .performed }
    | .error .absent => .absent
    | .error _ => .over { s with verdict := .idle }

/-- The scheduler takes the next launch packet of a die, serving the queues round-robin (12 R300). -/
def fetchLaunch (die : Nat) (s : State) : Fetched :=
  let d := s.die die
  let ready := d.ctxs.filterMap fun (k, c) =>
    match c.lq with
    | some q => if c.state ≠ 0 && launchReady q s then some (k, q) else none
    | none => none
  match (if Tab.get 0 d.served thingScheduler ≠ 0 then none else roundRobin d.lqTurn ready) with
  | none => .over { s with verdict := .idle }
  | some (k, q) =>
    let p := q.packet q.rdix s
    let sub : Submitted := { packet := p, slot := k, core := 127, queue := some 0, index := q.rdix }
    let s := (s.modDie die fun d => { d with lqTurn := k, served := Tab.put d.served thingScheduler 1 })
    let s := { s with hand := { packet := p }, cur := { die, sub := some sub } }
    match q.badWord s, decodeLaunchPacket p with
    | some b, _ => launchBad die k q b s
    | none, .ok i => .run i s
    | none, .error _ =>
      match launchStep s with
      | .next s => .over s
      | .fault _ => .absent
      | .refused _ => .over s

/-- A stream fetches its next entry (12 R301, R302): a stream that waits for an event stands still. -/
def fetchStream (die n : Nat) (s : State) : Fetched :=
  let t := s.strm die n
  if !t.busy || t.waitEv.isSome || (s.ctx die t.slot).state = 0 then .over { s with verdict := .idle }
  else
    let s := { s with cur := { die, unit := n } }
    match ctxLoad die t.slot t.next 16 16 s with
    | .error (.trap c _ a) => .over { streamStop die n c a s with verdict := .performed }
    | .error .absent => .absent
    | .error (.wait _ _) => .over { s with verdict := .idle }
    | .ok (bs, s) =>
      let ws := wordsOfBytes bs
      let e : StreamEntry := { w0 := ws.getD 0 0, w1 := ws.getD 1 0 }
      match decodeStreamEntry e with
      | .ok i => .run i { s with hand := { entry := e } }
      | .error _ => .over { streamStop die n cReservedField t.next s with verdict := .performed }

/-! ### Rings (08 R198) -/

/-- Run a record's outcome as a step that is over. -/
def fetchedOf (r : Host.Outcome State Fault Refusal) (s : State) : Fetched :=
  match r with
  | .next s => .over s
  | .fault _ => .absent
  | .refused _ => .over s

/-- A ring whose engine meets a word it cannot read stops at its address (01 R10, 08 R199). -/
def ringUnreadable (die n : Nat) (va : Word) (s : State) : Fetched :=
  .over { ringStop die n cUncorrectable (ringAgent n) va (ringInfo die n s) s with verdict := .performed }

/-- The command at the head, once its wait is over, is taken: its other words are read, and it runs. -/
def takeHead (die n : Nat) (v : Word) (s : State) : Fetched :=
  let r := s.ring die n
  match ringBad die r r.head (cmdWords n v) s with
  | some a => ringUnreadable die n a s
  | none =>
    let w := fun i => headWord die n i s
    match (if n < 4 then decodeDrill v (w 1) (w 2) (w 3) else decodeRxe v) with
    | .ok i => .run i { s with hand := { cmd := cmdFields v (w 1) (w 2) (w 3) } }
    | .error _ => fetchedOf (execDrillCommandReject s) s

/-- The first word at the head of a ring that its engine examines, when it cannot be read. -/
def headBad (die n : Nat) (s : State) : Option Word :=
  let r := s.ring die n
  if r.en && r.state ≠ 3 && decide (r.head < r.tail) then ringBad die r r.head 1 s else none

/-- Examine the command at the head of a ring, once a cycle: hold it at its wait, discard it, reject it, or run it (08 R198; 11
R269). -/
def fetchHead (die n : Nat) (s : State) : Fetched :=
  let s := { s with cur := { die, unit := n } }
  let idle : Fetched := .over { s with verdict := .idle }
  match headBad die n s, headCmd die n s with
  | some a, _ => ringUnreadable die n a s
  | none, none => idle
  | none, some v =>
    let wt := fld v 56 8
    if !headWhole die n v s || (Tab.get 0 (s.die die).served (thingRing n) ≠ 0 && !(s.ring die n).granted) then idle
    else
      let s := s.modDie die fun d => { d with served := Tab.put d.served (thingRing n) 1 }
      let held : Fetched := .over { holdHead die n s with verdict := .performed }
      match waitMet die n v s with
      | none => held
      | some false => .over { discardHead die n (cmdWords n v) (fld v 48 8) s with verdict := .performed }
      | some true =>
        if (cmdRejected n v).isSome then fetchedOf (execDrillCommandReject s) s
        else if wt = 0 ∨ 128 ≤ wt ∨ (s.ring die n).granted then takeHead die n v s
        else
          match grantFlag die n wt s with
          | .ok s => takeHead die n v s
          | .error _ => held

/-- The engine of a command ring acts: what it has taken goes on, and then the command at the head is examined (08 R198;
11 R270, R281). -/
def fetchRing (die n : Nat) (s : State) : Fetched :=
  let r := s.ring die n
  if 20 ≤ n || !enginesRun (s.ctx die r.owner) then .over { s with verdict := .idle }
  else if 4 ≤ n then fetchHead die n s
  else
    match advance die n 16 s with
    | .error .absent => .absent
    | .error _ => .over { s with verdict := .idle }
    | .ok s =>
      match loopTurn die n s with
      | some s => .over { s with verdict := .performed }
      | none => if drillMayTake die n s then fetchHead die n s else .over { s with verdict := .idle }

/-- One nanosecond on a die in service: field time counts it, but for the one a step back of the correction leaves out, and
the symbol clock counts every one of them: a slot boundary comes every other nanosecond (10 R242, 17 R427). -/
def dieNs (x : Die) : Die :=
  let x := if x.skipNs then { x with skipNs := false, odd := !x.odd }
    else { x with ftime := x.ftime + 1, msixHold := x.msixHold.map fun (v, n) => (v, n - 1) }
  { x with slotDue := x.slotDue || (bit x.ftime 0 == x.odd && gridRuns x) }

/-- One nanosecond: on every die in service, and for the laser modules that serve a session (10 R258). -/
def timeStep (s : State) : State :=
  let s := (List.range 8).foldl (fun s d =>
    if (s.die d).frozenClk || !(s.die d).booted then s else s.modDie d dieNs) s
  let now := s.pkg.ns + 1
  let used := (List.range 4).filter fun m => Tab.get 0 s.pkg.lasers m = 1 && moduleUsed m s
  { s with pkg := { s.pkg with ns := now, lasersAt := used.foldl (fun t m => Tab.put t m now) s.pkg.lasersAt } }

/-- Whether a slot boundary of a die is still to be met: it is, before time goes on (10 R242). -/
def slotAwaited (s : State) : Bool := (List.range 8).any fun d => gridRuns (s.die d) && (s.die d).slotDue

/-- What an action starts: a die whose clocks are frozen does nothing (16 R420). -/
def fetchAction (a : Action) (s : State) : Fetched :=
  let stopped := fun (d : Nat) => (s.die (d % 8)).frozenClk
  let idle : Fetched := .over { s with verdict := .idle }
  match a with
  | .issue d c n => fetchUnit (d % 8) (c % 128) (n % 6) s
  | .ring d n => if stopped d then idle else fetchRing (d % 8) n s
  | .copyTake d c => if stopped d then idle else fetchCopy (d % 8) (c % 16) s
  | .launchTake d _ => if stopped d then idle else fetchLaunch (d % 8) s
  | .stream d n => if stopped d then idle else fetchStream (d % 8) (n % 16) s
  | .record ws => fetchRecord ws s
  | .cycle d => .over { cycleEnd (d % 8) s with verdict := .performed }
  | .time => if slotAwaited s then idle else .over { timeStep s with verdict := .performed }

/-- What follows an action's unit: H stops, or a packet that was taken leaves its port. -/
def afterAction (a : Action) (s : State) : State :=
  match a with
  | .issue d c n => afterUnit (d % 8) (c % 128) (n % 6) s
  | .copyTake d c => if s.verdict = .performed then popPort (d % 8) (c % 16) (s.cluster (d % 8) (c % 16)).rr s else s
  | _ => s

/-- The strand a word of an opcode is placed on: A where it may run there, else H, else E0 in apart state (03 R67 to
R77). -/
def placeStrand (op : Nat) : Nat :=
  if 0x150 ≤ op ∧ op ≤ 0x155 then 0
  else if (0x048 ≤ op ∧ op ≤ 0x04C) ∨ (0x060 ≤ op ∧ op ≤ 0x0C6) ∨ op = 0x0E8 ∨ op = 0x0E9 then 2
  else 1

/-- The supervisor context's core with one strand about to fetch a word from its instruction store: what the part is in
once boot has ended and the supervisor firmware's first task has been placed (15 R379, 17 R429; log 1). -/
def placeWord (v : Word) (s : State) : State :=
  let n := placeStrand (opField v)
  let base : Word := 0xFFF5000000000000
  let s := s.modDie 0 fun d => { d with booted := true }
  let s := s.modCtx 0 15 fun c =>
    { c with state := 1, sup := true, regs := Tab.put c.regs 0x01E 16 }
  let s := s.modCore 0 120 fun c =>
    let c := { c with iter := some { slot := 15, task := 1, ordinal := 0, index := [] }, home := some 15, lock := false, frame := none }
    c.modStrand n fun t => { t with run := .running, pc := base, ready := 0, rpt := {} }
  let s := s.putWord (keyIs 0 120 0) v
  { s with agenda := .issue 0 120 n :: s.agenda }

end Sys2Proof.Machine
end

