-- ==== Sys2Proof/Machine/Step.lean ====
section
/-!
DEFINITION. One step of the machine: the next agent acts. A strand's word, an engine's command or an event runs through
`exec`; the four words of a lock-step bundle run in order E0 to E3 and end as one unit (02 R48).
-/

namespace Sys2Proof.Machine

/-- Run one word of a bundle. -/
def runWord (i : Except DecodeError Instr) (s : State) : Host.Outcome State Fault Refusal :=
  match i with
  | .ok i => exec i s
  | .error _ => .next { s with verdict := .trapped cIllegalOpcode 0 0 }

/-- Run the words of a bundle from word k on: each is checked and performed before the next, and the first that waits or traps
decides the bundle (02 R48, 03 R64; log 7). -/
def runBundle (s0 : State) (base : Cur) : Nat → List (Except DecodeError Instr) → State →
    Host.Outcome State Fault Refusal
  | _, [], s => .next (bundleDone s base)
  | k, i :: is, s =>
    match runWord i (bundleWord s base k) with
    | .next t =>
      match t.verdict with
      | .performed => runBundle s0 base (k + 1) is t
      | v => .next (bundleStop s0 base k v)
    | .fault r => .fault r
    | .refused r => .refused r

/-- Run what an action starts. -/
def runFetched (a : Action) (f : Fetched) : Host.Outcome State Fault Refusal :=
  match f with
  | .over s => .next s
  | .absent => .fault .absentMemory
  | .run i s =>
    match exec i s with
    | .next t => .next (afterAction a t)
    | .fault r => .fault r
    | .refused r => .refused r
  | .bundle i0 i1 i2 i3 s => runBundle s s.cur 0 [i0, i1, i2, i3] s

/-- One step. -/
def step (s : State) : Host.Outcome State Fault Refusal :=
  match nextAction s with
  | (a, s') => runFetched a (fetchAction a s')

/-- The state in which the very next step runs an instruction's bits: a strand word stands in the instruction store of
a core whose strand fetches it next; a tagged record is the next thing to happen (logs 1 and 5). -/
def State.withFetchWord (s : State) (nbits w : Nat) : State :=
  if nbits ≤ 64 then placeWord (BitVec.ofNat 64 w) s
  else { s with agenda := .record (wordsOf ((nbits + 63) / 64) w) :: s.agenda }

end Sys2Proof.Machine
end

