-- ==== Sys2Proof/Safety.lean ====
section
/-!
DEFINITION. What counts as a safe run, and the terms the claims use: a unit that issues, what performing it means, and what
an update leaves alone.
-/

namespace Sys2Proof

open Machine

/-- `n` steps from a state meet neither a fault nor a refusal. -/
def SafeFor : Nat → State → Prop
  | 0, _ => True
  | n + 1, s => ∃ t, step s = .next t ∧ SafeFor n t

/-- The executing unit has done nothing yet. -/
abbrev Fresh (s : State) : Prop :=
  s.cur.hold = none ∧ s.cur.after = none ∧ s.cur.whole = false ∧ s.cur.taken = false ∧ s.cur.newRpt = none ∧ s.cur.rel = false ∧
  s.cur.ord = false ∧ s.cur.entry = none

/-- Whether checks pass. -/
def passes (r : Except Stop Unit) : Bool :=
  match r with
  | .ok _ => true
  | .error _ => false

/-- The executing strand may issue a word of a form: the checks of 02 R39 and 03 R66 pass and its guard holds. -/
abbrev Issues (f : Form) (w : StrandWord) (s : State) : Prop :=
  Fresh s ∧ passes (checkWord f w s) = true ∧ guardHolds w s = true

/-- The unit is a word of its own, not one of a lock-step bundle, on one of the six strands, whose repeat loop is not active. -/
abbrev Plain (s : State) : Prop := s.cur.bundle = false ∧ s.me.rpt.active = false ∧ s.cur.strand < 6

/-- An instruction is performed: `exec` answers a next state of which a property holds. -/
def Performs (i : Instr) (s : State) (P : State → Prop) : Prop :=
  ∃ t, exec i s = .next t ∧ t.verdict = .performed ∧ P t

/-- The PC moves on to the next unit (04 R89). -/
abbrev Advances (s t : State) : Prop := Plain s → t.me.pc = s.cur.npc

/-- Every byte of memory reads as before. -/
abbrev SameMem (s t : State) : Prop := ∀ k, memGet t.mem k = memGet s.mem k

/-- Every byte of memory outside n bytes at a key reads as before. -/
abbrev SameMemBut (k n : Nat) (s t : State) : Prop := ∀ j, j < k ∨ k + n ≤ j → memGet t.mem j = memGet s.mem j

/-- Every scalar, vector, mask and predicate register, the constant-bank selection and `FSR` of every strand are as before. -/
abbrev SameRegs (s t : State) : Prop :=
  ∀ d c n, (t.strand d c n).regs = (s.strand d c n).regs ∧ (t.strand d c n).vregs = (s.strand d c n).vregs ∧
    (t.strand d c n).masks = (s.strand d c n).masks ∧ (t.strand d c n).preds = (s.strand d c n).preds ∧
    (t.strand d c n).fsr = (s.strand d c n).fsr ∧ (t.strand d c n).cbsel = (s.strand d c n).cbsel ∧
    (t.strand d c n).ctxsel = (s.strand d c n).ctxsel

/-- Every context's registers, flags, guards and debug registers are as before, and so are the package's. -/
abbrev SameCtxs (s t : State) : Prop :=
  t.pkg = s.pkg ∧ ∀ d n, t.ctx d n = s.ctx d n


/-! ### Opcodes and steps -/

/-- The opcode values that the opcode map leaves unallocated (03 R63). -/
def unallocatedOp (n : Nat) : Bool :=
  [(0x020, 0x03F), (0x050, 0x05F), (0x091, 0x0BF), (0x0C7, 0x0DF), (0x0F3, 0x10F), (0x11E, 0x12F), (0x139, 0x13F), (0x147, 0x14F),
   (0x15E, 0x16F), (0x178, 0x17F), (0x186, 0x18F), (0x196, 0x19F), (0x1A9, 0x1AF), (0x1BA, 0x1FF)].any fun r =>
    decide (r.1 ≤ n) && decide (n ≤ r.2)

/-- The outcome of a unit followed by what the step adds for H on a core that holds a frame. -/
def thenAfter (die core n : Nat) (r : Host.Outcome State Fault Refusal) : Host.Outcome State Fault Refusal :=
  match r with
  | .next t => .next (afterUnit die core n t)
  | .fault f => .fault f
  | .refused f => .refused f

/-- The state in which a strand's unit of n bytes is about to be fetched. -/
abbrev aboutTo (s : State) (die core n size : Nat) : State :=
  { s with cur := { die, core, strand := n, pc := (s.strand die core n).pc, npc := (s.strand die core n).pc + BitVec.ofNat 64 size,
                    bundle := (s.core die core).lock && decide (2 ≤ n) } }

/-- A strand may issue the unit of n bytes at its PC: nothing is due on its core, which holds no frame; the unit is fetched with some
bytes, no break bit is set on it, and the state is then t (02 R46; 16 R391, R392). -/
def Fetches (s : State) (die core n size : Nat) (bs : List Byte) (t : State) : Prop :=
  die < 8 ∧ core < 128 ∧ n < 6 ∧ (s.core die core).due = none ∧ mayIssue s die core n = true ∧ (s.core die core).frame = none ∧
    ∃ p s2, fetchBytes (aboutTo s die core n size) { die, core, slot := (s.core die core).slot, strand := n }
        (s.strand die core n).pc size = .ok (bs, p, s2) ∧
      fillLines die core (s.core die core).slot (s.strand die core n).pc size s2 = t ∧
      brokenAt t die core n (s.strand die core n).pc size = none

/-- Word k of some bytes. -/
def wordOf (bs : List Byte) (k : Nat) : Word := BitVec.ofNat 64 (ofBytes (bs.drop (8 * k)))

/-! ### Instructions that compute a value -/

/-- The scalar and predicate opcodes: form, opcode and latency on E strands (04 R84, R85, R88; 03 R67). -/
def scalarRows : List ((StrandWord → Instr) × Form × Nat × (StrandWord → Nat)) :=
  [(.add, Forms.add, 0x000, fun _ => 1), (.sub, Forms.sub, 0x001, fun _ => 1), (.mul, Forms.mul, 0x002, fun _ => 3),
   (.mulh, Forms.mulh, 0x003, fun _ => 3), (.div, Forms.div, 0x004, fun w => if (intFmt (fld (Forms.div.effX w) 8 8)).2 ≤ 32 then 12 else 20),
   (.rem, Forms.rem, 0x005, fun w => if (intFmt (fld (Forms.rem.effX w) 8 8)).2 ≤ 32 then 12 else 20),
   (.and, Forms.and, 0x006, fun _ => 1), (.or, Forms.or, 0x007, fun _ => 1), (.xor, Forms.xor, 0x008, fun _ => 1),
   (.andn, Forms.andn, 0x009, fun _ => 1), (.orn, Forms.orn, 0x00A, fun _ => 1), (.shl, Forms.shl, 0x00B, fun _ => 1),
   (.shr, Forms.shr, 0x00C, fun _ => 1), (.sra, Forms.sra, 0x00D, fun _ => 1), (.rot, Forms.rot, 0x00E, fun _ => 1),
   (.clz, Forms.clz, 0x00F, fun _ => 1), (.ctz, Forms.ctz, 0x010, fun _ => 1), (.popc, Forms.popc, 0x011, fun _ => 1),
   (.bswap, Forms.bswap, 0x012, fun _ => 1), (.min, Forms.min, 0x013, fun _ => 1), (.max, Forms.max, 0x014, fun _ => 1),
   (.abs, Forms.abs, 0x015, fun _ => 1), (.sel, Forms.sel, 0x016, fun _ => 1), (.mov, Forms.mov, 0x017, fun _ => 1),
   (.movk, Forms.movk, 0x018, fun _ => 1), (.ext, Forms.ext, 0x019, fun _ => 1), (.dep, Forms.dep, 0x01A, fun _ => 1),
   (.addx, Forms.addx, 0x01B, fun _ => 1), (.cmp, Forms.cmp, 0x01C, fun _ => 1), (.plog, Forms.plog, 0x01D, fun _ => 1),
   (.pmovToPred, Forms.pmovToPred, 0x01E, fun _ => 1), (.pmovToScalar, Forms.pmovToScalar, 0x01E, fun _ => 1),
   (.clamp, Forms.clamp, 0x01F, fun _ => 1)]

/-- Vector and mask opcodes that only compute, first part: form, opcode and latency (05 R115 to R131; 03 R67). -/
def vectorRowsA : List ((StrandWord → Instr) × Form × Nat × (StrandWord → Nat)) :=
  [(.vadd, Forms.vadd, 0x060, fun _ => 4), (.vsub, Forms.vsub, 0x061, fun _ => 4), (.vmul, Forms.vmul, 0x062, fun _ => 4),
   (.vfma, Forms.vfma, 0x063, fun _ => 4), (.vfms, Forms.vfms, 0x064, fun _ => 4), (.vfnma, Forms.vfnma, 0x065, fun _ => 4),
   (.vmin, Forms.vmin, 0x066, fun _ => 4), (.vmax, Forms.vmax, 0x067, fun _ => 4), (.vabs, Forms.vabs, 0x068, fun _ => 4),
   (.vneg, Forms.vneg, 0x069, fun _ => 4), (.vamax, Forms.vamax, 0x06A, fun _ => 4), (.vclamp, Forms.vclamp, 0x090, fun _ => 4),
   (.vcmp, Forms.vcmp, 0x074, fun _ => 4), (.vsel, Forms.vsel, 0x075, fun _ => 4), (.vand, Forms.vand, 0x076, fun _ => 4),
   (.vor, Forms.vor, 0x077, fun _ => 4), (.vxor, Forms.vxor, 0x078, fun _ => 4), (.vshl, Forms.vshl, 0x079, fun _ => 4),
   (.vshr, Forms.vshr, 0x07A, fun _ => 4), (.vsra, Forms.vsra, 0x07B, fun _ => 4), (.viadd, Forms.viadd, 0x07C, fun _ => 4),
   (.visub, Forms.visub, 0x07D, fun _ => 4)]

/-- Vector, mask and conversion opcodes that only compute, second part. -/
def vectorRowsB : List ((StrandWord → Instr) × Form × Nat × (StrandWord → Nat)) :=
  [(.vimul, Forms.vimul, 0x07E, fun _ => 4), (.vimad, Forms.vimad, 0x07F, fun _ => 4), (.vimin, Forms.vimin, 0x080, fun _ => 4),
   (.vimax, Forms.vimax, 0x081, fun _ => 4), (.vdot4, Forms.vdot4, 0x082, fun _ => 4), (.vred, Forms.vred, 0x083, fun _ => 8),
   (.vscan, Forms.vscan, 0x084, fun _ => 10), (.vperm, Forms.vperm, 0x085, fun _ => 5), (.vshuf, Forms.vshuf, 0x086, fun _ => 5),
   (.vbcast, Forms.vbcast, 0x087, fun _ => 4), (.vext, Forms.vext, 0x088, fun _ => 4), (.vins, Forms.vins, 0x089, fun _ => 4),
   (.vmov, Forms.vmov, 0x08A, fun _ => 4), (.vround, Forms.vround, 0x08B, fun _ => 4), (.vclass, Forms.vclass, 0x08C, fun _ => 4),
   (.vlane, Forms.vlane, 0x08D, fun _ => 4), (.mopTable, Forms.mopTable, 0x08E, fun _ => 1),
   (.mopMove, Forms.mopMove, 0x08E, fun _ => 1), (.mpop, Forms.mpop, 0x08F, fun _ => 1), (.vpack, Forms.vpack, 0x0C1, fun _ => 4),
   (.vdqnt, Forms.vdqnt, 0x0C4, fun _ => 6), (.vscal, Forms.vscal, 0x0C5, fun _ => 4)]

/-- The special functions (05 R116). -/
def specialRows : List ((StrandWord → Instr) × Form × Nat × (StrandWord → Nat)) :=
  [(.vrcp, Forms.vrcp, 0x06B, fun _ => 8), (.vrsq, Forms.vrsq, 0x06C, fun _ => 8), (.vsqrt, Forms.vsqrt, 0x06D, fun _ => 8),
   (.vexp2, Forms.vexp2, 0x06E, fun _ => 8), (.vlog2, Forms.vlog2, 0x06F, fun _ => 8), (.vtanh, Forms.vtanh, 0x070, fun _ => 8),
   (.vsigm, Forms.vsigm, 0x071, fun _ => 8), (.verf, Forms.verf, 0x072, fun _ => 8), (.vsin2, Forms.vsin2, 0x073, fun _ => 8)]

/-- The format a floating literal of a scalar opcode is read in: scalar literals are integers (02 R36). -/
abbrev asIs (n : Nat) : Nat := n

/-- The captured operands of a word stand, its result has its place reserved, and no write of its strand to another package that a push
would have to wait for is outstanding (02 R40; 04 R96; 07 R186). -/
def Captures (f : Form) (lf : Nat → Nat) (w : StrandWord) (s : State) (k : Caps) (s2 : State) (id : Nat) : Prop :=
  ∃ s1, capture f lf w s = .ok (k, s1) ∧ reserveDest w s1 = .ok (s2, id) ∧ (s2.cur.rel && foreignOut s2) = false

/-- The result of an E strand's instruction is on its way: it lands `lat` cycles after issue, counting the issue cycle, in the place
reserved for it; no register and no byte of memory has changed (02 R46). -/
def InFlight (s s2 t : State) (op lat : Nat) (w : StrandWord) (k : Caps) (id : Nat) : Prop :=
  t.myCore.flights = s.myCore.flights ++
      [{ due := s.cyc + lat - 1, strand := s.cur.strand, op, w, caps := k.forOp op, ipc := s.cur.pc, rid := id,
         iss := s.cyc + 1 }] ∧
    t.myCore.queues = s2.myCore.queues ∧ SameRegs s t ∧ SameMem s t ∧ SameCtxs s t ∧ Advances s t

/-- A pattern of w bits extended to 64 as a format of a signedness lands it (04 R84 `ext`). -/
def extBits {w : Nat} (sg : Bool) (x : BitVec w) : Word := if sg then x.signExtend 64 else x.setWidth 64

/-- The value a scalar opcode lands. -/
abbrev landed (op : Nat) (w : StrandWord) (k : Caps) : Word := lo64 (resultOf op w k).val

/-- A scalar opcode completes and lands a value: at once on H and A; on an E strand what its captured operands in flight compute. -/
def Computes (i : Instr) (op : Nat) (w : StrandWord) (s : State) (v : Word) : Prop :=
  Performs i s fun t =>
    (s.cur.strand < 2 → destQueue w = none → w.d ≠ 0 → t.me.sreg w.d.toNat = v) ∧
    (2 ≤ s.cur.strand → ∃ f, t.myCore.flights = s.myCore.flights ++ [f] ∧ f.strand = s.cur.strand ∧ f.op = op ∧ f.w = w ∧
      landed op w f.caps = v)

/-! ### Control -/

/-- The unit transfers to a target: the strand's PC is there, or, for a word of a bundle, the bundle's next PC. -/
def Goes (s t : State) (target : Word) : Prop :=
  (s.cur.bundle = false → t.me.pc = target) ∧ (s.cur.bundle = true → t.cur.npc = target)

/-- The executing strand has no repeat loop active and is one of the six (04 R92). -/
abbrev NoLoop (s : State) : Prop := s.me.rpt.active = false ∧ s.cur.strand < 6

/-! ### Memory and engines -/

/-- Every token a mask names has been returned without a fault (06 R156). -/
def TokensReady (mask : Nat) (s : State) : Prop :=
  ∀ i, i < 8 → mask.testBit i = true → (s.me.tok i).count = 0 ∧ (s.me.tok i).fault = false

/-- A state after the wait for the tokens a mask names, which acquires (06 R156). -/
abbrev waited (mask : Nat) (s : State) : State := if mask = 0 then s else acquire s

/-- A word with a token wait mask issues, its tokens are ready, and its operands are captured; `lf` is the format its floating literals
are read in. -/
def StartsAs (lf : Nat → Nat) (f : Form) (w : StrandWord) (s : State) (k : Caps) (s1 : State) : Prop :=
  Issues f w s ∧ TokensReady (fld (f.effX w) 8 8) s ∧ capture f lf w (waited (fld (f.effX w) 8 8) s) = .ok (k, s1)

/-- A word with a token wait mask and no floating literal issues, its tokens are ready, and its operands are captured. -/
abbrev Starts (f : Form) (w : StrandWord) (s : State) (k : Caps) (s1 : State) : Prop := StartsAs asIs f w s k s1

/-- The destination of a word can take a value: a queue has room for it, and on H and A no write to another package that the push would
have to wait for is outstanding (02 R38; 04 R96; 07 R186). A permit queue always has room (12 R312). -/
def Takes (w : StrandWord) (s : State) : Prop :=
  ∀ q, destQueue w = some q →
    (s.myCore.consumer q ≠ 6 → (s.myCore.queue q).room q s.cyc ≠ 0) ∧ (s.cur.strand < 2 → foreignOut s = false)

/-- A write of the executing strand need not wait: the strand holds nothing, or no posted write of it is on its way in the package; and
after a `fence.rel`, `.ar` or `.sc`, none to another package is outstanding (07 R181, R186). -/
def Unhindered (s : State) : Prop :=
  (s.me.held = [] ∨ postsOut s s.cur.die s.cur.core s.cur.strand = false) ∧ (s.me.relAll = true → foreignOut s = false)

/-- The number of the entry a word reserves in its destination's queue. -/
def entryOf (w : StrandWord) (s : State) : Nat :=
  match destQueue w with
  | none => 0
  | some q => if s.myCore.consumer q = 6 then 0 else (s.myCore.queue q).nextId

/-- A vector is pushed to the queue of a word's destination, or is a permit. -/
def Pushed (w : StrandWord) (v : Vec) (s s1 t : State) : Prop :=
  ∀ q, destQueue w = some q →
    if s1.myCore.consumer q = 6 then (t.myCore.strand 0).permits = (s.myCore.strand 0).permits + 1
    else t.myCore.queue q = (s1.myCore.queue q).reserve.1.land (s1.myCore.queue q).nextId v s.cyc

/-- The registers of every strand but the executing one are as before. -/
abbrev SameOthers (s t : State) : Prop :=
  ∀ d c n, (d, c, n) ≠ (s.cur.die, s.cur.core, s.cur.strand) →
    (t.strand d c n).regs = (s.strand d c n).regs ∧ (t.strand d c n).vregs = (s.strand d c n).vregs ∧
    (t.strand d c n).masks = (s.strand d c n).masks ∧ (t.strand d c n).preds = (s.strand d c n).preds ∧
    (t.strand d c n).fsr = (s.strand d c n).fsr ∧ (t.strand d c n).cbsel = (s.strand d c n).cbsel ∧
    (t.strand d c n).ctxsel = (s.strand d c n).ctxsel

/-- The link of `call` or `callr`: on H and A `s30` takes the address of the next unit; on every E strand of the unit it is in flight, to
land at the end of the cycle (04 R89; log 3). -/
def Links (op : Nat) (w : StrandWord) (s t : State) : Prop :=
  let next := s.cur.pc + BitVec.ofNat 64 (unitBytes s)
  (s.cur.strand < 2 → t.me.sreg 30 = next ∧ (∀ m, m ≠ 30 → t.me.sreg m = s.me.sreg m) ∧ SameOthers s t ∧ t.me.vregs = s.me.vregs ∧
    t.me.masks = s.me.masks ∧ t.me.preds = s.me.preds ∧ t.me.fsr = s.me.fsr ∧ t.me.cbsel = s.me.cbsel ∧ t.me.ctxsel = s.me.ctxsel) ∧
  (2 ≤ s.cur.strand → SameRegs s t ∧ t.myCore.flights = s.myCore.flights ++
    (unitStrands s).map fun n => { due := s.cyc, strand := n, op, w, caps := { a := ofWord next }, ipc := s.cur.pc, iss := s.cyc + 1 })

/-- A 64-bit value goes where a word of H or A says, and no register, flag or predicate changes but the scalar register it names. -/
def LandsNow (w : StrandWord) (v : Word) (s s1 t : State) : Prop :=
  (∀ m, t.me.sreg m = if w.dk = .scal ∧ w.d.toNat = m ∧ m ≠ 0 ∧ m < 32 then v else s.me.sreg m) ∧ SameOthers s t ∧
    t.me.vregs = s.me.vregs ∧ t.me.masks = s.me.masks ∧ t.me.preds = s.me.preds ∧ t.me.fsr = s.me.fsr ∧ t.me.cbsel = s.me.cbsel ∧
    t.me.ctxsel = s.me.ctxsel ∧ Pushed w (ofWord v) s s1 t

/-- A captured result of an E strand is in flight. -/
def LandsLater (op lat : Nat) (w : StrandWord) (k : Caps) (s s1 t : State) : Prop :=
  SameRegs s t ∧ t.myCore.flights = s.myCore.flights ++
    [{ due := s.cyc + lat - 1, strand := s.cur.strand, op, w, caps := k, ipc := s.cur.pc, rid := entryOf w s1, iss := s.cyc + 1 }]

/-- A 64-bit value lands: at once on H and A, `lat` cycles after issue, counting the issue cycle, on an E strand. -/
def Lands (op lat : Nat) (w : StrandWord) (v : Word) (s s1 t : State) : Prop :=
  (s.cur.strand < 2 → LandsNow w v s s1 t) ∧ (2 ≤ s.cur.strand → LandsLater op lat w { a := ofWord v } s s1 t) ∧ SameCtxs s t ∧
    Advances s t

/-- A vector lands: a push of A takes the active lanes and zeros, a result of an E strand is in flight. -/
def LandsVec (op lat : Nat) (w : StrandWord) (k : Caps) (s s1 t : State) : Prop :=
  (s.cur.strand < 2 → SameRegs s t ∧ Pushed w (mkVec fun L => if bit k.mask L then lane k.a L else 0) s s1 t) ∧
  (2 ≤ s.cur.strand → LandsLater op lat w k s s1 t) ∧ SameCtxs s t ∧ Advances s t

/-- A byte that a list of held writes does not touch. -/
def Untouched (hs : List Held) (j : Nat) : Prop := ∀ h ∈ hs, j < h.key ∨ h.key + h.bytes.length ≤ j

/-- A byte of an entry a translation was found by. -/
def InLeaf (f : Found) (j : Nat) : Prop := ∃ l, f.leaf = some l ∧ l.key ≤ j ∧ j < l.key + 8

/-- The atomics of two operands: opcode and operation (07 R172). -/
def atomRows : List ((StrandWord → Instr) × Nat × Nat) :=
  [(.aadd, 0x110, 0), (.amin, 0x111, 1), (.amax, 0x112, 2), (.aand, 0x113, 3), (.aor, 0x114, 4), (.axor, 0x115, 5), (.axch, 0x116, 6),
   (.afadd, 0x118, 7), (.afmax, 0x119, 8)]

/-- No copy or command-list queue of the package is enabled: no word of memory is an engine's. -/
def NoQueues (s : State) : Prop :=
  (s.dies.all fun x => x.2.cqs.isEmpty && x.2.ctxs.all fun y => y.2.lq.isNone) = true

/-- The executing strand's context is given, and every other context and the package are as before. -/
def CtxIs (x : Ctx) (s t : State) : Prop :=
  t.pkg = s.pkg ∧ ∀ d n, t.ctx d n = if d = s.cur.die ∧ n = s.mySlot then x else s.ctx d n

/-- A packet stands in its core's port, counted in a token, and every write its strand held has left (09 R235). -/
def Submits (p : Packet) (tok : Nat) (auto : Bool) (s s1 t : State) : Prop :=
  t.myCore.port = s.myCore.port ++ [{ packet := stampPacket p tok s1, slot := s.mySlot, core := s.cur.core, fmt3f := capturedFmt s,
                                       rm := roundingMode 7 s.me.fsr, auto }] ∧
    (t.me.tok tok).count = (s.me.tok tok).count + 1 ∧ (t.me.tok tok).fault = (s.me.tok tok).fault ∧ t.me.seqno = s.me.seqno + 1 ∧
    t.me.held = [] ∧ t.mem = (release s1).mem ∧ SameRegs s t ∧ SameCtxs s t ∧ Advances s t

/-- A copy engine has taken a packet: the copy runs, and its queue, if it came from one, shows it (09 R215, R225). -/
def TakenAs (run : CopyRun) (s u t : State) : Prop :=
  (t.cluster s.cur.die (s.cur.unit % 16)).copies =
      Tab.put (s.cluster s.cur.die (s.cur.unit % 16)).copies (sourceOf run.sub) run ∧
    SameRegs s t ∧ SameCtxs s t ∧ (run.sub.queue = none → t.mem = u.mem) ∧ ∀ d n, t.ring d n = s.ring d n

/-- A predicate takes a value, and no other register changes; p0 keeps reading 1 (02 R38). -/
def LandsPred (w : StrandWord) (v : Bool) (s t : State) : Prop :=
  (∀ m, t.me.pred m = if w.d.toNat = m ∧ m ≠ 0 then v else s.me.pred m) ∧ SameOthers s t ∧ t.me.regs = s.me.regs ∧
    t.me.vregs = s.me.vregs ∧ t.me.masks = s.me.masks ∧ t.me.fsr = s.me.fsr ∧ t.me.cbsel = s.me.cbsel ∧ t.me.ctxsel = s.me.ctxsel

/-- A unit goes on waiting: nothing of it is complete (15 R368 `TWAIT`). -/
def WaitsOn (i : Instr) (s : State) (kind num : Nat) (P : State → Prop) : Prop :=
  s.cur.bundle = false → ∃ t, exec i s = .next t ∧ t.verdict = .waited kind num ∧ t.me.run = .blocked kind num ∧ t.me.pc = s.me.pc ∧ P t

/-- The answer of the executing strand's request is there, without a fault (13 R332). -/
def Answered (p : Pend) (s : State) : Prop := s.me.pend = some p ∧ p.answered = true ∧ p.cause = 0

/-- With no posted write of it outstanding, and room in the queue its result goes to, a strand sends a request and waits for its
answer: the request's slots are on the rings, under the next numbers, and the entry of the result is reserved (04 R96; 13 R326). -/
def Asks (dest : Option Nat) (i : Instr) (s s1 : State) (kind : SlotKind) (dst : Nat) (words : List Word) (data : List Byte) : Prop :=
  s.me.pend = none → foreignOut s = false →
  (∀ q, dest = some q → s1.myCore.consumer q ≠ 6 → (s1.myCore.queue q).room q s.cyc ≠ 0) →
  WaitsOn i s 10 0 fun t => SameRegs s t ∧
    t.net = s.net ++ slotsOf s.nextReq kind s.cur.die dst (BitVec.ofNat 64 s.cur.core :: 0 :: words) data ∧
    ∃ p, t.me.pend = some p ∧ p.id = s.nextReq ∧ p.answered = false ∧ p.dst = dst ∧ p.words = words ∧
      ∀ q, dest = some q → s1.myCore.consumer q ≠ 6 →
        p.entry = some (q, (s1.myCore.queue q).nextId) ∧ t.myCore.queue q = (s.myCore.queue q).reserve.1

/-- The answer of the executing strand's request is there, no posted write of it is outstanding, and a queue its result goes to has the
entry that the request has reserved. -/
def AnswersTo (w : StrandWord) (p : Pend) (s s1 : State) : Prop :=
  Answered p s ∧ foreignOut s = false ∧ ∀ q, destQueue w = some q → s1.myCore.consumer q ≠ 6 → ∃ id, p.entry = some (q, id)

/-- The result of a request lands: in a register, or in the entry reserved for it (04 R96). -/
def LandsAnswer (w : StrandWord) (v : Vec) (p : Pend) (s s1 t : State) : Prop :=
  (destQueue w = none → LandsNow w (lo64 v) s s1 t) ∧
  ∀ q, destQueue w = some q → SameRegs s t ∧
    if s1.myCore.consumer q = 6 then (t.myCore.strand 0).permits = (s.myCore.strand 0).permits + 1
    else ∀ id, p.entry = some (q, id) → t.myCore.queue q = (s1.myCore.queue q).land id v s.cyc

/-- A write or atomic of the executing strand has been posted: its slots are on the rings behind everything the strand held, with the
context it acts for, plus 1, and, in the package, where its check led (13 R326, R333; 07 R181). -/
def Posts (x : WinAcc) (words : List Word) (n right : Nat) (data : List Byte) (s s2 t : State) : Prop :=
  SameRegs s t ∧ Advances s t ∧ t.me.pend = none ∧ t.me.held = [] ∧ t.mem = (release s2).mem ∧
    t.net = s.net ++ slotsOf s.nextReq .access s.cur.die x.die
      (BitVec.ofNat 64 s.cur.core :: BitVec.ofNat 64 (s.mySlot + 1) :: words ++
        (if 8 ≤ x.die then [] else [checkedKey x n right (release s2)])) data

/-- A queue destination has room for n entries whose numbers are new to it, and nothing the pushes would wait for is outstanding. -/
def TakesMany (w : StrandWord) (n : Nat) (s : State) : Prop :=
  ∀ q, destQueue w = some q → foreignOut s = false ∧
    (s.myCore.consumer q ≠ 6 → n ≤ (s.myCore.queue q).room q s.cyc ∧
      ∀ e ∈ (s.myCore.queue q).ents, e.id < (s.myCore.queue q).nextId)

/-- A record of two words lands: a register takes the first, a queue both (13 R347). -/
def LandsRecord (w : StrandWord) (r : Word × Word) (s s1 t : State) : Prop :=
  (destQueue w = none → LandsNow w r.1 s s1 t) ∧
  ∀ q, destQueue w = some q → SameRegs s t ∧
    if s1.myCore.consumer q = 6 then (t.myCore.strand 0).permits = (s.myCore.strand 0).permits + 2
    else (t.myCore.queue q).ents.map QEnt.val = (s1.myCore.queue q).ents.map QEnt.val ++ [some (ofWord r.1), some (ofWord r.2)]

/-- A ring's command takes its effect, is taken and retires with its signal applied (08 R198; 02 R53): the state of its effect is u. -/
def Retires (s u t : State) : Prop :=
  t = { takeRetire s.cur.die (ringHere s) (handLen s (ringHere s)) s.hand.cmd.sg.toNat u with verdict := .performed }

/-! ### Traps and registers -/

/-- The frame of a trap that a core takes: cause, strand, `PREC` and address, where every strand stands, how it waits and repeats, and an
entry for every result still in flight, in issue order; results that were due earlier stay in flight (15 R365, R368, R369). -/
def Framed (d : TrapDue) (s t : State) (f : Frame) : Prop :=
  t.myCore.frame = some f ∧ f.cause = d.cause ∧ f.strd = d.strd ∧ f.prec = d.prec ∧ f.addr = d.addr ∧ f.lock = s.myCore.lock ∧
    (∀ n, n < 6 → Tab.get 0 f.tpc n = (s.myCore.strand n).pc ∧ Tab.get 0 f.wait n = twaitWord (s.myCore.strand n) ∧
      Tab.get 0 f.rpt n = trptWord (s.myCore.strand n).rpt) ∧
    f.replay = (issueOrder (s.myCore.flights.filter fun x => d.t ≤ x.due)).map (fun x => { x with due := x.due + 1 - d.t }) ∧
    t.myCore.flights = s.myCore.flights.filter fun x => x.due < d.t

/-- An instruction ends in a trap of a cause; as a word of a bundle it has changed nothing (02 R48). -/
def TrapsWith (i : Instr) (s : State) (cause : BitVec 8) : Prop :=
  ∃ t info addr, exec i s = .next t ∧ t.verdict = .trapped cause info addr ∧ (s.cur.bundle = true → SameRegs s t ∧ SameMem s t ∧ SameCtxs s t)

/-! ### Drill commands -/

/-- The executing ring's drill has nothing taken and not retired, and no report waits for room. -/
def RingClear (s : State) : Prop :=
  (s.drill s.cur.die (drillHere s)).taken = [] ∧ (s.drill s.cur.die (drillHere s)).stash = [] ∧ s.hand.cmd.sg.toNat < 128

/-- The flag increments of a command's signal (02 R53). -/
def signals (s : State) : List (Nat × Nat × BitVec 16) :=
  if s.hand.cmd.sg.toNat = 0 then [] else [(s.hand.cmd.sg.toNat, 1, BitVec.ofNat 16 (ringAgent (drillHere s)))]

/-- What a drill command leaves as it was: registers, the other rings, and, when u is the state before it, memory. -/
def DrillFrame (s u t : State) : Prop :=
  SameRegs s t ∧ t.mem = u.mem ∧ ∀ d n, (d, n) ≠ (s.cur.die, drillHere s) → t.drill d n = s.drill d n ∧ t.ring d n = s.ring d n

/-- No accumulator and no status of the die has changed. -/
def SameAcc (s t : State) : Prop := ∀ i, accRead s.cur.die i t = accRead s.cur.die i s

/-- The drill has taken a command of some words and retired it: `HEAD` passes it, its signal is applied once, and what the engine keeps for
the ring is as f says. -/
def DrillRetires (len : Nat) (f : Drill → Drill) (s t : State) : Prop :=
  let die := s.cur.die
  let k := drillHere s
  t.drill die k = { f (s.drill die k) with nextId := (s.drill die k).nextId + 1 } ∧ (t.ring die k).head = (s.ring die k).head + len ∧
    (t.ctx die (s.ring die k).owner).flagAdds = (s.ctx die (s.ring die k).owner).flagAdds ++ signals s

/-- The drill has taken a command of some words that still has something to do: `HEAD` passes it, `RET` stays, and no signal is applied
yet. -/
def DrillHolds (len : Nat) (f : Drill → Drill) (job : DrillJob) (s t : State) : Prop :=
  let die := s.cur.die
  let k := drillHere s
  let d := s.drill die k
  t.drill die k = { f d with nextId := d.nextId + 1,
                             taken := [{ id := d.nextId, idx := (s.ring die k).head, len, sg := s.hand.cmd.sg.toNat, job, set := d.set,
                                         sess := d.sess, bcIn := d.bcIn, loop := (s.ring die k).loop }] } ∧
    (t.ring die k).head = (s.ring die k).head + len ∧ (t.ring die k).ret = (s.ring die k).ret ∧ ∀ n, t.ctx die n = s.ctx die n

/-- The state in which the drill has taken the command in hand, and its job is still to be done. -/
def takenState (len : Nat) (job : DrillJob) (s : State) : State :=
  let die := s.cur.die
  let k := drillHere s
  let d := s.drill die k
  takeCmd die k len (s.modDrill die k fun x =>
    { x with nextId := x.nextId + 1,
             taken := x.taken ++ [{ id := d.nextId, idx := (s.ring die k).head, len, sg := s.hand.cmd.sg.toNat, job, set := d.set,
                                    sess := d.sess, bcIn := d.bcIn, loop := (s.ring die k).loop }] })

/-! ### Events -/

/-- An event takes place and leaves this state, with its outcome noted. -/
abbrev Yields (i : Instr) (s u : State) : Prop := exec i s = .next { u with verdict := .performed }

/-- An event cannot take place now and changes nothing. -/
abbrev Idles (i : Instr) (s : State) : Prop := exec i s = .next { s with verdict := .idle }

/-- The slot of a stream that an event names: the other end in a, its class and place in b (13 R328). -/
abbrev slotFrom (s : State) : Option NetSlot := namedSlot s (s.hand.ev.a.toNat % 8) s.cur.die s.hand.ev.b.toNat
/-- Likewise of the slots that the event's die has sent. -/
abbrev slotTo (s : State) : Option NetSlot := namedSlot s s.cur.die (s.hand.ev.a.toNat % 8) s.hand.ev.b.toNat

/-- The slots that carry an answer (13 R326). -/
def replySlots (s : State) (src : Nat) (x : NetSlot) (cause : BitVec 8) (info addr : Word) (data : List Byte) : List NetSlot :=
  slotsOf s.nextReq .reply src x.src [BitVec.ofNat 64 x.id, x.w 0, cause.setWidth 64, info, addr] data

end Sys2Proof
end

