-- ==== Sys2Proof/WellFormed.lean ====
section
/-!
DEFINITION. Which instructions are well formed: the fields of a word are ones its entry allows on some strand and name the
instruction's own variant (02 R34 to R39); a command has no words past its length (03 R78, 13 R348); a packet, an entry or an
event has the kind of its instruction (09 R221; 12 R298, R301), and nothing else is in hand.
-/

namespace Sys2Proof

open Machine

/-- A strand word that some strand may carry under its form; no other operands are in hand. -/
def strandOk (f : Nat → Form) (w : StrandWord) (h : Hand) : Bool :=
  decide (h = {}) && (List.range 6).any fun n => (f n).strands.allows n && (f n).legal n w

/-- Only an engine command is in hand. -/
def cmdHand (h : Hand) : Bool := decide (h = { cmd := h.cmd })

/-- Only a packet is in hand. -/
def packetHand (h : Hand) : Bool := decide (h = { packet := h.packet })

/-- Only a command-list entry is in hand. -/
def entryHand (h : Hand) : Bool := decide (h = { entry := h.entry })

/-- Only an event is in hand. -/
def eventHand (h : Hand) : Bool := decide (h = { ev := h.ev })

/-- The words of a command past its length are zero. -/
def wordsWithin (n : Option Nat) (c : EngineCmd) : Bool :=
  match n with
  | none => false
  | some n => (decide (2 ≤ n) || c.w1 = 0) && (decide (3 ≤ n) || (c.w2 = 0 && c.w3 = 0))

/-- Whether an instruction and its operands are well formed. -/
def wellFormed (i : Instr) (h : Hand) : Bool :=
  match i with
  | .add w => strandOk (fun _ => Forms.add) w h
  | .sub w => strandOk (fun _ => Forms.sub) w h
  | .mul w => strandOk (fun _ => Forms.mul) w h
  | .mulh w => strandOk (fun _ => Forms.mulh) w h
  | .div w => strandOk (fun _ => Forms.div) w h
  | .rem w => strandOk (fun _ => Forms.rem) w h
  | .and w => strandOk (fun _ => Forms.and) w h
  | .or w => strandOk (fun _ => Forms.or) w h
  | .xor w => strandOk (fun _ => Forms.xor) w h
  | .andn w => strandOk (fun _ => Forms.andn) w h
  | .orn w => strandOk (fun _ => Forms.orn) w h
  | .shl w => strandOk (fun _ => Forms.shl) w h
  | .shr w => strandOk (fun _ => Forms.shr) w h
  | .sra w => strandOk (fun _ => Forms.sra) w h
  | .rot w => strandOk (fun _ => Forms.rot) w h
  | .clz w => strandOk (fun _ => Forms.clz) w h
  | .ctz w => strandOk (fun _ => Forms.ctz) w h
  | .popc w => strandOk (fun _ => Forms.popc) w h
  | .bswap w => strandOk (fun _ => Forms.bswap) w h
  | .min w => strandOk (fun _ => Forms.min) w h
  | .max w => strandOk (fun _ => Forms.max) w h
  | .abs w => strandOk (fun _ => Forms.abs) w h
  | .sel w => strandOk (fun _ => Forms.sel) w h
  | .mov w => strandOk (fun _ => Forms.mov) w h
  | .movk w => strandOk (fun _ => Forms.movk) w h
  | .ext w => strandOk (fun _ => Forms.ext) w h
  | .dep w => strandOk (fun _ => Forms.dep) w h
  | .addx w => strandOk (fun _ => Forms.addx) w h
  | .cmp w => strandOk (fun _ => Forms.cmp) w h
  | .plog w => strandOk (fun _ => Forms.plog) w h
  | .pmovToPred w => strandOk (fun _ => Forms.pmovToPred) w h && decide (w.dk = .pred)
  | .pmovToScalar w => strandOk (fun _ => Forms.pmovToScalar) w h && decide (w.dk ≠ .pred)
  | .clamp w => strandOk (fun _ => Forms.clamp) w h
  | .nop w => strandOk (fun _ => Forms.nop) w h
  | .br w => strandOk (fun _ => Forms.direct) w h
  | .jl w => strandOk (fun _ => Forms.indirect) w h
  | .jmp w => strandOk (fun _ => Forms.indirect) w h
  | .call w => strandOk (fun _ => Forms.direct) w h
  | .callr w => strandOk (fun _ => Forms.indirect) w h
  | .ret w => strandOk (fun _ => Forms.ret) w h
  | .rpt w => strandOk (fun _ => Forms.rpt) w h
  | .fork w => strandOk (fun _ => Forms.fork) w h
  | .rejoin w => strandOk (fun _ => Forms.rejoin) w h
  | .sbset w => strandOk (fun _ => Forms.sb) w h
  | .sbclr w => strandOk (fun _ => Forms.sb) w h
  | .sbwait w => strandOk (fun _ => Forms.sbwait) w h
  | .seg w => strandOk (fun _ => Forms.seg) w h
  | .segend w => strandOk (fun _ => Forms.segend) w h
  | .done w => strandOk (fun _ => Forms.done) w h
  | .vadd w => strandOk (fun _ => Forms.vadd) w h
  | .vsub w => strandOk (fun _ => Forms.vsub) w h
  | .vmul w => strandOk (fun _ => Forms.vmul) w h
  | .vfma w => strandOk (fun _ => Forms.vfma) w h
  | .vfms w => strandOk (fun _ => Forms.vfms) w h
  | .vfnma w => strandOk (fun _ => Forms.vfnma) w h
  | .vmin w => strandOk (fun _ => Forms.vmin) w h
  | .vmax w => strandOk (fun _ => Forms.vmax) w h
  | .vabs w => strandOk (fun _ => Forms.vabs) w h
  | .vneg w => strandOk (fun _ => Forms.vneg) w h
  | .vamax w => strandOk (fun _ => Forms.vamax) w h
  | .vclamp w => strandOk (fun _ => Forms.vclamp) w h
  | .vrcp w => strandOk (fun _ => Forms.vrcp) w h
  | .vrsq w => strandOk (fun _ => Forms.vrsq) w h
  | .vsqrt w => strandOk (fun _ => Forms.vsqrt) w h
  | .vexp2 w => strandOk (fun _ => Forms.vexp2) w h
  | .vlog2 w => strandOk (fun _ => Forms.vlog2) w h
  | .vtanh w => strandOk (fun _ => Forms.vtanh) w h
  | .vsigm w => strandOk (fun _ => Forms.vsigm) w h
  | .verf w => strandOk (fun _ => Forms.verf) w h
  | .vsin2 w => strandOk (fun _ => Forms.vsin2) w h
  | .vcmp w => strandOk (fun _ => Forms.vcmp) w h
  | .vsel w => strandOk (fun _ => Forms.vsel) w h
  | .vand w => strandOk (fun _ => Forms.vand) w h
  | .vor w => strandOk (fun _ => Forms.vor) w h
  | .vxor w => strandOk (fun _ => Forms.vxor) w h
  | .vshl w => strandOk (fun _ => Forms.vshl) w h
  | .vshr w => strandOk (fun _ => Forms.vshr) w h
  | .vsra w => strandOk (fun _ => Forms.vsra) w h
  | .viadd w => strandOk (fun _ => Forms.viadd) w h
  | .visub w => strandOk (fun _ => Forms.visub) w h
  | .vimul w => strandOk (fun _ => Forms.vimul) w h
  | .vimad w => strandOk (fun _ => Forms.vimad) w h
  | .vimin w => strandOk (fun _ => Forms.vimin) w h
  | .vimax w => strandOk (fun _ => Forms.vimax) w h
  | .vdot4 w => strandOk (fun _ => Forms.vdot4) w h
  | .vred w => strandOk (fun _ => Forms.vred) w h
  | .vscan w => strandOk (fun _ => Forms.vscan) w h
  | .vperm w => strandOk (fun _ => Forms.vperm) w h
  | .vshuf w => strandOk (fun _ => Forms.vshuf) w h
  | .vbcast w => strandOk (fun _ => Forms.vbcast) w h
  | .vext w => strandOk (fun _ => Forms.vext) w h
  | .vins w => strandOk (fun _ => Forms.vins) w h
  | .vmov w => strandOk (fun _ => Forms.vmov) w h
  | .vround w => strandOk (fun _ => Forms.vround) w h
  | .vclass w => strandOk (fun _ => Forms.vclass) w h
  | .vlane w => strandOk (fun _ => Forms.vlane) w h
  | .mopTable w => strandOk (fun _ => Forms.mopTable) w h && decide (w.a.kind = .vec)
  | .mopMove w => strandOk (fun _ => Forms.mopMove) w h && decide (w.a.kind ≠ .vec)
  | .mpop w => strandOk (fun _ => Forms.mpop) w h
  | .vcvt w => strandOk (fun _ => Forms.vcvt) w h
  | .vpack w => strandOk (fun _ => Forms.vpack) w h
  | .vunpk w => strandOk (fun _ => Forms.vunpk) w h
  | .vqnt w => strandOk (fun _ => Forms.vqnt) w h
  | .vdqnt w => strandOk (fun _ => Forms.vdqnt) w h
  | .vscal w => strandOk (fun _ => Forms.vscal) w h
  | .vlat w => strandOk (fun _ => Forms.vlat) w h
  | .resultLanding => eventHand h
  | .ld w => strandOk (fun _ => Forms.ld) w h
  | .st w => strandOk (fun _ => Forms.st) w h
  | .ldv w => strandOk (fun _ => Forms.ldv) w h
  | .stv w => strandOk (fun _ => Forms.stv) w h
  | .ldvs w => strandOk (fun _ => Forms.ldv) w h
  | .stvs w => strandOk (fun _ => Forms.stv) w h
  | .gath w => strandOk (fun _ => Forms.gath) w h
  | .scat w => strandOk (fun _ => Forms.scat) w h
  | .ldl w => strandOk (fun _ => Forms.ldl) w h
  | .stl w => strandOk (fun _ => Forms.stl) w h
  | .pref w => strandOk (fun _ => Forms.pref) w h
  | .wbl w => strandOk (fun _ => Forms.two) w h
  | .invl w => strandOk (fun _ => Forms.two) w h
  | .tld w => strandOk (fun _ => Forms.tld) w h
  | .tst w => strandOk (fun _ => Forms.tst) w h
  | .tsetDef w => strandOk (fun _ => Forms.tsetDef) w h && decide (w.c.idx ≠ 1#6 ∧ w.c.idx ≠ 2#6)
  | .tsetOpen w => strandOk (fun _ => Forms.tsetMode 1) w h && decide (w.c.idx = 1#6)
  | .tsetRel w => strandOk (fun _ => Forms.tsetMode 2) w h && decide (w.c.idx = 2#6)
  | .tqry w => strandOk (fun _ => Forms.tqry) w h
  | .ldcb w => strandOk (fun _ => Forms.ldcb) w h
  | .zfill w => strandOk (fun _ => Forms.two) w h
  | .aadd w => strandOk (fun _ => Forms.atom2 false) w h
  | .amin w => strandOk (fun _ => Forms.atom2 false) w h
  | .amax w => strandOk (fun _ => Forms.atom2 false) w h
  | .aand w => strandOk (fun _ => Forms.atom2 false) w h
  | .aor w => strandOk (fun _ => Forms.atom2 false) w h
  | .axor w => strandOk (fun _ => Forms.atom2 false) w h
  | .axch w => strandOk (fun _ => Forms.atom2 false) w h
  | .acas w => strandOk (fun _ => Forms.acas) w h
  | .afadd w => strandOk (fun _ => Forms.atom2 true) w h
  | .afmax w => strandOk (fun _ => Forms.atom2 true) w h
  | .aclm w => strandOk (fun _ => Forms.aclm) w h
  | .ldacq w => strandOk (fun _ => Forms.ldacq) w h
  | .strel w => strandOk (fun _ => Forms.strel) w h
  | .fenceAcq w => strandOk (fun _ => Forms.fence 0) w h && decide (fld w.x 0 2 = 0)
  | .fenceRel w => strandOk (fun _ => Forms.fence 1) w h && decide (fld w.x 0 2 = 1)
  | .fenceAr w => strandOk (fun _ => Forms.fence 2) w h && decide (fld w.x 0 2 = 2)
  | .fenceSc w => strandOk (fun _ => Forms.fence 3) w h && decide (fld w.x 0 2 = 3)
  | .combiningBufferTimeout => eventHand h
  | .xlateWalk => eventHand h
  | .movingPageRewalk => eventHand h
  | .enq w => strandOk (fun _ => Forms.enq) w h
  | .enqn w => strandOk (fun _ => Forms.enqn) w h
  | .deq w => strandOk (fun _ => Forms.deq) w h
  | .engst w => strandOk (fun _ => Forms.engst) w h
  | .flw w => strandOk (fun _ => Forms.flw) w h
  | .fls w => strandOk (fun _ => Forms.fls) w h
  | .flr w => strandOk (fun _ => Forms.flr false) w h && !bit w.x 7
  | .flrZ w => strandOk (fun _ => Forms.flr true) w h && bit w.x 7
  | .gset w => strandOk (fun _ => Forms.gset) w h && decide (fld w.x 6 2 ≠ 1)
  | .gsetClr w => strandOk (fun _ => Forms.gsetClr) w h && decide (fld w.x 6 2 = 1)
  | .gqry w => strandOk (fun _ => Forms.gqry) w h
  | .cpy w => strandOk (fun _ => Forms.cpy) w h
  | .cpyt w => strandOk (fun _ => Forms.cpyt) w h
  | .cpyx w => strandOk (fun _ => Forms.cpyx) w h
  | .cpyq w => strandOk (fun _ => Forms.cpyq) w h
  | .twait w => strandOk (fun _ => Forms.twait) w h
  | .tstat w => strandOk (fun _ => Forms.tstat) w h
  | .tkill w => strandOk (fun _ => Forms.tkill) w h
  | .nest w => strandOk (fun _ => Forms.nest) w h
  | .iter w => strandOk (fun _ => Forms.iter) w h
  | .pwait w => strandOk (fun _ => Forms.permits) w h
  | .pret w => strandOk (fun _ => Forms.permits) w h
  | .lcnt w => strandOk (fun _ => Forms.lcnt) w h
  | .fsel w => strandOk (fun _ => Forms.fsel) w h
  | .launch w => strandOk (fun _ => Forms.launch) w h
  | .evsig w => strandOk (fun _ => Forms.event) w h
  | .evwait w => strandOk (fun _ => Forms.event) w h && decide (w.dk ≠ .pred)
  | .evwaitT w => strandOk (fun _ => Forms.eventTest) w h && decide (w.dk = .pred)
  | .evclr w => strandOk (fun _ => Forms.event) w h
  | .join w => strandOk (fun _ => Forms.join) w h
  | .leave w => strandOk (fun _ => Forms.team) w h
  | .tbar w => strandOk (fun _ => Forms.team) w h
  | .tinfo w => strandOk (fun _ => Forms.tinfo) w h
  | .rld w => strandOk (fun _ => Forms.rld) w h
  | .rst w => strandOk (fun _ => Forms.rst) w h
  | .rldv w => strandOk (fun _ => Forms.rldv) w h
  | .rstv w => strandOk (fun _ => Forms.rstv) w h
  | .ratom w => strandOk (fun _ => Forms.ratom) w h
  | .rcas w => strandOk (fun _ => Forms.rcas) w h
  | .rflush w => strandOk (fun _ => Forms.rflush) w h
  | .winq w => strandOk (fun _ => Forms.winq) w h
  | .msend w => strandOk (fun _ => Forms.msend) w h
  | .mpost w => strandOk (fun _ => Forms.mpost) w h
  | .mprobe w => strandOk (fun _ => Forms.mprobe) w h
  | .mcancel w => strandOk (fun _ => Forms.mcancel) w h
  | .mcomp w => strandOk (fun _ => Forms.mcomp) w h
  | .mqry w => strandOk (fun _ => Forms.mqry) w h
  | .cslot w => strandOk (fun _ => Forms.cslot) w h
  | .cred w => strandOk (fun _ => Forms.contribute) w h
  | .cbcast w => strandOk (fun _ => Forms.contribute) w h
  | .cbar w => strandOk (fun _ => Forms.contribute) w h
  | .cfree w => strandOk (fun _ => Forms.cfree) w h
  | .cqry w => strandOk (fun _ => Forms.cqry) w h
  | .trap w => strandOk (fun _ => Forms.trap) w h
  | .rett w => strandOk (fun _ => Forms.rett) w h
  | .rpli w => strandOk (fun _ => Forms.rpli) w h
  | .rplr w => strandOk (fun _ => Forms.rplr) w h
  | .mfsr w => strandOk (fun _ => Forms.mfsr w.x) w h
  | .mtsr w => strandOk (fun _ => Forms.mtsr w.x) w h
  | .tlbiAll w => strandOk (fun _ => Forms.tlbi w) w h && decide (w.c.idx ≠ 1#6 ∧ w.c.idx ≠ 2#6)
  | .tlbiVa w => strandOk (fun _ => Forms.tlbi w) w h && decide (w.c.idx = 1#6)
  | .tlbiWin w => strandOk (fun _ => Forms.tlbi w) w h && decide (w.c.idx = 2#6)
  | .sve w => strandOk (fun _ => Forms.sve) w h
  | .pgmig w => strandOk (fun _ => Forms.pgmig) w h
  | .pgmigCopyPoint => eventHand h
  | .brk w => strandOk (fun _ => Forms.brk) w h
  | .fallow w => strandOk (fun _ => Forms.brk) w h
  | .cntrd w => strandOk (fun _ => Forms.cntrd) w h
  | .cntsel w => strandOk (fun _ => Forms.cntsel) w h
  | .wfgrd w => strandOk (fun _ => Forms.wfgrd) w h
  | .trmark w => strandOk (fun _ => Forms.trmark) w h
  | .timrd w => strandOk (fun _ => Forms.timrd) w h
  | .enrd w => strandOk (fun _ => Forms.enrd) w h
  | .pace w => strandOk (fun _ => Forms.pace) w h
  | .pwrq w => strandOk (fun _ => Forms.pwrq) w h
  | .trapEntry => eventHand h
  | .breakBitLoad => eventHand h
  | .queueDeadlock => eventHand h
  | .segmentOverrunTwice => eventHand h
  | .segmentOverrun => eventHand h
  | .rotationGroupEnd => eventHand h
  | .rotationSwitch => eventHand h
  | .iterationStart => eventHand h
  | .clcfgApply => eventHand h
  | .rcfgWrite => eventHand h
  | .hostTailStore => eventHand h
  | .ringRestartRetry => eventHand h
  | .ringRestartDiscard => eventHand h
  | .commandGuardDecided => eventHand h
  | .commandFlagSatisfied => eventHand h
  | .drillCommandReject => eventHand h
  | .dnop => cmdHand h && wordsWithin (drillLen 0) h.cmd
  | .symOpen => cmdHand h && wordsWithin (drillLen 1) h.cmd && !bit h.cmd.opnd 39
  | .sessionOpened => eventHand h
  | .symClose => cmdHand h && wordsWithin (drillLen 1) h.cmd && bit h.cmd.opnd 39
  | .win => cmdHand h && wordsWithin (drillLen 2) h.cmd
  | .crng => cmdHand h && wordsWithin (drillLen 3) h.cmd && !bit h.cmd.opnd 3
  | .crngTrim => cmdHand h && wordsWithin (drillLen 3) h.cmd && bit h.cmd.opnd 3
  | .asrc => cmdHand h && wordsWithin (drillLen 4) h.cmd
  | .bcst => cmdHand h && wordsWithin (drillLen 5) h.cmd && !bit h.cmd.opnd 39
  | .bcstEnd => cmdHand h && wordsWithin (drillLen 5) h.cmd && bit h.cmd.opnd 39
  | .bjoin => cmdHand h && wordsWithin (drillLen 6) h.cmd && !bit h.cmd.opnd 39
  | .bjoinEnd => cmdHand h && wordsWithin (drillLen 6) h.cmd && bit h.cmd.opnd 39
  | .pass => cmdHand h && wordsWithin (drillLen 7) h.cmd
  | .accMode => cmdHand h && wordsWithin (drillLen 8) h.cmd && decide (fld h.cmd.opnd 38 2 ≠ 1)
  | .accClr => cmdHand h && wordsWithin (drillLen 8) h.cmd && decide (fld h.cmd.opnd 38 2 = 1)
  | .drain => cmdHand h && wordsWithin (drillLen 9) h.cmd
  | .rpol => cmdHand h && wordsWithin (drillLen 10) h.cmd
  | .calFull => cmdHand h && wordsWithin (drillLen 11) h.cmd && decide (fld h.cmd.opnd 0 2 ≠ 1 ∧ fld h.cmd.opnd 0 2 ≠ 2)
  | .calConv => cmdHand h && wordsWithin (drillLen 11) h.cmd && decide (fld h.cmd.opnd 0 2 = 1)
  | .calMod => cmdHand h && wordsWithin (drillLen 11) h.cmd && decide (fld h.cmd.opnd 0 2 = 2)
  | .skewArray => cmdHand h && wordsWithin (drillLen 12) h.cmd && decide (fld h.cmd.opnd 0 2 ≠ 1)
  | .skewPath => cmdHand h && wordsWithin (drillLen 12) h.cmd && decide (fld h.cmd.opnd 0 2 = 1)
  | .lzr => cmdHand h && wordsWithin (drillLen 13) h.cmd
  | .dfence => cmdHand h && wordsWithin (drillLen 14) h.cmd
  | .dloop => cmdHand h && wordsWithin (drillLen 15) h.cmd
  | .mxM64n128 => cmdHand h && wordsWithin (drillLen 16) h.cmd
  | .mxM64n256 => cmdHand h && wordsWithin (drillLen 17) h.cmd
  | .mxM64n512 => cmdHand h && wordsWithin (drillLen 18) h.cmd
  | .mxM128n128 => cmdHand h && wordsWithin (drillLen 19) h.cmd
  | .mxM128n256 => cmdHand h && wordsWithin (drillLen 20) h.cmd
  | .mxM128n512 => cmdHand h && wordsWithin (drillLen 21) h.cmd
  | .mxM256n128 => cmdHand h && wordsWithin (drillLen 22) h.cmd
  | .mxM256n256 => cmdHand h && wordsWithin (drillLen 23) h.cmd
  | .mxM256n512 => cmdHand h && wordsWithin (drillLen 24) h.cmd
  | .mxr => cmdHand h && wordsWithin (drillLen 25) h.cmd
  | .tfuFetch => eventHand h
  | .slotBoundary => eventHand h
  | .windowAccumulate => eventHand h
  | .converterTrimDue => eventHand h
  | .modulatorBiasDue => eventHand h
  | .skewTrimDue => eventHand h
  | .laserStandby => eventHand h
  | .laserRelightDone => eventHand h
  | .laserDip => eventHand h
  | .laserLossSustained => eventHand h
  | .symbolLockLoss => eventHand h
  | .symbolLockSettled => eventHand h
  | .omeshrWrite => eventHand h
  | .copyNoop => packetHand h && decide (fld h.packet.w0 56 7 = 0)
  | .copyLinear => packetHand h && decide (fld h.packet.w0 56 7 = 1) && !bit h.packet.w0 27 && !bit h.packet.w0 28 && !bit h.packet.w0 26
  | .copyFill => packetHand h && decide (fld h.packet.w0 56 7 = 1) && !bit h.packet.w0 27 && !bit h.packet.w0 28 && bit h.packet.w0 26
  | .copyToInstructionStore => packetHand h && decide (fld h.packet.w0 56 7 = 1) && bit h.packet.w0 27
  | .copyToCommandRing => packetHand h && decide (fld h.packet.w0 56 7 = 1) && !bit h.packet.w0 27 && bit h.packet.w0 28
  | .copyTensor => packetHand h && decide (fld h.packet.w0 56 7 = 2)
  | .copyTensorToTile => packetHand h && decide (fld h.packet.w0 56 7 = 3)
  | .copyTileToTensor => packetHand h && decide (fld h.packet.w0 56 7 = 4)
  | .copyBeat => eventHand h
  | .copyRetire => eventHand h
  | .queueStall => eventHand h
  | .copyQueueActRetry => eventHand h
  | .copyQueueActSkip => eventHand h
  | .cqcfgWrite => eventHand h
  | .lqcfgWrite => eventHand h
  | .launchPacketNoop => packetHand h && decide (fld h.packet.w0 60 3 = 0)
  | .launchPacketTask => packetHand h && decide (fld h.packet.w0 60 3 = 1)
  | .launchPacketStream => packetHand h && decide (fld h.packet.w0 60 3 = 2)
  | .streamEnd => entryHand h && decide (fld h.entry.w0 60 4 = 0)
  | .streamLaunch => entryHand h && decide (fld h.entry.w0 60 4 = 1)
  | .streamWait => entryHand h && decide (fld h.entry.w0 60 4 = 2)
  | .streamSig => entryHand h && decide (fld h.entry.w0 60 4 = 3)
  | .streamSkip => entryHand h && decide (fld h.entry.w0 60 4 = 4)
  | .streamJump => entryHand h && decide (fld h.entry.w0 60 4 = 5)
  | .streamCall => entryHand h && decide (fld h.entry.w0 60 4 = 6)
  | .streamRet => entryHand h && decide (fld h.entry.w0 60 4 = 7)
  | .streamFence => entryHand h && decide (fld h.entry.w0 60 4 = 8)
  | .slotArrival => eventHand h
  | .slotReturn => eventHand h
  | .slotRetry => eventHand h
  | .linkFrameReplay => eventHand h
  | .remoteAccessAtTarget => eventHand h
  | .remoteResponse => eventHand h
  | .movedReissue => eventHand h
  | .messageHeaderArrival => eventHand h
  | .rendezvousPull => eventHand h
  | .rxcfgWrite => eventHand h
  | .xnop => cmdHand h && wordsWithin (rxeLen 0) h.cmd
  | .xpost => cmdHand h && wordsWithin (rxeLen 1) h.cmd
  | .xcancel => cmdHand h && wordsWithin (rxeLen 2) h.cmd
  | .cslotAtStation => eventHand h
  | .contributionArrival => eventHand h
  | .slotDeadline => eventHand h
  | .slotFreeTimeout => eventHand h
  | .cfreeAtStation => eventHand h
  | .collectiveDelivery => eventHand h
  | .watchStopSlot => eventHand h
  | .ctxctlPreempt => eventHand h
  | .ctxctlEvict => eventHand h
  | .ctxctlResume => eventHand h
  | .ctxctlRestore => eventHand h
  | .ctxctlTeardown => eventHand h
  | .ctxctlCreate => eventHand h
  | .preemptComplete => eventHand h
  | .saveComplete => eventHand h
  | .coreSectionReload => eventHand h
  | .ptbaseWrite => eventHand h
  | .hmentWrite => eventHand h
  | .registerWrite => eventHand h
  | .brksyncWrite => eventHand h
  | .fwctlLaunch => eventHand h
  | .fwctlStepCycle => eventHand h
  | .fwctlStepInstruction => eventHand h
  | .fwctlStepWindow => eventHand h
  | .fwctlResume => eventHand h
  | .stepTimeout => eventHand h
  | .fallowStopArrival => eventHand h
  | .fallowPhaseTwoDone => eventHand h
  | .fallowFrozen => eventHand h
  | .causeRecordArrival => eventHand h
  | .fallowResumeInstant => eventHand h
  | .dumpctlStart => eventHand h
  | .dumpComplete => eventHand h
  | .wfctlWrite => eventHand h
  | .trcfgWrite => eventHand h
  | .clockFreeze => eventHand h
  | .pwrcapWrite => eventHand h
  | .tokxferWrite => eventHand h
  | .tokenArrival => eventHand h
  | .tokenReturn => eventHand h
  | .tokenAck => eventHand h
  | .governorInterval => eventHand h
  | .paceGrantExpiry => eventHand h
  | .referenceLoss => eventHand h
  | .referenceLock => eventHand h
  | .slewStep => eventHand h
  | .realignmentGap => eventHand h
  | .fieldResetRequest => eventHand h
  | .fieldResetInstant => eventHand h
  | .moduleReset => eventHand h
  | .dieBoot => eventHand h
  | .bootAnswerTimeout => eventHand h
  | .notcfgWrite => eventHand h
  | .hostRead => eventHand h
  | .hostWrite => eventHand h
  | .hostAtomic => eventHand h
  | .boardManagementRead => eventHand h
  | .memorySoftError => eventHand h
  | .symbolLockRegained => eventHand h
  | .teardownComplete => eventHand h
  | .restoreComplete => eventHand h
  | .interruptHoldoffExpiry => eventHand h

end Sys2Proof
end

