-- ==== Sys2Proof/Certificates/Slice0/Obligations.lean ====
section
/-!
DEFINITION. The statements for the provers. Each `def Obligations.<Name> : Prop` says one thing about the machine; its docstring
names the rule of spec/ it comes from. `Issues`, `Performs` and the other terms stand in Sys2Proof/Safety.lean.
-/

open Sys2Proof Sys2Proof.Machine

/-! ### Encoding, steps, reset -/

/-- Decoding the encoded words of any well-formed instruction gives it back, with every operand (02 R34, R52, R54; 03 R67 to R79;
the event records are the model's own, log 5).
A strand word that decodes is the encoding of what it decodes to: decoding drops no bit, and each word has one meaning
(02 R34). -/
def Obligations.DecodeEncode : Prop :=
  (∀ (i : Instr) (h : Hand), wellFormed i h = true → decode (encode i h) = .ok (i, h)) ∧
  (∀ (v : Word) (i : Instr), decodeStrand v = .ok i → encode i {} = [Space.strand.tag, v])

/-- Words the spec writes out for its worked instructions decode to them. -/
def Obligations.WorkedWords : Prop :=
  decodeStrand 0x00004546CD000007 =
      .ok (.add { sy := false, bh := 0, pn := false, pg := 0, dk := .scal, d := 5, a := ⟨.scal, 6⟩, b := ⟨.lit, 13⟩, c := ⟨.vec, 0⟩, x := 7 }) ∧
    decodeStrand 0x0631040102040100 =
      .ok (.vfma { sy := false, bh := 0, pn := false, pg := 1, dk := .vec, d := 4, a := ⟨.vec, 1⟩, b := ⟨.vec, 2⟩, c := ⟨.vec, 4⟩, x := 0x100 }) ∧
    decodeStrand 0x11C1C00000000003 =
      .ok (.fenceSc { sy := false, bh := 0, pn := false, pg := 1, dk := .none, d := 0, a := ⟨.vec, 0⟩, b := ⟨.vec, 0⟩, c := ⟨.vec, 0⟩, x := 3 }) ∧
    decodeDrill 0x000302000000000C 0 0 0 = .ok .win ∧ decodeDrill 0x0002090000008000 0x0000100100000005 0 0 = .ok .drain

/-- Exactly the words whose opcode the map leaves unallocated decode to nothing (03 R63, R64).
A word of an unallocated opcode that a strand may issue traps with `ILLEGAL_OPCODE`, whatever its other fields (03 R64). -/
def Obligations.OpcodeMap : Prop :=
  (∀ v : Word, (∃ e, decodeStrand v = .error e) ↔ unallocatedOp (opField v) = true) ∧
  (∀ (s t : State) (die core n : Nat) (rest : List Action) (bs : List Byte),
     s.agenda = .issue die core n :: rest → ((s.core die core).lock && decide (2 ≤ n)) = false →
     Fetches { s with agenda := rest } die core n 8 bs t → unallocatedOp (opField (wordOf bs 0)) = true →
     ∃ u, step s = .next u ∧ u.verdict = .trapped cIllegalOpcode 0 0)

/-- A strand that may issue, and whose word at the PC decodes to an instruction, executes it: the step is `exec` of it at the state
in which the word has been fetched, and then `afterUnit`, which changes nothing on a core that holds no frame.
The four words of a bundle that the E strands may issue run in order, E0 to E3, as one unit (02 R48).
A record that decodes to an instruction happens: the step is `exec` of it at the state that holds its operands (the model's own
form of an event: log 5). -/
def Obligations.StepRunsDecoded : Prop :=
  (∀ (s t : State) (die core n : Nat) (rest : List Action) (bs : List Byte) (i : Instr),
     s.agenda = .issue die core n :: rest → ((s.core die core).lock && decide (2 ≤ n)) = false →
     Fetches { s with agenda := rest } die core n 8 bs t → decodeStrand (wordOf bs 0) = .ok i →
     step s = thenAfter die core n (exec i t)) ∧
  (∀ (s t : State) (die core n : Nat) (rest : List Action) (bs : List Byte),
     s.agenda = .issue die core n :: rest → ((s.core die core).lock && decide (2 ≤ n)) = true →
     Fetches { s with agenda := rest } die core n 32 bs t →
     step s =
       let u := { t with cur := { t.cur with ops := (List.range 4).map fun k => opField (wordOf bs k) } }
       runBundle u u.cur 0 ((List.range 4).map fun k => decodeStrand (wordOf bs k)) u) ∧
  (∀ (s : State) (ws : List Word) (rest : List Action) (i : Instr) (h : Hand),
     s.agenda = .record ws :: rest → decode ws = .ok (i, h) → (s.die h.ev.die.toNat).frozenClk = false →
     step s = exec i { s with agenda := rest, hand := h,
                              cur := { die := h.ev.die.toNat, core := h.ev.unit.toNat % 128, unit := h.ev.unit.toNat,
                                       strand := h.ev.unit.toNat / 128 % 8 } })

/-- From any state whose memory is in canonical form, a step that answers a next state leaves it in canonical form. -/
def Obligations.StepKeepsMemory : Prop :=
  ∀ s t : State, Memory.wf s.mem = true → step s = .next t → Memory.wf t.mem = true

/-- Memory at reset is in canonical form and every byte reads 0 (the model's choice for what the spec leaves open: log 2).
What reset leaves in registers whose reset value the spec gives: `RCFG`, `RIDX`, `RRET`, `RSTAT` (08 R195, R196), `EVCFG` (12
R305), `LQCFG` (12 R297), `CQTMO` and `WFTHR` (15 R375), `NOTCFG` (17 R432), `TRCFG` (16 R413), `CAP` (17 R422), `CLKST` (17 R428),
`BOOTRPT` (17 R430) and the rotation (12 R315). -/
def Obligations.ResetState : Prop :=
  (Memory.wf State.reset.mem = true ∧ ∀ k, memGet State.reset.mem k = 0) ∧
  (∀ d n : Nat,
     (State.reset.ring d n).cfg = 0x0000000200000000 ∧ (State.reset.ring d n).ridx = 0 ∧ (State.reset.ring d n).rret = 0 ∧
     (State.reset.ring d n).rstat = 0 ∧ (State.reset.ctx d n).evcfg = 0x2000000000000000 ∧
     (State.reset.ctx d n).lqcfg = 0x1000000000000000 ∧ (State.reset.die d).cqtmo = 1048576 ∧ (State.reset.die d).wfthr = 4096 ∧
     (State.reset.die d).dbgReg 0x930 = 0x2000000000000000 ∧ (State.reset.die d).dbgReg 0x860 = 0x1000000000000000 ∧
     State.reset.pkg.cap = 4000 ∧ clkstWord (State.reset.die d) = 0 ∧ State.reset.pkg.bootrpt = 0 ∧
     Tab.get 0 (State.reset.die d).rote n = 0)

/-! ### Scalar and vector instructions (02 to 05) -/

/-- On the H and A strands each scalar and predicate instruction lands its result as it completes: a scalar register other than s0, or
a predicate other than p0, takes the computed value, a queue takes it at its reserved entry, and every other register, and for a
register destination every byte of memory, is unchanged. -/
def Obligations.ScalarLands : Prop :=
  ∀ row ∈ scalarRows, ∀ (w : StrandWord) (s s2 : State) (k : Caps) (id : Nat),
    s.cur.strand < 2 → Issues row.2.1 w s → Plain s → Captures row.2.1 asIs w s k s2 id →
    Performs (row.1 w) s fun t =>
      (∀ m, t.me.sreg m = if w.dk = .scal ∧ w.d.toNat = m ∧ m ≠ 0 ∧ m < 32 then lo64 (resultOf row.2.2.1 w k).val else s.me.sreg m) ∧
      (∀ m, t.me.pred m = if w.dk = .pred ∧ w.d.toNat = m ∧ m ≠ 0 then bit (resultOf row.2.2.1 w k).val 0 else s.me.pred m) ∧
      (∀ q, destQueue w = some q → s2.myCore.consumer q ≠ 6 →
        t.myCore.queue q = (s2.myCore.queue q).land id (ofWord (lo64 (resultOf row.2.2.1 w k).val)) s.cyc) ∧
      (destQueue w = none → SameMem s t ∧ SameCtxs s t) ∧ t.me.pc = s.cur.npc

/-- On the E strands each scalar and predicate instruction puts its result in flight with its class's latency.
Each vector, mask and conversion instruction that needs nothing but its operands puts its result in flight.
Each special function puts its result in flight with a latency of 8 and occupies its unit for 4 cycles (05 R116).
The conversions that read more than their operands: `vcvt` resolves its source format too, `vunpk` and `vlat` check the format
they resolve, and `vqnt` reads three registers (05 R124 to R130). -/
def Obligations.ComputeInFlight : Prop :=
  (∀ row ∈ scalarRows, ∀ (w : StrandWord) (s s2 : State) (k : Caps) (id : Nat),
     2 ≤ s.cur.strand → Issues row.2.1 w s → Captures row.2.1 asIs w s k s2 id →
     Performs (row.1 w) s fun t => InFlight s s2 t row.2.2.1 (row.2.2.2 w) w k id) ∧
  (∀ row ∈ vectorRowsA ++ vectorRowsB, ∀ (w : StrandWord) (s s2 : State) (k : Caps) (id : Nat),
     2 ≤ s.cur.strand → Issues row.2.1 w s → Captures row.2.1 vecLit w s k s2 id →
     ¬ ((row.2.2.1 = 0x083 ∨ row.2.2.1 = 0x084) ∧ w.c.idx = 3 ∧ (k.fmt = 12 ∨ k.fmt = 13)) →
     Performs (row.1 w) s fun t => InFlight s s2 t row.2.2.1 (row.2.2.2 w) w k id) ∧
  (∀ row ∈ specialRows, ∀ (w : StrandWord) (s s2 : State) (k : Caps) (id : Nat),
     2 ≤ s.cur.strand → Issues row.2.1 w s → Captures row.2.1 vecLit w s k s2 id → s.me.sfuFree ≤ s.cyc →
     Performs (row.1 w) s fun t => InFlight s s2 t row.2.2.1 8 w k id ∧ t.me.sfuFree = s.cyc + 4) ∧
  (∀ (w : StrandWord) (s s2 : State) (k : Caps) (id : Nat), 2 ≤ s.cur.strand →
     (∀ src, Issues Forms.vcvt w s → cvtSource w s = .ok src → Captures Forms.vcvt (fun _ => src) w s k s2 id →
       Performs (.vcvt w) s fun t => InFlight s s2 t 0x0C0 4 w { k with c := BitVec.ofNat 1024 src } id) ∧
     (Issues Forms.vunpk w s → Captures Forms.vunpk vecLit w s k s2 id → w.c.idx.toNat < 32 / elemBits k.fmt →
       Performs (.vunpk w) s fun t => InFlight s s2 t 0x0C2 4 w k id) ∧
     (Issues Forms.vqnt w s → Captures Forms.vqnt vecLit w s k s2 id →
       Performs (.vqnt w) s fun t =>
         InFlight s s2 t 0x0C3 10 w { k with b := s.me.vreg (w.a.idx.toNat + 1), c := s.me.vreg (w.a.idx.toNat + 2) } id) ∧
     (Issues Forms.vlat w s → Captures Forms.vlat vecLit w s k s2 id → ¬ (k.fmt = 20 ∧ fld k.x 6 2 ≠ 0) →
       Performs (.vlat w) s fun t => InFlight s s2 t 0x0C6 6 w k id))

/-- What the arithmetic and logic opcodes land without `SAT`, as bit vectors of the width of `FMT`: sums, differences and products
wrap, shifts take their count modulo 64 (04 R84, R85).
A sum with `SAT` in a signed format of n bits is clamped to that format (04 R84, R85; 02 R41). -/
def Obligations.ScalarValues : Prop :=
  (∀ (w : StrandWord) (k : Caps), k.sat = false →
     let sg := (intFmt k.fmt).1
     let n := (intFmt k.fmt).2
     let a := (lo64 k.a).setWidth n
     let b := (lo64 k.b).setWidth n
     landed 0x000 w k = extBits sg (a + b) ∧ landed 0x001 w k = extBits sg (a - b) ∧ landed 0x002 w k = extBits sg (a * b) ∧
     landed 0x006 w k = extBits sg (a &&& b) ∧ landed 0x007 w k = extBits sg (a ||| b) ∧ landed 0x008 w k = extBits sg (a ^^^ b) ∧
     landed 0x009 w k = extBits sg (a &&& ~~~b) ∧ landed 0x00A w k = extBits sg (a ||| ~~~b) ∧
     landed 0x00B w k = extBits sg (a <<< fld (lo64 k.b) 0 6) ∧ landed 0x00C w k = extBits sg (a >>> fld (lo64 k.b) 0 6) ∧
     landed 0x00D w k = extBits sg (a.sshiftRight (fld (lo64 k.b) 0 6)) ∧ landed 0x017 w k = extBits sg a ∧
     landed 0x013 w k = (if (if sg then a.sle b else a.ule b) then extBits sg a else extBits sg b) ∧
     landed 0x014 w k = (if (if sg then a.sle b else a.ule b) then extBits sg b else extBits sg a)) ∧
  (∀ (w : StrandWord) (k : Caps), k.sat = true → (intFmt k.fmt).1 = true →
     let n := (intFmt k.fmt).2
     let sum := ((lo64 k.a).setWidth n).toInt + ((lo64 k.b).setWidth n).toInt
     (2 ^ (n - 1) ≤ sum → (landed 0x000 w k).toInt = 2 ^ (n - 1) - 1) ∧ (sum < -2 ^ (n - 1) → (landed 0x000 w k).toInt = -2 ^ (n - 1)) ∧
     (-2 ^ (n - 1) ≤ sum → sum < 2 ^ (n - 1) → (landed 0x000 w k).toInt = sum))

/-- Integer division never traps: a divisor of zero gives a quotient of all ones in w bits and the dividend as the remainder; the
least value of a signed format divided by -1 gives the least value and the remainder 0 (04 R86). -/
def Obligations.Division : Prop :=
  ∀ (w : StrandWord) (s s2 : State) (k : Caps) (id : Nat),
    let sg := (intFmt k.fmt).1
    let n := (intFmt k.fmt).2
    let a := (lo64 k.a).setWidth n
    let b := (lo64 k.b).setWidth n
    let corner := a = BitVec.intMin n ∧ b = BitVec.allOnes n
    (Issues Forms.div w s → Captures Forms.div asIs w s k s2 id →
      Computes (.div w) 0x004 w s (if b = 0 then extBits sg (BitVec.allOnes n)
        else if sg then (if corner then extBits sg (BitVec.intMin n) else BitVec.ofInt 64 (a.toInt.tdiv b.toInt))
        else BitVec.ofNat 64 (a.toNat / b.toNat))) ∧
    (Issues Forms.rem w s → Captures Forms.rem asIs w s k s2 id →
      Computes (.rem w) 0x005 w s (if b = 0 then extBits sg a
        else if sg then (if corner then 0 else BitVec.ofInt 64 (a.toInt.tmod b.toInt)) else BitVec.ofNat 64 (a.toNat % b.toNat)))

/-- `ext` and `dep` take pos = zx(B, 6) and n = min(zx(C, 7), 64 - pos) from the raw operands: `ext` gives bits [pos+n-1:pos] of A,
sign-extended but under `n64`, and 0 when n is 0; `dep` puts A's low n bits there in the old value of its register and leaves the other
bits (04 R87). -/
def Obligations.BitFields : Prop :=
  ∀ (w : StrandWord) (s s2 : State) (k : Caps) (id : Nat),
    let pos := fld (lo64 k.b) 0 6
    let n := min (fld (lo64 k.c) 0 7) (64 - pos)
    let a := lo64 k.a
    (Issues Forms.ext w s → Captures Forms.ext asIs w s k s2 id →
      Computes (.ext w) 0x019 w s
        (if n = 0 then 0 else if k.fmt = 15 then (a.extractLsb' pos n).setWidth 64 else (a.extractLsb' pos n).signExtend 64)) ∧
    (Issues Forms.dep w s → Captures Forms.dep asIs w s k s2 id → w.d ≠ 0 →
      ∃ v : Word, (∀ i, i < 64 → v.getLsbD i =
        if pos ≤ i ∧ i < pos + n then a.getLsbD (i - pos) else (s.me.sreg w.d.toNat).getLsbD i) ∧ Computes (.dep w) 0x01A w s v)

/-- What 32-bit integer lanes of the vector opcodes hold: lane by lane, as bit vectors (05 R118, R119).
A vector result of an E strand lands lane by lane: an active lane takes the result, an inactive one is zeroed or keeps its old
value as the word says, and no other register of the strand changes (05 R110). -/
def Obligations.VectorLands : Prop :=
  (∀ (w : StrandWord) (k : Caps) (L : Nat), L < 32 → k.sat = false → (k.fmt = 0 ∨ k.fmt = 12 ∨ k.fmt = 13) →
     lane (resultOf 0x07C w k).val L = lane k.a L + lane k.b L ∧ lane (resultOf 0x07D w k).val L = lane k.a L - lane k.b L ∧
     lane (resultOf 0x07E w k).val L = lane k.a L * lane k.b L ∧
     lane (resultOf 0x076 w k).val L = lane k.a L &&& lane k.b L ∧ lane (resultOf 0x077 w k).val L = lane k.a L ||| lane k.b L ∧
     lane (resultOf 0x078 w k).val L = lane k.a L ^^^ lane k.b L) ∧
  (∀ (t : Strand) (w : StrandWord) (r : Res) (L m : Nat), L < 32 → w.dk = .vec → w.d.toNat < 32 → r.three = false →
     lane ((t.landReg w r).vreg w.d.toNat) L =
       (if r.lanes.getLsbD L then lane r.val L else if r.zero then 0 else lane (t.vreg w.d.toNat) L) ∧
     (m ≠ w.d.toNat → (t.landReg w r).vreg m = t.vreg m) ∧ (t.landReg w r).regs = t.regs ∧ (t.landReg w r).preds = t.preds)

/-- A pop in cycle t frees its entry for pushes from cycle t + 1 and not for a push in cycle t, so a full queue lets its producer issue in
cycle t + 1 at the earliest; a value landing at the end of cycle t cannot be popped in cycle t, but in the next (04 R97). -/
def Obligations.QueueTiming : Prop :=
  ∀ (x y : Queue) (q t id : Nat) (v u : Vec) (e : QEnt) (rest : List QEnt),
    (x.pop t = some (v, y) → y.room q t = x.room q t ∧ y.room q (t + 1) = queueCap q - (x.ents.length - 1) ∧
      (x.ents.length = queueCap q → y.room q t = 0 ∧ y.room q (t + 1) = 1)) ∧
    (x.ents = e :: rest → e.id = id → e.val = none →
      x.pop t = none ∧ (x.land id u t).pop t = none ∧ ((x.land id u t).pop (t + 1)).map Prod.fst = some u)

/-! ### Control and strand synchronisation (04 R89 to R103) -/

/-- `nop` changes nothing but the PC (04 R90).
`sbset` and `sbclr` leave their bit to change at the end of the cycle, and `sbwait` passes when the bit has the value it names
(04 R94).
`seg` opens a segment of the cost X, `segend` closes it and takes its live set from the constant bank, on a strand for which no switch
is pending (04 R100 to R102).
`done` on a strand that has joined no team sends what the strand holds home and ends the strand's part of the iteration, and with the
sixth the iteration (04 R103, 01 R27; 07 R182). -/
def Obligations.ControlSync : Prop :=
  (∀ (w : StrandWord) (s : State), Issues Forms.nop w s → Performs (.nop w) s fun t => SameRegs s t ∧ SameMem s t ∧ SameCtxs s t ∧ Advances s t) ∧
  (∀ (w : StrandWord) (s : State),
     (Issues Forms.sb w s →
       Performs (.sbset w) s (fun t => t.myCore.sbSet = setFld s.myCore.sbSet w.c.idx.toNat 1 1 ∧ t.myCore.sbVal = s.myCore.sbVal ∧
         SameRegs s t ∧ SameMem s t ∧ SameCtxs s t ∧ Advances s t) ∧
       Performs (.sbclr w) s (fun t => t.myCore.sbClr = setFld s.myCore.sbClr w.c.idx.toNat 1 1 ∧ t.myCore.sbVal = s.myCore.sbVal ∧
         SameRegs s t ∧ SameMem s t ∧ SameCtxs s t ∧ Advances s t)) ∧
     (Issues Forms.sbwait w s → bit s.myCore.sbVal w.c.idx.toNat = bit w.x 0 →
       Performs (.sbwait w) s fun t => t.myCore.sbVal = s.myCore.sbVal ∧ SameRegs s t ∧ SameMem s t ∧ SameCtxs s t ∧ Advances s t)) ∧
  (∀ (w : StrandWord) (s : State), s.me.rpt.active = false → s.myCore.incoming = none →
     (Issues Forms.seg w s → segPlace 0x04D s = true → s.me.seg = none →
       Performs (.seg w) s fun t => t.me.seg = some { cost := w.x.toNat } ∧ SameRegs s t ∧ SameMem s t ∧ SameCtxs s t ∧ Advances s t) ∧
     (Issues Forms.segend w s → segPlace 0x04E s = true → s.me.seg.isSome = true → s.cur.strand < 6 →
       ¬ (2 ≤ s.cur.strand ∧ w.a.idx.toNat = 63) →
       let d := s.myCore.cb s.me w.a.idx.toNat
       let v := if 2 ≤ s.cur.strand then s.myCore.cb s.me (w.a.idx.toNat + 1) else 0
       fld d 48 16 = 0 → fld v 32 32 = 0 → (2 ≤ s.cur.strand ∨ fld d 40 8 = 0) →
       Performs (.segend w) s fun t => t.me.seg = none ∧ t.me.live.s = d.extractLsb' 0 32 ∧ t.me.live.p = d.extractLsb' 32 8 ∧
         t.me.live.m = d.extractLsb' 40 8 ∧ t.me.live.v = v.extractLsb' 0 32 ∧ SameRegs s t ∧ SameMem s t ∧ SameCtxs s t ∧ Advances s t)) ∧
  (∀ (w : StrandWord) (s : State), Issues Forms.done w s → s.cur.strand < 6 → s.cur.bundle = false → s.me.seg = none → s.me.rpt.active = false →
     (∀ n, n < 4 → (s.me.team n).valid = false) → foreignOut s = false →
     ((∃ n, n < 6 ∧ n ≠ s.cur.strand ∧ (s.myCore.strand n).run ≠ .done) →
       Performs (.done w) s fun t => t.me.run = .done ∧ t.myCore.iter = s.myCore.iter ∧ (s.cur.strand < 2 → t.me.held = [])) ∧
     ((∀ n, n < 6 → n ≠ s.cur.strand → (s.myCore.strand n).run = .done) → s.myCore.iter.isSome = true →
       Performs (.done w) s fun t => t.myCore.iter = none))

/-- `br` goes to PC + sx(X) x 8 under a true guard and to the next unit under a false one; `call` does so too and writes the address of the
next unit to s30; a target that is not aligned to the unit traps with `ALIGN` (04 R89, R90).
`jl` goes to PC + A x 8, `jmp` and `callr` to A, and `ret` to s30, each where the target is aligned to the unit; `callr` writes the
address of the next unit to s30 (04 R89, R90).
A link in flight lands in s30 and in no other scalar register; that it lands at the end of the issue cycle on an E strand is the model's
choice (log 3). -/
def Obligations.Branches : Prop :=
  (∀ (w : StrandWord) (s : State), Fresh s → passes (checkWord Forms.direct w s) = true → NoLoop s →
     let target := s.cur.pc + BitVec.ofInt 64 (w.x.toInt * 8)
     (guardHolds w s = true → target.toNat % unitBytes s = 0 →
       Performs (.br w) s (fun t => Goes s t target ∧ SameRegs s t ∧ SameMem s t ∧ SameCtxs s t) ∧
       Performs (.call w) s (fun t => Goes s t target ∧ SameMem s t ∧ SameCtxs s t ∧ Links 0x044 w s t)) ∧
     (guardHolds w s = false →
       Performs (.br w) s (fun t => SameRegs s t ∧ SameMem s t ∧ SameCtxs s t ∧ Advances s t) ∧
       Performs (.call w) s (fun t => SameRegs s t ∧ SameMem s t ∧ SameCtxs s t ∧ Advances s t)) ∧
     (guardHolds w s = true → target.toNat % unitBytes s ≠ 0 → s.cur.bundle = false →
       ∃ t u, exec (.br w) s = .next t ∧ t.verdict = .trapped cAlign 0 0 ∧ exec (.call w) s = .next u ∧ u.verdict = .trapped cAlign 0 0)) ∧
  (∀ (w : StrandWord) (s s1 : State) (k : Caps), NoLoop s →
     (Issues Forms.indirect w s → capture Forms.indirect asIs w s = .ok (k, s1) →
       ((s.cur.pc + lo64 k.a * 8).toNat % unitBytes s = 0 →
         Performs (.jl w) s fun t => Goes s t (s.cur.pc + lo64 k.a * 8) ∧ SameRegs s t ∧ SameMem s t ∧ SameCtxs s t) ∧
       ((lo64 k.a).toNat % unitBytes s = 0 →
         Performs (.jmp w) s (fun t => Goes s t (lo64 k.a) ∧ SameRegs s t ∧ SameMem s t ∧ SameCtxs s t) ∧
         Performs (.callr w) s (fun t => Goes s t (lo64 k.a) ∧ SameMem s t ∧ SameCtxs s t ∧ Links 0x045 w s t))) ∧
     (Issues Forms.ret w s → (s.me.sreg 30).toNat % unitBytes s = 0 →
       Performs (.ret w) s fun t => Goes s t (s.me.sreg 30) ∧ SameRegs s t ∧ SameMem s t ∧ SameCtxs s t)) ∧
  (∀ (c : Core) (f : Flight), f.op = 0x044 ∨ f.op = 0x045 →
     ((c.landFlight f).strand f.strand).sreg 30 = lo64 f.caps.a ∧
     ∀ n m, n ≠ f.strand ∨ m ≠ 30 → ((c.landFlight f).strand n).sreg m = (c.strand n).sreg m)

/-- `rpt` with a count opens a loop of X[8:0] + 1 units that runs count times; with a count of zero it skips the body (04 R90, R92).
`fork` in all four words of a bundle sends each E strand to its own target, and the fourth leaves lock-step state; `rejoin` waits until
all four have arrived at the sync bit with one target, and then lock-step state is back with every E strand there (04 R93, R95). -/
def Obligations.RepeatAndFork : Prop :=
  (∀ (w : StrandWord) (s s1 : State) (k : Caps), Issues Forms.rpt w s → Plain s → capture Forms.rpt asIs w s = .ok (k, s1) →
     let n := fld w.x 0 9 + 1
     let count := fld (lo64 k.a) 0 32
     Performs (.rpt w) s fun t => SameRegs s t ∧ SameMem s t ∧ SameCtxs s t ∧
       (count ≠ 0 → t.me.rpt = { active := true, n, pos := 0, left := count } ∧ t.me.pc = s.cur.npc) ∧
       (count = 0 → t.me.pc = s.cur.pc + BitVec.ofNat 64 (unitBytes s * (n + 1)))) ∧
  (∀ (w : StrandWord) (s : State), s.me.rpt.active = false →
     let target := s.cur.pc + BitVec.ofInt 64 (w.x.toInt * 8)
     (Issues Forms.fork w s → s.cur.bundle = true → s.cur.ops = [0x048, 0x048, 0x048, 0x048] →
       Performs (.fork w) s fun t => t.me.pc = target ∧ t.me.ready = s.cyc + 3 ∧ t.me.run = .running ∧
         (s.cur.strand = 5 → t.myCore.lock = false) ∧ SameRegs s t ∧ SameMem s t ∧ SameCtxs s t) ∧
     (Issues Forms.rejoin w s → s.cur.bundle = false → s.myCore.lock = false → target.toNat % 32 = 0 →
       let n := w.c.idx.toNat
       let arr := (Tab.get 0#4 s.myCore.sbArr n).toNat ||| 2 ^ (s.cur.strand - 2)
       (arr ≠ 15 → Performs (.rejoin w) s fun t => t.me.run = .blocked 4 n ∧ t.me.pc = s.me.pc ∧
         Tab.get 0#4 t.myCore.sbArr n = BitVec.ofNat 4 arr ∧ t.myCore.lock = false ∧ SameRegs s t ∧ SameMem s t) ∧
       (arr = 15 → (∀ i, 2 ≤ i → i ≤ 5 → i ≠ s.cur.strand → Tab.get 0 s.myCore.sbTgt i = target) →
         Performs (.rejoin w) s fun t => t.myCore.lock = true ∧ Tab.get 0#4 t.myCore.sbArr n = 0 ∧
           (∀ i, 2 ≤ i → i ≤ 5 → (t.myCore.strand i).pc = target ∧ (t.myCore.strand i).run = .running) ∧ SameRegs s t ∧ SameMem s t)))

/-! ### Memory (06, 07) -/

/-- `ld` lands the bytes it loads, extended as `WD` says, and `ldacq` those of the home, leaving its core's L1 empty; an 8-byte load of
a ring's control block by H or A lands that word (06 R155, R159; 07 R177; 08 R197).
What a load returns: for each byte the strand's latest held write to it, else the byte of memory, where the strand's L1 does not hold
the line; and what it leaves in memory: only the entry it was translated by can differ (06 R141, R158, R164; 07 R188).
That a line stays in an L1 until a rule takes it out is the model's choice (log 8). -/
def Obligations.LoadLands : Prop :=
  (∀ (w : StrandWord) (s s1 s3 : State) (k : Caps) (bs : List Byte) (v : Word),
     let va := addrAB k
     let n := (wdFmt k.x).2
     (Starts Forms.ld w s k s1 → (inRingAperture va && decide (s.cur.strand < 2)) = false →
       load va n (multiple n va) (bit k.x 3) false s1 = .ok (bs, s3) → Takes w s1 →
       Performs (.ld w) s fun t =>
         Lands 0x0E0 (loadLat va) w (extLoaded (wdFmt k.x).1 n bs) s s1 t ∧ (destQueue w = none → t.mem = s3.mem)) ∧
     (Starts Forms.ldacq w s k s1 → inRingAperture va = false →
       load va n (multiple n va) (bit k.x 3) true s1 = .ok (bs, s3) → Takes w s1 →
       Performs (.ldacq w) s fun t =>
         LandsNow w (extLoaded (wdFmt k.x).1 n bs) s s1 t ∧ SameCtxs s t ∧ Advances s t ∧ t.myCore.l1 = [] ∧
         (∀ h ∈ t.me.held, h.closed = true) ∧ (destQueue w = none → t.mem = s3.mem)) ∧
     (Starts Forms.ld w s k s1 → inRingAperture va = true → s.cur.strand < 2 → n = 8 → bit k.x 3 = false →
       ringLoad s.cur.die s.mySlot va s1 = .ok v → Takes w s1 →
       Performs (.ld w) s fun t => Lands 0x0E0 1 w v s s1 t ∧ (destQueue w = none → SameMem s t)) ∧
     (Starts Forms.ldacq w s k s1 → inRingAperture va = true → n = 8 →
       ringLoad s.cur.die s.mySlot va s1 = .ok v → Takes w s1 →
       Performs (.ldacq w) s fun t => LandsNow w v s s1 t ∧ t.myCore.l1 = [] ∧ (destQueue w = none → SameMem s t))) ∧
  (∀ (va : Word) (n : Nat) (aligned na home : Bool) (s s3 : State) (bs : List Byte), Memory.wf s.mem = true →
     load va n aligned na home s = .ok (bs, s3) →
     ∃ f, locateIf s s.agent va n aligned .rd na = .ok f ∧ (∀ j, ¬ InLeaf f j → memGet s3.mem j = memGet s.mem j) ∧
       (f.place.aper ≠ 16 ∨ f.place.scope = 0 ∨ home = true ∨ l1Get s.myCore (f.place.key / lineSize) = none →
         bs.length = n ∧ ∀ i, i < n →
           (Untouched s.me.held (f.place.key + i) → bs.getD i 0 = memGet s3.mem (f.place.key + i)) ∧
           (∀ hs h b, s.me.held = hs ++ [h] → h.key ≤ f.place.key + i → h.bytes.getD (f.place.key + i - h.key) none = some b →
             bs.getD i 0 = b)))

/-- `ldv`, `ldvs`, `ldl` and `gath` land a vector of the elements they load, zero in the lanes that load nothing; with no lane active they
land zeros after the check of their base address (06 R155, R160 to R162, R441). That `ldvs` has the latency of core scratch when any
active lane's address is not in a lane slice is the model's choice (log 3).
The vector of elements loaded from apertures holds, in each lane named, the element at the lane's address, and zero in the others; the
load changes no byte of memory (06 R133, R160 to R162). -/
def Obligations.VectorLoads : Prop :=
  (∀ (w : StrandWord) (s s1 s3 : State) (k : Caps) (v : Vec),
     let m := maskV k.x s1.me
     let na := bit k.x 3
     let lands := fun (op lat : Nat) (t : State) =>
       LandsVec op lat w { a := v, mask := m, x := k.x } s s1 t ∧ (destQueue w = none → t.mem = s3.mem)
     let loads := fun (va : Nat → Word) (base : Word) (aligned : Word → Bool) =>
       (m ≠ 0 → loadLanes (activeLanes m) va 4 aligned lane4 na s1 = .ok (v, s3)) ∧ (m = 0 → v = 0 ∧ touch .rd na base s1 = .ok s3)
     Takes w s1 →
     (Starts Forms.ldv w s k s1 → loads (contiguous (addrAB k)) (addrAB k) (fun _ => multiple 128 (addrAB k)) →
       Performs (.ldv w) s (lands 0x0E2 (loadLat (addrAB k)))) ∧
     (Starts Forms.ldv w s k s1 → loads (strided k) (lo64 k.a) (multiple 4) →
       Performs (.ldvs w) s (lands 0x0E4 (if m = 0 then loadLat (lo64 k.a) else lanesLat ((activeLanes m).map (strided k))))) ∧
     (Starts Forms.ldl w s k s1 → sliceOk s1 k = .ok () →
       loads (sliceVa s1 k) (sliceVa s1 k 0) (multiple 4) → Performs (.ldl w) s (lands 0x0E8 3)) ∧
     (Starts Forms.gath w s k s1 →
       let n := (gwFmt k.x).2
       let lanes := indexedLanes k.b
       (lanes ≠ [] → loadLanes lanes (indexed k n) n (multiple n)
         (fun bs => BitVec.ofInt 32 (wrapInt (gwFmt k.x).1 (8 * n) (ofBytes bs))) na s1 = .ok (v, s3)) →
       (lanes = [] → v = 0 ∧ touch .rd na (lo64 k.a) s1 = .ok s3) →
       Performs (.gath w) s fun t => LandsVec 0x0E6 1 w { a := v } s s1 t ∧ (destQueue w = none → t.mem = s3.mem))) ∧
  (∀ (lanes : List Nat) (va : Nat → Word) (n : Nat) (aligned : Word → Bool) (ext : List Byte → Lane) (na : Bool) (s s3 : State) (v : Vec),
     loadLanes lanes va n aligned ext na s = .ok (v, s3) → (∀ L ∈ lanes, inAperture (va L) = true) → s.me.held = [] →
     SameMem s s3 ∧ ∀ L, L < 32 →
       (L ∈ lanes → ∃ p, aperturePlace s s.agent (fld (va L) 48 4) (fld (va L) 0 48) n = some p ∧ lane v L = ext (s.bytes p.key n)) ∧
       (L ∉ lanes → lane v L = 0))

/-- `st` and `strel` store the low bytes of C at A + B. A store to a lane slice or to core scratch lands at the end of the cycle; any
other is held, the strand sees it at once, and memory changes only by writes that leave its combining buffer; `strel` first sends
every write its strand holds, and so does a store of H or A to core scratch. A store to a ring's control block by H or A acts on the ring (06 R155, R158, R159; 07 R177, R186 to R188; 08 R197).
Stores that all go to lane slices and core scratch are noted, in order, to land at the end of the cycle, and change no byte of memory;
a write noted so reaches memory then (06 R158, R163).
How long a held write stays, and when writes merge, is the model's choice (log 8). -/
def Obligations.Stores : Prop :=
  (∀ (w : StrandWord) (s s1 s2 : State) (k : Caps) (f : Found), Memory.wf s.mem = true →
     let va := addrAB k
     let n := (wdFmt k.x).2
     let bytes := toBytes n (lo64 k.c).toNat
     let en := List.replicate n true
     let may := fun (u : State) =>
       inRingAperture va = false ∧ locateIf u u.agent va n (multiple n va) .wr (bit k.x 3) = .ok f ∧ watchHit u.myCtx va en = none ∧
         partialBad u f.place.key (bytes.map some) = false
     (Starts Forms.st w s k s1 → may s1 → Unhindered s →
       Performs (.st w) s fun t => SameRegs s t ∧ SameCtxs s t ∧ Advances s t ∧
         (f.place.aper ≤ 1 → (s.cur.strand < 2 → t.me.held = []) ∧ (2 ≤ s.cur.strand → SameMem s t ∧ t.me.held = s1.me.held) ∧
           t.myCore.late = s1.myCore.late ++ [{ strand := s.cur.strand, key := f.place.key, bytes := bytes.map some }]) ∧
         (2 ≤ f.place.aper → seen t f.place.key n = bytes ∧ t.myCore.late = s1.myCore.late) ∧
         ∀ j, Untouched s1.me.held j → ¬ InLeaf f j → memGet t.mem j = memGet s.mem j) ∧
     (Starts Forms.strel w s k s1 → may (release s1) → foreignOut (release s1) = false →
       Performs (.strel w) s fun t => SameRegs s t ∧ SameCtxs s t ∧ Advances s t ∧
         (f.place.aper ≤ 1 → t.me.held = []) ∧
         (2 ≤ f.place.aper → (∃ h, t.me.held = [h]) ∧ seen t f.place.key n = bytes) ∧
         ∀ j, ¬ InLeaf f j → memGet t.mem j = memGet (release s1).mem j) ∧
     (Starts Forms.st w s k s1 → inRingAperture va = true → s.cur.strand < 2 → n = 8 → bit k.x 3 = false →
       postsOut s s.cur.die s.cur.core s.cur.strand = false → ringStore s.cur.die s.mySlot s.sup va (lo64 k.c) (drainMine s1) = .ok s2 →
       Performs (.st w) s fun t => SameRegs s t ∧ SameCtxs s t ∧ Advances s t ∧ t.me.held = [] ∧
         (∀ j, Untouched s1.me.held j → memGet t.mem j = memGet s.mem j) ∧ ∀ d n, t.ring d n = s2.ring d n) ∧
     (Starts Forms.strel w s k s1 → inRingAperture va = true → n = 8 → foreignOut (release s1) = false →
       ringStore s.cur.die s.mySlot s.sup va (lo64 k.c) (drainMine (release s1)) = .ok s2 →
       Performs (.strel w) s fun t => SameRegs s t ∧ SameCtxs s t ∧ Advances s t ∧ t.me.held = [] ∧ ∀ d n, t.ring d n = s2.ring d n)) ∧
  ((∀ (rel : Bool) (aligned : Word → Bool) (na : Bool) (ws : List Put) (s s2 : State),
     store rel aligned na ws s = .ok s2 → s.myCtx.brkRegs = [] → s.me.held = [] →
     (∀ w ∈ ws, ∃ f, locateIf s s.agent w.1 w.2.length (aligned w.1) .wr na = .ok f ∧ f.leaf = none ∧ f.place.aper ≤ 1) →
     SameMem s s2 ∧ s2.me.held = s.me.held ∧
       s2.myCore.late.map (fun l => (l.strand, l.bytes)) =
         s.myCore.late.map (fun l => (l.strand, l.bytes)) ++ ws.map fun w => (s.cur.strand, w.2)) ∧
   (∀ (die core : Nat) (s : State) (l : LateStore) (i : Nat) (b : Byte), Memory.wf s.mem = true → (s.core die core).late = [l] →
     (s.core die core).lateAtoms = [] → l.strand < 6 → 2 ^ 51 ≤ l.key → i < l.bytes.length → l.bytes.getD i none = some b →
     memGet (applyLate die core (s.die die).cyc s).mem (l.key + i) = b))

/-- `stv`, `stvs`, `stl`, `scat` and `tst` perform their lanes' stores, all checked before any is performed; with no lane active they
change nothing but the accessed bit of the entry their base was translated by (06 R160 to R163, R165, R169). Stores that come behind the
strand's posted writes on their way in the package wait (07 R181). -/
def Obligations.VectorStores : Prop :=
  ∀ (w : StrandWord) (s s1 s2 : State) (k : Caps),
    let m := maskV k.x s1.me
    let na := bit k.x 3
    let after := fun (t : State) => SameRegs s t ∧ Advances s t ∧ t.mem = s2.mem ∧ t.me.held = s2.me.held ∧ t.myCore.late = s2.myCore.late
    let stores := fun (va : Nat → Word) (base : Word) (aligned : Word → Bool) =>
      (m ≠ 0 → store false aligned na ((activeLanes m).map fun L => (va L, (toBytes 4 (lane k.c L).toNat).map some)) s1 = .ok s2) ∧
      (m = 0 → touch .wr na base s1 = .ok s2)
    mustWait s s2 = false →
    (Starts Forms.stv w s k s1 →
      (stores (contiguous (addrAB k)) (addrAB k) (fun _ => multiple 128 (addrAB k)) → Performs (.stv w) s after) ∧
      (stores (strided k) (lo64 k.a) (multiple 4) → Performs (.stvs w) s after)) ∧
    (Starts Forms.stl w s k s1 → sliceOk s1 k = .ok () →
      stores (sliceVa s1 k) (sliceVa s1 k 0) (multiple 4) → Performs (.stl w) s after) ∧
    (Starts Forms.scat w s k s1 →
      let n := (gwFmt k.x).2
      (indexedLanes k.b ≠ [] → store false (multiple n) na
        ((indexedLanes k.b).map fun L => (indexed k n L, (toBytes n (lane k.c L).toNat).map some)) s1 = .ok s2) →
      (indexedLanes k.b = [] → touch .wr na (lo64 k.a) s1 = .ok s2) → Performs (.scat w) s after) ∧
    (∀ n e va, Starts Forms.tst w s k s1 → nameTile (lo64 k.a) s1 = .ok n → readyTile n s1 = .ok e → tilePiece n e (lo64 k.b) = .ok va →
      store false (fun _ => true) false [(va, (toBytes 128 k.c.toNat).map some)] s1 = .ok s2 → Performs (.tst w) s after)

/-- `pref`, `wbl`, `invl`, `zfill` and `ldcb`: a prefetch fills a line of L1 and changes no byte of memory; `wbl` sends the held writes up to
the last that touches its line, `invl` drops the line from its core's L1, and neither does anything on an aperture; `zfill` makes the
strand see zeros; `ldcb` replaces its bank at the end of the cycle (06 R164, R167, R168). -/
def Obligations.LinesAndFills : Prop :=
  ∀ (w : StrandWord) (s s1 s2 s3 : State) (k : Caps) (p : Place) (bs : List Byte), Memory.wf s.mem = true →
    (Starts Forms.pref w s k s1 → Performs (.pref w) s fun t => SameRegs s t ∧ SameMem s t ∧ SameCtxs s t ∧ Advances s t ∧
      (∀ l, locateIf s1 s1.agent (addrAB k) 1 true .rd false = .ok { place := p, leaf := some l } → w.c.idx = 0 → p.scope ≠ 0 →
        (s1.badIn (p.key / lineSize * lineSize) lineSize).isNone = true →
        l1Get t.myCore (p.key / lineSize) = some (s1.bytes (p.key / lineSize * lineSize) lineSize)) ∧
      (∀ l, locateIf s1 s1.agent (addrAB k) 1 true .rd false = .ok { place := p, leaf := some l } → w.c.idx = 0 → p.scope = 0 →
        (s1.badIn (p.key / lineSize * lineSize) lineSize).isNone = true → t.myCore.l1c.contains (p.key / lineSize) = true)) ∧
    (Starts Forms.two w s k s1 → locateLine (addrAB k) s1 = .ok (some (p, s2)) →
      (flyingTo (p.key / lineSize * lineSize) lineSize s2 = false →
        s.me.held = [] ∨ postsOut s s.cur.die s.cur.core s.cur.strand = false →
        Performs (.wbl w) s (fun t => SameRegs s t ∧ SameCtxs s t ∧ Advances s t ∧ t.me.held <:+ s1.me.held ∧
          (∀ h ∈ t.me.held, h.key / lineSize ≠ p.key / lineSize) ∧
          ∀ j, Untouched s1.me.held j → memGet t.mem j = memGet s2.mem j)) ∧
      Performs (.invl w) s (fun t => SameRegs s t ∧ SameCtxs s t ∧ Advances s t ∧ t.mem = s2.mem ∧
        t.myCore.l1 = s1.myCore.l1.filter (fun x => x.1 ≠ p.key / lineSize) ∧
        t.myCore.l1c = s1.myCore.l1c.filter fun x => x ≠ p.key / lineSize)) ∧
    (Starts Forms.two w s k s1 → locateLine (addrAB k) s1 = .ok none →
      Performs (.wbl w) s (fun t => SameRegs s t ∧ SameMem s t ∧ SameCtxs s t ∧ Advances s t) ∧
      Performs (.invl w) s (fun t => SameRegs s t ∧ SameMem s t ∧ SameCtxs s t ∧ Advances s t)) ∧
    (∀ f, Starts Forms.two w s k s1 → zx k.b 24 = 128 → (lo64 k.a).toNat % 128 = 0 →
      locateIf s1 s1.agent (lo64 k.a) 128 true .wr false = .ok f → 2 ≤ f.place.aper → f.place.aper ≠ 16 →
      s1.bad = [] → watchHit s1.myCtx (lo64 k.a) (List.replicate 128 true) = none → Unhindered s →
      Performs (.zfill w) s fun t => SameRegs s t ∧ SameCtxs s t ∧ Advances s t ∧ seen t f.place.key 128 = List.replicate 128 0) ∧
    (Starts Forms.ldcb w s k s1 → (addrAB k).toNat % 512 = 0 → loadRange (addrAB k) 128 4 s1 = .ok (bs, s3) →
      Performs (.ldcb w) s fun t => SameRegs s t ∧ SameCtxs s t ∧ Advances s t ∧ t.mem = s3.mem ∧
        t.myCore.lateBanks = s.myCore.lateBanks ++
          [(w.c.idx.toNat, (List.range 64).map fun i => BitVec.ofNat 64 (ofBytes ((bs.drop (8 * i)).take 8)))])

/-- `tld` lands 128 bytes of a ready tile; `tset.def` gives an unowned tile its descriptor and its owner; `tset.open` makes an empty owned
tile ready; `tset.rel` makes a ready one drain, and one with no reader empty and unowned; `tqry` lands the entry (06 R151 to R154,
R165, R166).
That the fields of a freed entry read 0, and that the table serves one change of an entry a cycle, are the model's choices (logs 7 and 15). -/
def Obligations.Tiles : Prop :=
  ∀ (w : StrandWord) (s s1 s3 : State) (k : Caps) (n : Nat) (bs : List Byte), nameTile (lo64 k.a) s1 = .ok n →
    let d := s.cur.die
    let e := (s.die d).tile n
    let quiet := fun (t : State) => SameRegs s t ∧ SameCtxs s t ∧ Advances s t ∧ ∀ m, m ≠ n → (t.die d).tile m = (s.die d).tile m
    let free := Tab.get 0 (s.die d).served (thingTile n) = 0
    (∀ va, Starts Forms.tld w s k s1 → tileSt e = 2 → tilePiece n e (lo64 k.b) = .ok va →
      load va 128 true false false s1 = .ok (bs, s3) → Takes w s1 →
      Performs (.tld w) s fun t => LandsVec 0x0ED 1 w { a := BitVec.ofNat 1024 (ofBytes bs) } s s1 t) ∧
    (let v := lo64 k.b
     Starts Forms.tsetDef w s k s1 → (s.die d).owned n = false → fld v 58 6 = 0 → tileRdr v = 0 → fmtAssigned (fld v 50 8) = true →
      fld v 38 12 ≠ 0 → fld v 26 12 ≠ 0 → tileFits s1 s1.agent n v = true → free →
      Performs (.tsetDef w) s fun t => quiet t ∧ SameMem s t ∧ (t.die d).owned n = true ∧ (t.die d).tile n = setFld v 58 4 s.mySlot) ∧
    (Starts (Forms.tsetMode 1) w s k s1 → (s.die d).owned n = true → tileSt e = 0 → free →
      Performs (.tsetOpen w) s fun t => quiet t ∧ SameMem s t ∧ (t.die d).tile n = setFld e 62 2 2 ∧ (t.die d).owned n = true) ∧
    (Starts (Forms.tsetMode 2) w s k s1 → tileSt e = 2 → foreignOut (release s1) = false → free →
      Performs (.tsetRel w) s fun t => quiet t ∧ t.me.held = [] ∧
        (tileRdr e ≠ 0 → (t.die d).tile n = setFld e 62 2 3) ∧
        (tileRdr e = 0 → (t.die d).tile n = 0 ∧ (t.die d).owned n = false)) ∧
    (Starts Forms.tqry w s k s1 → Takes w s1 → Performs (.tqry w) s fun t => Lands 0x0F0 1 w e s s1 t)

/-- Each atomic away from core scratch lands the old value, and a claim what it gives, where its word has a destination (07 R172, R173,
R176).
An atomic of a strand that holds no write reads its bytes and writes what it computes from them, in one instant, and nothing else but
the entry it was translated by; one that writes nothing leaves memory as it was; a translated line is then in no L1 of the package
(07 R173, R175).
One on core scratch sends what the strand holds home and is noted; at its place in the end of the cycle it writes what it computes from
the bytes it finds there, and lands the old value or what a claim gives (06 R158; 07 R175). -/
def Obligations.Atomics : Prop :=
  (∀ (w : StrandWord) (s s1 s2 : State) (k : Caps) (f : Found) (old : Nat), Takes w s1 → foreignOut s = false →
     let wd := fld k.x 4 4
     let va := lo64 k.a
     let ord := fld k.x 2 2
     let completes := fun (i : Instr) (op n opc wd : Nat) (c : Word) =>
       (inScratch va = false → atomic va n ord (accNew op wd n (lo64 k.b) c) s1 = .ok (old, s2) →
         Performs i s fun t => LandsNow w (atomLands op wd (lo64 k.b) old) s s1 t ∧ SameCtxs s t ∧ Advances s t ∧
           (destQueue w = none → t.mem = s2.mem)) ∧
       (inScratch va = true → locateAtom s1 s1.agent va n = .ok f → watchHit s1.myCtx va (List.replicate n true) = none →
         s1.badIn f.place.key n = none →
         Performs i s fun t => SameRegs s t ∧ SameCtxs s t ∧ Advances s t ∧ t.me.held = [] ∧
           (∀ j, Untouched s1.me.held j → memGet t.mem j = memGet s.mem j) ∧
           t.myCore.lateAtoms = s.myCore.lateAtoms ++
             [{ strand := s.cur.strand, key := f.place.key, op, n, wd, b := lo64 k.b, c, opc, w, rid := entryOf w s1 }])
     (∀ row ∈ atomRows, let fp := atomIsFp row.2.2
       StartsAs (fun _ => atomLit (fld ((Forms.atom2 fp).effX w) 4 4)) (Forms.atom2 fp) w s k s1 →
       completes (row.1 w) (accAtom row.2.2) (atomBytes fp wd) row.2.1 wd 0) ∧
     (Starts Forms.acas w s k s1 → completes (.acas w) accCas (atomBytes false wd) 0x117 wd (lo64 k.c)) ∧
     (Starts Forms.aclm w s k s1 → completes (.aclm w) (accAtom 9) 8 0x11D 0 0)) ∧
  (∀ (va : Word) (n ord old : Nat) (new : Nat → Option Nat) (s s2 : State), Memory.wf s.mem = true → NoQueues s →
     s.me.held = [] → s.myCtx.brkRegs = [] → (∀ b v, new b = some v → v < 256 ^ n) → atomic va n ord new s = .ok (old, s2) →
     ∃ f, locateAtom s s.agent va n = .ok f ∧ old = s.num f.place.key n ∧
       (∀ v, new old = some v → s2.num f.place.key n = v) ∧
       (∀ j, (j < f.place.key ∨ f.place.key + n ≤ j ∨ new old = none) → ¬ InLeaf f j → memGet s2.mem j = memGet s.mem j) ∧
       (f.place.aper = 16 → ∀ d c, l1Get (s2.core d c) (f.place.key / lineSize) = none) ∧
       (ord = 1 ∨ ord = 3 → s2.myCore.l1 = [])) ∧
  (∀ (die core t : Nat) (s : State) (x : LateAtom), Memory.wf s.mem = true → NoQueues s → x.strand < 6 → 144 < x.opc → x.opc < 192 ∨ 198 < x.opc →
     let old := s.num x.key x.n
     let u := lateAtom die core t s x
     (∀ v, accNew x.op x.wd x.n x.b x.c old = some v → v < 256 ^ x.n →
       u.num x.key x.n = v ∧ SameMemBut x.key x.n s u) ∧
     (accNew x.op x.wd x.n x.b x.c old = none → SameMem s u) ∧
     (x.w.dk = .scal → x.w.d ≠ 0 → x.w.d.toNat < 32 →
       (u.strand die core x.strand).sreg x.w.d.toNat = atomLands x.op x.wd x.b old))

/-- What the atomics write, as bit vectors of the width and signedness `WD` names, and what a claim of n slots does (07 R172, R176). -/
def Obligations.AtomicValues : Prop :=
  (∀ wd old b : Nat,
    let n := (intFmt wd).2
    let sg := (intFmt wd).1
    let x := BitVec.ofNat n old
    let y := BitVec.ofNat n b
    old < 2 ^ n →
    atomNew 0 wd old b = (x + y).toNat ∧ atomNew 3 wd old b = (x &&& y).toNat ∧ atomNew 4 wd old b = (x ||| y).toNat ∧
      atomNew 5 wd old b = (x ^^^ y).toNat ∧ atomNew 6 wd old b = y.toNat ∧
      atomNew 1 wd old b = (if (if sg then x.sle y else x.ule y) then x else y).toNat ∧
      atomNew 2 wd old b = (if (if sg then x.sle y else x.ule y) then y else x).toNat) ∧
  (∀ lim wix n : Nat, lim < 2 ^ 32 → wix < 2 ^ 32 → n < 2 ^ 32 →
    let free := (BitVec.ofNat 32 lim - BitVec.ofNat 32 wix).toNat
    claim (lim * 2 ^ 32 + wix) n =
      if n ≤ free then (some (lim * 2 ^ 32 + (BitVec.ofNat 32 wix + BitVec.ofNat 32 n).toNat), BitVec.ofNat 64 wix)
      else (none, BitVec.ofNat 64 (2 ^ 63 + free)))

/-- `fence.acq`, `fence.rel`, `fence.ar` and `fence.sc`: unless posted writes of the strand are on their way in the package the writes it
held are at their homes; an acquire empties its core's L1; after `fence.rel`, `.ar` and `.sc` every write of the strand is a release; and
after `fence.sc` no L1 of the package holds a line the strand has written since the last (07 R178, R182, R185 to R187). -/
def Obligations.Fences : Prop :=
  ∀ (w : StrandWord) (s : State),
    let begins := fun kind => Issues (Forms.fence kind) w s ∧ TokensReady (fld w.x 8 8) s
    let fenced := fun (t : State) => SameRegs s t ∧ SameCtxs s t ∧ Advances s t ∧
      (postsOut s s.cur.die s.cur.core s.cur.strand = false → t.me.held = [] ∧ t.mem = (release s).mem)
    (begins 0 → Performs (.fenceAcq w) s fun t => fenced t ∧ t.myCore.l1 = [] ∧ t.me.relAll = s.me.relAll) ∧
    (begins 1 → Performs (.fenceRel w) s fun t => fenced t ∧ (fld w.x 8 8 = 0 → s.me.held = [] → t.myCore.l1 = s.myCore.l1) ∧ t.me.relAll = true) ∧
    (begins 2 → Performs (.fenceAr w) s fun t => fenced t ∧ t.myCore.l1 = [] ∧ t.me.relAll = true) ∧
    (begins 3 → foreignOut s = false →
      Performs (.fenceSc w) s fun t => fenced t ∧ t.myCore.l1 = [] ∧ t.me.relAll = true ∧ t.me.scLines = [] ∧
        ∀ line ∈ s.me.scLines, ∀ d c, l1Get (t.core d c) line = none)

/-! ### Engines and copies (08, 09) -/

/-- `enq` and `enqn` put their words at the tail of a command ring with room and land the index of the first; with `nb` a full ring gives
2^63 plus the free words, and without it they wait, `enqn` with the words it has loaded; `deq` takes a report, or the four words of a fault record, from the head of a result ring; `engst` lands the
status of a command index (08 R205 to R208). -/
def Obligations.EngineQueues : Prop :=
  ∀ (w : StrandWord) (s s1 s2 : State) (k : Caps) (n : Nat) (bs : List Byte),
    let d := s.cur.die
    let r := s.ring d n
    let lands := fun (v : Word) (t : State) => LandsNow w v s s1 t ∧ SameCtxs s t ∧ Advances s t
    let pushed := fun (ws : List Word) (u : State) (t : State) =>
      lands (BitVec.ofNat 64 (r.tail % 2 ^ 32)) t ∧ (t.ring d n).tail = r.tail + ws.length ∧ (t.ring d n).head = r.head ∧
        (destQueue w = none → t.mem = (ringPush d n ws (release u)).mem) ∧ ∀ e m, (e, m) ≠ (d, n) → t.ring e m = s.ring e m
    (Starts Forms.enq w s k s1 → nameRing true (lo64 k.a) s1 = .ok n →
      (1 ≤ r.free → Takes w s1 → foreignOut s = false → Performs (.enq w) s (pushed [lo64 k.b] s1)) ∧
      (r.free = 0 → bit k.x 0 = true → Takes w s1 → Performs (.enq w) s (lands (BitVec.ofNat 64 (2 ^ 63)))) ∧
      (r.free = 0 → bit k.x 0 = false → WaitsOn (.enq w) s 10 0 fun t => SameRegs s t ∧ SameMem s t)) ∧
    (Starts Forms.enqn w s k s1 → nameRing true (lo64 k.a) s1 = .ok n → loadOnce (loadRange (lo64 k.b) 8 w.c.idx.toNat) s1 = .ok (bs, s2) →
      let ws := wordsOfBytes bs
      (ws.length ≤ r.free → Takes w s1 → foreignOut s = false → Performs (.enqn w) s (pushed ws s2)) ∧
      (r.free < ws.length → bit k.x 0 = true → Takes w s1 → Performs (.enqn w) s (lands (BitVec.ofNat 64 (2 ^ 63 + r.free)))) ∧
      (r.free < ws.length → bit k.x 0 = false → WaitsOn (.enqn w) s 10 0 fun t => SameRegs s t ∧ t.mem = s2.mem ∧ t.me.kept = some bs)) ∧
    (Starts Forms.deq w s k s1 → nameRing false (lo64 k.a) s1 = .ok n →
      let word := fun i => s.word (ringKey d r (r.head + i))
      let takes := fun (len : Nat) (t : State) =>
        (t.ring d n).head = r.head + len ∧ (t.ring d n).ret = r.head + len ∧ (t.ring d n).tail = r.tail ∧ t.myCore.l1 = []
      (n < 24 → 1 ≤ r.tail - r.head → ringBad d r r.head 1 s = none →
        Takes w s1 →
        Performs (.deq w) s fun t => lands (word 0) t ∧ takes 1 t ∧ (destQueue w = none → SameMem s t)) ∧
      (24 ≤ n → 4 ≤ r.tail - r.head → ringBad d r r.head 4 s = none → foreignOut s = false → ∀ q, destQueue w = some q → s1.myCore.consumer q ≠ 6 →
        4 ≤ (s1.myCore.queue q).room q s.cyc → (∀ e ∈ (s1.myCore.queue q).ents, e.id < (s1.myCore.queue q).nextId) →
        Performs (.deq w) s fun t => SameRegs s t ∧ takes 4 t ∧
          (t.myCore.queue q).ents.map QEnt.val =
            (s1.myCore.queue q).ents.map QEnt.val ++ [0, 1, 2, 3].map fun i => some (ofWord (word i)))) ∧
    (Starts Forms.engst w s k s1 → nameRing true (lo64 k.a) s1 = .ok n →
      let v := r.status (fld (lo64 k.b) 0 32)
      let acq := bit v 63 && !bit v 62
      Takes w s1 →
      Performs (.engst w) s fun t => lands v t ∧ (acq = true → t.myCore.l1 = []) ∧ ∀ e m, t.ring e m = s.ring e m)

/-- `flw` of 0 lands a flag's value with its saturation bit; of n takes n from a flag that has them and lands the value before; `fls`
increments a flag of the context from the next cycle on, after a release; `flr` lands a flag, and `flr.z` also zeroes it; `gset` and
`gset.clr` change a guard at the end of the cycle, and `gqry` lands one (08 R202 to R204, R209, R210). A consumer of the flag that comes
after one of a later place in the cycle's order waits for the next cycle: the model's choice (log 7). -/
def Obligations.FlagsAndGuards : Prop :=
  ∀ (w : StrandWord) (s s1 : State) (k : Caps),
    let x := s.myCtx
    let f := fld k.x 0 7
    let g := fld w.x 0 6
    let served := fun thing => Tab.get 0 (s.die s.cur.die).served thing
    (Starts Forms.flw w s k s1 → fld (lo64 k.a) 0 16 = 0 → Takes w s1 →
      Performs (.flw w) s fun t => LandsNow w (flagWord x f) s s1 t ∧ SameCtxs s t ∧ Advances s t) ∧
    (let n := fld (lo64 k.a) 0 16
     Starts Forms.flw w s k s1 → n ≠ 0 → n ≤ x.flag f → served (thingFlag s.mySlot f) ≤ 64 + s.rank → Takes w s1 →
      Performs (.flw w) s fun t => LandsNow w (flagWord x f) s s1 t ∧ t.myCore.l1 = [] ∧ Advances s t ∧
        CtxIs { x with flags := Tab.put x.flags f (x.flag f - n) } s t) ∧
    (Starts Forms.fls w s k s1 → foreignOut s = false →
      Performs (.fls w) s fun t => SameRegs s t ∧ Advances s t ∧ t.me.held = [] ∧ t.mem = (release s1).mem ∧
        CtxIs { x with flagAdds := x.flagAdds ++
          [(f, fld (lo64 k.a) 0 16, BitVec.ofNat 16 (agentStrand s.cur.core s.cur.strand))] } s t) ∧
    (let n := fld w.x 0 7
     TokensReady (fld w.x 8 8) s →
      (Issues (Forms.flr false) w s → Takes w s →
        Performs (.flr w) s fun t => LandsNow w (flagWord x n) s s t ∧ SameCtxs s t ∧ Advances s t) ∧
      (Issues (Forms.flr true) w s → served (thingFlag s.mySlot n) ≤ rankEngine s.rank → Takes w s →
        Performs (.flrZ w) s fun t => LandsNow w (flagWord x n) s s t ∧ Advances s t ∧ t.myCore.l1 = [] ∧
          CtxIs { x with flags := Tab.put x.flags n 0, satf := Tab.put x.satf n false } s t)) ∧
    (Issues Forms.gset w s → x.guard g = 0 → foreignOut s = false →
      Performs (.gset w) s fun t => SameRegs s t ∧ SameCtxs s t ∧ Advances s t ∧
        t.myCore.gdSet = s.myCore.gdSet ++ [(s.cur.strand, g, if s.me.pred w.a.idx.toNat then 1 else 2)]) ∧
    (Issues Forms.gsetClr w s → foreignOut s = false →
      Performs (.gsetClr w) s fun t => SameRegs s t ∧ SameCtxs s t ∧ Advances s t ∧
        t.myCore.gdSet = s.myCore.gdSet ++ [(s.cur.strand, g, 0)]) ∧
    (Issues Forms.gqry w s → Takes w s →
      Performs (.gqry w) s fun t => LandsNow w (BitVec.ofNat 64 (x.guard g)) s s t ∧ SameCtxs s t ∧ Advances s t)

/-- `cpy`, `cpyt` and `cpyx` hand a packet to the core's port and count it in their token; `cpyq` claims a slot of a queue and lands its
index, or 2^63 with `nb` where none is free, and without `nb` waits there with the packet it has loaded; `twait` lands the faults of the tokens it names once all have been returned, `tstat` lands a
token's snapshot, and `tkill` cancels the copies a token counts and returns it (09 R226, R234 to R239). -/
def Obligations.CopyInstructions : Prop :=
  ∀ (w : StrandWord) (s s1 s2 s3 : State) (k : Caps) (p : Packet),
    let tok := fld k.x 0 3
    let room := (s.me.tok tok).count < 255 ∧ s.myCore.port.length < 16 ∧ foreignOut s = false
    (Starts Forms.cpy w s k s1 → (lo64 k.c).toNat < 2 ^ 24 → room →
      Performs (.cpy w) s
        (Submits { packet0 with w0 := BitVec.ofNat 64 (2 ^ 56 + (lo64 k.c).toNat), w1 := lo64 k.b, w2 := lo64 k.a } tok false s s1)) ∧
    (Starts Forms.cpyt w s k s1 → fld (lo64 k.c) 60 4 = 0 → room →
      Performs (.cpyt w) s
        (Submits { packet0 with w0 := BitVec.ofNat 64 (2 * 2 ^ 56 + (fld k.x 7 1 * 8 + roundingMode (fld k.x 4 3) s.me.fsr)),
                                w1 := lo64 k.b, w2 := lo64 k.a, w3 := lo64 k.c, w4 := if bit k.x 3 then 0 else lo64 k.c } tok true s s1)) ∧
    (Starts Forms.cpyx w s k s1 → loadPacket (lo64 k.a) s1 = .ok (p, s2) → room →
      Performs (.cpyx w) s (Submits p tok false s s2)) ∧
    (∀ q, Starts Forms.cpyq w s k s1 → (lo64 k.a).toNat < 64 → s.cq s.cur.die (cqKey s.mySlot (lo64 k.a).toNat) = some q →
      loadPacket (lo64 k.b) s1 = .ok (p, s2) → Takes w s1 → foreignOut s = false →
      (∀ i, q.append (stampPacket p tok s2) (release s2) = some (i, s3) → (s.me.tok tok).count < 255 →
        Performs (.cpyq w) s fun t => LandsNow w (BitVec.ofNat 64 i) s s1 t ∧ SameCtxs s t ∧ Advances s t ∧
          (t.me.tok tok).count = (s.me.tok tok).count + 1 ∧ t.me.held = [] ∧ (destQueue w = none → t.mem = s3.mem)) ∧
      (q.append (stampPacket p tok s2) (release s2) = none → bit k.x 3 = true →
        Performs (.cpyq w) s fun t => LandsNow w (BitVec.ofNat 64 (2 ^ 63)) s s1 t ∧ SameCtxs s t ∧ Advances s t) ∧
      (q.append (stampPacket p tok s2) (release s2) = none → bit k.x 3 = false →
        WaitsOn (.cpyq w) s 10 0 fun t => SameRegs s t ∧ t.mem = s2.mem ∧ t.me.kept = some (packetBytes p))) ∧
    (Issues Forms.twait w s → (∀ i, i < 8 → bit w.x i = true → (s.me.tok i).count = 0) → Takes w s →
      Performs (.twait w) s fun t => ∃ v, LandsNow w v s s t ∧ SameCtxs s t ∧ Advances s t ∧ t.myCore.l1 = [] ∧
        (destQueue w = none → SameMem s t) ∧ ∀ i, i < 64 → v.getLsbD i = (decide (i < 8) && bit w.x i && (s.me.tok i).fault)) ∧
    (let tk := s.me.tok (fld w.x 0 3)
     Issues Forms.tstat w s → Takes w s →
      Performs (.tstat w) s fun t => LandsNow w (tokenWord tk) s s t ∧ SameCtxs s t ∧ Advances s t ∧
        (tk.count = 0 ∧ tk.fault = false → t.myCore.l1 = []) ∧ (destQueue w = none → SameMem s t)) ∧
    (let i := fld w.x 0 3
     Issues Forms.tkill w s → killedRunning (s.modMe fun t => { t with killed := t.killed ++ (t.tok i).seqs }) = false →
      Performs (.tkill w) s fun t => t.me.tok i = {} ∧ t.me.killed = s.me.killed ++ (s.me.tok i).seqs ∧ SameRegs s t ∧ SameMem s t ∧
        SameCtxs s t ∧ Advances s t)

/-- A copy engine takes each kind of packet whose checks pass: the copy it then runs has the packet's formats, conversion and length; a copy
to a tile begins to fill an empty tile of its context, and one from a tile counts a reader of a ready one (09 R221 to R225, R227, R228,
R231 to R233; 06 R153, R154).
Copy events: a beat of a running copy is written and the copy goes on after it; a copy whose bytes have landed retires, advancing its
queue, and returns its token and raises its flag; a stopped queue retries or skips the slot at `RDIX` as it is told; a queue whose next
slot has stayed claimed and invalid for `CQTMO` cycles is noted as stalled (09 R217 to R220, R226, R227, R229).
The operands of its events stand in records of the model's own form (log 5); log 16 names its choices. -/
def Obligations.CopyEngine : Prop :=
  (∀ (s s1 s2 : State) (t1 t2 : Tlr) (sf df k : Nat) (conv : Bool),
     let sub := inHand s
     let p := sub.packet
     let die := s.cur.die
     let g := copyAgent die (s.cur.unit % 16) sub
     let base : CopyRun := { sub, sf := 8, df := 8, total := fld p.w0 0 24 }
     let tensor : CopyRun := { sub, sf, df, conv, rm := packetRm sub (fld p.w0 0 3), sat := bit p.w0 3 }
     let e := (s.die die).tile k
     let served := Tab.get 0 (s.die die).served (thingTile k)
     (passes (takeChecks die 0 sub s) = true → Performs .copyNoop s (TakenAs { sub } s s)) ∧
     (∀ run, passes (takeChecks die 1 sub s) = true → linearRun sub = .ok run → Performs .copyLinear s (TakenAs run s s)) ∧
     (passes (takeChecks die 2 sub s) = true → Performs .copyFill s (TakenAs { base with kind := 2 } s s)) ∧
     (passes (takeChecks die 3 sub s) = true → Performs .copyToInstructionStore s (TakenAs { base with kind := 3 } s s)) ∧
     (passes (takeChecks die 4 sub s) = true → Performs .copyToCommandRing s (TakenAs { base with kind := 4 } s s)) ∧
     (passes (takeChecks die 5 sub s) = true → readTlr sub.fmt3f g p.w1 s = .ok (t1, s1) → readTlr sub.fmt3f g p.w2 s1 = .ok (t2, s2) →
       sf = tlrFmt t1 → df = tlrFmt t2 → checkFormats sub sf df = .ok conv →
       blockAligned df p.w4 (copyWindow t1) = true →
       Performs .copyTensor s
         (TakenAs { tensor with kind := 5, src := t1, dst := t2, total := tensorBytes df (copyWindow t1) } s s2)) ∧
     (passes (takeChecks die 6 sub s) = true → readTlr sub.fmt3f g p.w1 s = .ok (t1, s1) → sf = tlrFmt t1 → packetTile p.w2 = .ok k →
       (s.die die).owned k = true → tileCtx e = sub.slot → tileSt e = 0 → df = fld e 50 8 → checkFormats sub sf df = .ok conv →
       passes (tileRules e (fld p.w4 0 12) df (copyWindow t1)) = true → blockAligned df 0 (copyWindow t1) = true → served = 0 →
       Performs .copyTensorToTile s fun t =>
         TakenAs { tensor with kind := 6, src := t1, dst := [BitVec.ofNat 64 k, e], total := tensorBytes df (copyWindow t1) } s s1 t ∧
           (t.die die).tile k = setFld e 62 2 1) ∧
     (passes (takeChecks die 7 sub s) = true → readTlr sub.fmt3f g p.w2 s = .ok (t2, s1) → df = tlrFmt t2 → packetTile p.w1 = .ok k →
       (s.die die).owned k = true → tileCtx e = sub.slot → tileSt e = 2 → sf = fld e 50 8 → checkFormats sub sf df = .ok conv →
       passes (tileRules e (fld p.w4 0 12) sf (copyWindow t2)) = true → blockAligned df p.w3 (copyWindow t2) = true → served = 0 →
       Performs .copyTileToTensor s fun t =>
         TakenAs { tensor with kind := 7, src := [BitVec.ofNat 64 k, e], dst := t2, total := tensorBytes df (copyWindow t2) } s s1 t ∧
           (t.die die).tile k = setFld e 18 8 (min (tileRdr e + 1) 255))) ∧
  (∀ (s s2 : State) (r r2 : CopyRun),
     let die := s.cur.die
     let cl := s.cur.unit % 16
     let x := s.ctx die r.sub.slot
     (namedRun s = some r → enginesRun x = true → wasKilled r.sub.slot r.sub.packet s = false →
       (r.done < r.total → r.watch = none → x.brkRegs = [] → runBeat (copyReader die cl r) (copyWriter die cl r 0) r s = (none, (none, s2), r2) →
         Performs .copyBeat s fun t => t.mem = s2.mem ∧ SameRegs s2 t ∧
           (t.cluster die cl).copies = Tab.put (s2.cluster die cl).copies (sourceOf r2.sub) { r2 with watch := none } ∧
           r2.done = (if r.kind = 4 then r.total else r.done + min 256 (r.total - r.done))) ∧
       (∀ u, r.total ≤ r.done → r.watch = none → pushRoom die r s = true →
         (if r.total = 0 ∧ 1 ≤ r.kind ∧ r.kind ≤ 3 then zeroCopy (copyAgent die cl r.sub) r s = .ok u else u = s) →
         Performs .copyRetire s fun t => t = { finishCopy die cl r u with verdict := .performed } ∧
           ∀ src run, (src, run) ∈ (t.cluster die cl).copies → src ≠ sourceOf r.sub)) ∧
     (∀ key q, namedQueue s = some (key, q) →
       (q.act = some 1 → Performs .copyQueueActRetry s fun t =>
         ∃ u, t.cq die key = some u ∧ u.st = 0 ∧ u.cause = 0 ∧ u.act = none ∧ u.rdix = q.rdix ∧ SameRegs s t ∧ SameCtxs s t) ∧
       (q.act = some 2 → Performs .copyQueueActSkip s fun t =>
         ∃ u, t.cq die key = some u ∧ u.st = 0 ∧ u.act = none ∧ u.rdix = (q.rdix + 1) % 2 ^ 32 ∧ SameRegs s t ∧ SameCtxs s t)) ∧
     (∀ q, s.hand.ev.b = 0 → s.cq die (s.hand.ev.a.toNat % 1024) = some q → stallDue (s.die die) q = true →
       Performs .queueStall s fun t => ∃ u, t.cq die (s.hand.ev.a.toNat % 1024) = some u ∧ u.st = 2 ∧ u.rdix = q.rdix ∧ SameRegs s t))

/-! ### Scheduling (12) -/

/-- `nest` sets the local walk before its first point with all its permits; `iter` goes to the walk's next point in ascending order, using a
permit, or is 0 when the walk is exhausted; `pwait` passes when there are permits enough, `pret` returns some; `lcnt` lands a level's
counter or extent and `fsel` selects a format entry from the next cycle on (12 R311, R317, R318). -/
def Obligations.Headland : Prop :=
  ∀ (w : StrandWord) (s s1 : State) (k : Caps),
    let quiet := fun (t : State) => SameMem s t ∧ SameCtxs s t ∧ Advances s t
    let l := s.myCore.lnr
    (Issues Forms.nest w s → Performs (.nest w) s fun t => quiet t ∧ SameRegs s t ∧ t.me.walk = 0 ∧ t.me.permits = s.myCore.pcnt) ∧
    (Issues Forms.iter w s →
      (nextLocal s.me l = none → Performs (.iter w) s fun t => quiet t ∧ LandsPred w false s t ∧ t.me.walk = 2) ∧
      (∀ n, nextLocal s.me l = some n → 1 ≤ s.me.permits →
        Performs (.iter w) s fun t => quiet t ∧ LandsPred w true s t ∧ t.me.walk = 1 ∧ t.me.permits = s.me.permits - 1 ∧
          walkOrdinal l (fun j => (t.me.lcOf j).toNat) (lnrWalk l false) = n) ∧
      (∀ n, nextLocal s.me l = some n → s.me.permits = 0 →
        WaitsOn (.iter w) s 5 0 fun t => SameRegs s t ∧ SameMem s t)) ∧
    (Issues Forms.permits w s → capture Forms.permits asIs w s = .ok (k, s1) →
      (fld (lo64 k.a) 0 16 ≤ s.me.permits →
        Performs (.pwait w) s fun t => quiet t ∧ SameRegs s t ∧ t.me.permits = s.me.permits) ∧
      Performs (.pret w) s fun t => quiet t ∧ SameRegs s t ∧ t.me.permits = min (s.me.permits + fld (lo64 k.a) 0 16) 65535) ∧
    (Issues Forms.lcnt w s → Takes w s →
      Performs (.lcnt w) s fun t => SameCtxs s t ∧ Advances s t ∧
        LandsNow w (BitVec.ofNat 64 (if lnrNlev l ≤ w.c.idx.toNat then 0 else if bit w.x 0 then lnrExt l w.c.idx.toNat
          else (s.me.lcOf w.c.idx.toNat).toNat)) s s t) ∧
    (Issues Forms.fsel w s →
      Performs (.fsel w) s fun t => quiet t ∧ SameRegs s t ∧ t.myCore.ftix = s.myCore.ftix ∧
        t.myCore.ftixNew = some (if bit w.x 0 then fld w.x 4 4 else levelRead s false w.c.idx.toNat % 16))

/-- `evsig` sets an event of the context and releases its waiters, `evclr` clears one, each after a release; `evwait` passes and acquires
where the event is set, and becomes a waiter where it is clear; `evwait.t` lands the event in a predicate (12 R305 to R308, R319).
Writing an event writes its bit of the context's bitmap and no other, and setting one releases every waiter on it (12 R305, R306).
A piece of the bitmap that has not been touched since the context was created reads clear first: when the device clears it is the
model's choice (log 16). Each strand's turn at an event in a cycle is 12 R307's; one that comes too late waits (log 7). -/
def Obligations.Events : Prop :=
  (∀ (w : StrandWord) (s s1 s2 u : State) (k : Caps),
     let n := (lo64 k.a).toNat
     let me := (n, waiterNum s)
     let c := s.myCtx.waitOnly n (waiterNum s)
     let v1 := s1.modMyCtx fun c => c.waitOnly n (waiterNum s)
     let ctxs := fun (t : State) => ∀ d m, t.ctx d m = s2.ctx d m
     1 ≤ n → n ≤ 65535 → eventsOn s.myCtx = true →
     (Starts Forms.event w s k s1 →
       (foreignOut s = false → serveEvent n s1 = .ok u →
         (setEvent s.cur.die s.mySlot n (release u) = .ok s2 →
           Performs (.evsig w) s fun t => SameRegs s t ∧ Advances s t ∧ t.mem = s2.mem ∧ t.me.held = [] ∧ ctxs t) ∧
         (eventWrite (release u) s.cur.die s.mySlot n false = .ok s2 →
           Performs (.evclr w) s fun t => SameRegs s t ∧ Advances s t ∧ t.mem = s2.mem ∧ t.me.held = [] ∧ ctxs t)) ∧
       (c.evSeen.contains me = true →
         Performs (.evwait w) s fun t => SameRegs s t ∧ SameMem s t ∧ Advances s t ∧ t.myCore.l1 = [] ∧
           CtxIs { c with evSeen := c.evSeen.filter (· ≠ me) } s t) ∧
       (c.evSeen.contains me = false → serveEvent n v1 = .ok u →
         (eventSet u s.cur.die s.mySlot n = .ok (true, s2) →
           Performs (.evwait w) s fun t => SameRegs s t ∧ Advances s t ∧ t.mem = s2.mem ∧ ctxs t ∧ t.myCore.l1 = []) ∧
         (eventSet u s.cur.die s.mySlot n = .ok (false, s2) → (c.evWait ++ c.evRing).contains (n, 1, waiterNum s) = false →
           ∀ u2, addWaiter s.cur.die s.mySlot (n, 1, waiterNum s) s2 = .ok u2 →
             WaitsOn (.evwait w) s 10 0 fun t => SameRegs s t ∧ t.mem = u2.mem ∧ ∀ d m, t.ctx d m = u2.ctx d m))) ∧
     (∀ v, Starts Forms.eventTest w s k s1 → serveEvent n s1 = .ok u → eventSet u s.cur.die s.mySlot n = .ok (v, s2) →
       Performs (.evwaitT w) s fun t => LandsPred w v s t ∧ Advances s t ∧ t.mem = s2.mem ∧ ctxs t ∧ (v = true → t.myCore.l1 = []))) ∧
  (∀ (s s2 : State) (die slot n : Nat), Memory.wf s.mem = true → NoQueues s →
     (∀ v, (s.ctx die slot).evStale.contains (n / 2048) = false → eventWrite s die slot n v = .ok s2 →
       ∃ f, locate s (engineAgent die slot) (eventVa (s.ctx die slot) n) 1 1 .wr false = .ok f ∧
         bit (memGet s2.mem f.place.key) (n % 8) = v ∧
         (¬ InLeaf f f.place.key → ∀ m, m < 8 → m ≠ n % 8 → bit (memGet s2.mem f.place.key) m = bit (memGet s.mem f.place.key) m) ∧
         ∀ j, j ≠ f.place.key → ¬ InLeaf f j → memGet s2.mem j = memGet s.mem j) ∧
     ((s.ctx die slot).evStale.contains (n / 2048) = true → freshEvents die slot n s = .ok s2 →
       ∃ f, locate s (engineAgent die slot) (eventVa (s.ctx die slot) (2048 * (n / 2048))) 256 1 .wr false = .ok f ∧
         ∀ i, i < 256 → memGet s2.mem (f.place.key + i) = 0) ∧
     (setEvent die slot n s = .ok s2 → (∀ e ∈ (s2.ctx die slot).evWait, e.1 ≠ n) ∧
       ∀ num, (n, 1, num) ∈ (s.ctx die slot).evWait → (n, num) ∈ (s2.ctx die slot).evSeen))

/-- `launch` claims a slot of its context's launch queue, or of the queue a window handle names, puts its packet there and lands the index;
where none is free it lands 2^63, or waits with the packet it has loaded; a queue of another package is asked, and its answer lands
(12 R297, R320).
The sequence number a launch gets is free (log 16). -/
def Obligations.Launches : Prop :=
  ∀ (w : StrandWord) (s s1 s2 s3 s4 s5 : State) (k : Caps) (p p1 : Packet) (x : WinAcc) (q : PktQueue),
    let a := lo64 k.a
    let nb := bit k.x 3
    let lands := fun (v : Word) (t : State) => LandsNow w v s s1 t ∧ Advances s t
    let waits := fun (u : State) =>
      WaitsOn (.launch w) s 10 0 fun t => SameRegs s t ∧ t.mem = u.mem ∧ t.me.kept = some (packetBytes p)
    Starts Forms.launch w s k s1 → foreignOut s = false →
    (a = 0 → s.myCtx.lq = some q → loadPacket (lo64 k.b) s1 = .ok (p, s2) → stampLaunch p (release s2) = (p1, s3) →
      (∀ i, Takes w s1 → q.append p1 s3 = some (i, s4) →
        Performs (.launch w) s fun t => lands (BitVec.ofNat 64 i) t ∧ SameCtxs s t ∧ (destQueue w = none → t.mem = s4.mem)) ∧
      (q.append p1 s3 = none → (nb = true → Takes w s1 → Performs (.launch w) s fun t => lands (BitVec.ofNat 64 (2 ^ 63)) t ∧ SameCtxs s t) ∧
        (nb = false → waits s2))) ∧
    (fld a 0 48 = 0 → fld a 48 16 ≠ 0 → winOf k 0 64 64 3 s1 = .ok (x, s2) →
      (x.die < 8 → passes (keyCheck s2 x) = true → (s.ctx x.die x.slot).lq = some q → loadPacket (lo64 k.b) s2 = .ok (p, s3) →
        stampLaunch p (release s3) = (p1, s4) →
        (∀ i, Takes w s1 → q.append p1 s4 = some (i, s5) → (s.ctx x.die x.slot).brkRegs = [] →
          Performs (.launch w) s fun t => lands (BitVec.ofNat 64 i) t ∧ (destQueue w = none → t.mem = s5.mem)) ∧
        (q.append p1 s4 = none → (nb = true → Takes w s1 → Performs (.launch w) s (lands (BitVec.ofNat 64 (2 ^ 63)))) ∧
          (nb = false → waits s3))) ∧
      (8 ≤ x.die → loadPacket (lo64 k.b) s2 = .ok (p, s3) → stampLaunch p s3 = (p1, s4) →
        Asks (destQueue w) (.launch w) s s1 .access x.die (accessWords x accLaunch 64 3 (b2n nb) 0 0) (packetBytes p1)) ∧
      (∀ r, AnswersTo w r s s1 → 8 ≤ r.dst →
        Performs (.launch w) s fun t => LandsAnswer w (ofWord (launchAnswer nb r.val)) r s s1 t ∧ Advances s t ∧ t.me.pend = none))

/-- `join` takes the next rank of a team that has room and a free team slot, `leave` gives it back, `tbar` arrives and passes when the
generation has ended, and `tinfo` lands what a slot knows of its team; a team of another package is asked, and its answer lands (12 R322
to R325). -/
def Obligations.Teams : Prop :=
  ∀ (w : StrandWord) (s s1 s2 s3 : State) (k : Caps) (tm : TeamAt) (d : TeamDesc) (key rk : Nat),
    let n := fld w.x 0 2
    let m := s.me.team n
    let ready := TokensReady (fld w.x 8 8) s
    let w1 := waited (fld w.x 8 8) s
    let here := tm.key = some key ∧ readTeam key s2 = .ok d
    let quiet := fun (t : State) => SameRegs s t ∧ SameCtxs s t ∧ Advances s t
    foreignOut s = false →
    (Starts Forms.join w s k s1 → m.valid = false → teamOnce (bit w.x 2) (lo64 k.a) (drainMine s1) = .ok (tm, s2) →
      (here → Takes w s1 →
        (d.nextr = d.limit → Performs (.join w) s fun t => LandsNow w (BitVec.ofNat 64 (2 ^ 63)) s s1 t ∧ t.me.team n = m) ∧
        (d.nextr ≠ d.limit → reachRank s.agent (bit w.x 2) (lo64 k.a) d.nextr s2 = .ok (rk, s3) →
          Performs (.join w) s fun t => LandsNow w (BitVec.ofNat 64 d.nextr) s s1 t ∧ SameCtxs s t ∧ Advances s t ∧
            t.me.team n = { valid := true, desc := lo64 k.a, rank := d.nextr, gen := BitVec.ofNat 32 d.join.1, handle := bit w.x 2 } ∧
            (destQueue w = none →
              t.mem = (writeTeam key d.join.2 (s3.putWord rk (rankWord s.cur.die s.cur.core s.mySlot))).mem))) ∧
      (tm.key = none → Asks (destQueue w) (.join w) s s1 .team tm.die (teamWordsOf 0 tm.va 0) [])) ∧
    (Issues Forms.team w s → ready → m.valid = true → teamOnce m.handle m.desc (release w1) = .ok (tm, s2) →
      (tm.key = some key → leaveTeam s.agent m s2 = .ok s3 →
        Performs (.leave w) s fun t => quiet t ∧ t.mem = s3.mem ∧ t.me.team n = {}) ∧
      (here → m.arrived = none → m.gen.toNat ≤ d.gen →
        (d.gen < d.arrive.gen → Performs (.tbar w) s fun t => quiet t ∧ t.myCore.l1 = [] ∧
          t.mem = (writeTeam key d.arrive s2).mem ∧ t.me.team n = { m with gen := BitVec.ofNat 32 (d.gen + 1), arrived := none }) ∧
        (¬ d.gen < d.arrive.gen → WaitsOn (.tbar w) s 10 0 fun t => SameRegs s t ∧ t.mem = (writeTeam key d.arrive s2).mem ∧
          t.me.team n = { m with arrived := some (BitVec.ofNat 32 d.gen) })) ∧
      (∀ g, here → m.arrived = some g → g.toNat < d.gen →
        Performs (.tbar w) s fun t => quiet t ∧ t.myCore.l1 = [] ∧ t.mem = s2.mem ∧
          t.me.team n = { m with gen := BitVec.ofNat 32 (g.toNat + 1), arrived := none }) ∧
      (tm.key = none → Asks none (.leave w) s s .team tm.die (teamWordsOf 1 tm.va m.rank) [] ∧
        Asks none (.tbar w) s s .team tm.die (teamWordsOf 2 tm.va m.gen.toNat) [])) ∧
    (Issues Forms.tinfo w s → ready → m.valid = true →
      let lands := fun (v : Word) => Performs (.tinfo w) s fun t => LandsNow w v s s t ∧ SameCtxs s t ∧ Advances s t
      (Takes w s → (w.c.idx = 0 → lands (BitVec.ofNat 64 m.rank)) ∧ (w.c.idx = 3 → lands m.desc)) ∧
      (teamOnce m.handle m.desc (behindHeld w1) = .ok (tm, s2) →
        (here → Takes w s → (w.c.idx = 1 → lands (BitVec.ofNat 64 d.size)) ∧ (w.c.idx = 2 → lands (BitVec.ofNat 64 d.gen))) ∧
        (tm.key = none → w.c.idx = 1 ∨ w.c.idx = 2 →
          Asks (destQueue w) (.tinfo w) s s .team tm.die (teamWordsOf 3 tm.va w.c.idx.toNat) []))) ∧
    (∀ p, (Starts Forms.join w s k s1 → AnswersTo w p s s1 → m.valid = false →
        Performs (.join w) s fun t =>
          LandsAnswer w (ofWord (BitVec.ofNat 64 (if bit p.val 24 then 2 ^ 63 else p.val.toNat % 2 ^ 24))) p s s1 t ∧ t.me.pend = none ∧
          (bit p.val 24 = false → t.me.team n = { valid := true, desc := lo64 k.a, rank := p.val.toNat % 2 ^ 24,
                                                  gen := p.val.extractLsb' 32 32, handle := bit w.x 2 })) ∧
      (Issues Forms.team w s → ready → m.valid = true → Answered p s →
        Performs (.leave w) s (fun t => quiet t ∧ t.me.team n = {} ∧ t.me.pend = none) ∧
        Performs (.tbar w) s (fun t => quiet t ∧ t.me.team n = { m with gen := p.val.extractLsb' 32 32 } ∧ t.me.pend = none)) ∧
      (Issues Forms.tinfo w s → ready → m.valid = true → AnswersTo w p s s → (w.c.idx = 1 ∨ w.c.idx = 2) →
        Performs (.tinfo w) s fun t => LandsAnswer w (ofWord (BitVec.ofNat 64 (p.val.toNat % 2 ^ 32))) p s s t ∧ t.me.pend = none))

/-- The scheduler takes a launch packet that sets no reserved field for a context that is not closing: a no-op is taken, a task packet adds a
task with its record, which observes its dependences as far as there is room for its waiters and is ready at once when it has none, a
stream packet starts an idle stream; each writes its status and retires its slot, a task's once its dependences are observed; a packet for a closing context is refused with 0x80, one with a reserved field with 0x81, and a busy stream's with
0x83 (12 R297 to R300, R302, R309).
What each entry of a command list does on a busy stream: `end` makes it idle, `launch` takes the task packet at `ADDR`, `wait` goes on
past an event that is set and waits on one that is clear, `sig` sets an event, `skip` passes over the next entry when its comparison
holds, `jump`, `call` and `ret` change where it goes on, `fence` passes once the stream's tasks have completed; an entry with a reserved
field stops the stream (12 R301 to R303).
Sequence numbers and the cause of a return-stack stop are free (log 16). -/
def Obligations.LaunchQueues : Prop :=
  (∀ (s s1 s2 s3 s4 : State) (l : Lnr) (ft : List Byte),
     let x := launchIn s
     let p := x.p
     let sn := fld p.w0 56 4
     let after := fun (u t : State) => t = { (if x.queue then retireLq x.die x.slot u else u) with verdict := .performed }
     let open_ := (s.ctx x.die x.slot).state ≠ 7 ∧ launchOk p = true
     serve x.die (thingLaunch x.slot) 2 s = .ok s1 →
     (open_ → launchKind p = 0 → launchStatus x 0x01 0 0 s1 = .ok s2 → Performs .launchPacketNoop s (after s2)) ∧
     (let num := (s.die x.die).nextTask
      let deps := launchDeps p
      let task : Task := { num, slot := x.slot, lnr := l, ftab := ft, arg := if p.w3 = 0 then l.getD 10 0 else p.w3, deps, unseen := deps,
                           total := walkSize l (lnrWalk l true), stream := x.stream, idx := x.idx }
      let entered := s3.modDie x.die fun d => { d with tasks := d.tasks ++ [task], nextTask := bumpTask num }
      open_ → launchKind p = 1 → halfTaken x s1 = none → launchRecord x s1 = .ok (.ok (l, ft), s2) → launchStatus x 0x01 0 num s2 = .ok s3 →
       observeDeps x num deps entered = .ok s4 →
       Performs .launchPacketTask s fun t => SameRegs s t ∧ (t.die x.die).nextTask = bumpTask num ∧
         (if (halfTaken x s4).isSome then t = { s4 with verdict := .performed } else after s4 t) ∧
         (deps = [] → (∀ y ∈ (s3.die x.die).tasks, y.num ≠ num) →
           (t.die x.die).tasks = (s3.die x.die).tasks ++ [{ task with ready := some (s.die x.die).cyc }])) ∧
     (∀ y, open_ → launchKind p = 1 → halfTaken x s1 = some y → observeDeps x y.num y.unseen s1 = .ok s4 →
       Performs .launchPacketTask s fun t => if (halfTaken x s4).isSome then t = { s4 with verdict := .performed } else after s4 t) ∧
     (open_ → launchKind p = 2 → launchStatus x 0x01 0 0 s1 = .ok s2 → (s.strm x.die sn).busy = false →
       Performs .launchPacketStream s fun t => SameRegs s t ∧
         t.strm x.die sn = { busy := true, slot := x.slot, next := p.w1, w0 := p.w0 }) ∧
     (open_ → launchKind p = 2 → (s.strm x.die sn).busy = true → launchStatus x 0x83 0 0 s1 = .ok s2 →
       Performs .launchPacketStream s (after s2)) ∧
     ((s.ctx x.die x.slot).state = 7 → launchStatus x 0x80 0 0 s1 = .ok s2 → Performs .launchPacketTask s (after s2)) ∧
     ((s.ctx x.die x.slot).state ≠ 7 → launchOk p = false → x.stream = none → launchStatus x 0x81 cReservedField 0 s1 = .ok s2 →
       Performs .launchPacketTask s (after (schedFault x.die x.slot cReservedField x.idx x.va p.w0 s2)))) ∧
  (∀ (s s1 s2 s3 : State) (bs : List Byte) (r : Taken),
     let e := s.hand.entry
     let die := s.cur.die
     let n := s.cur.unit % 16
     let t0 := s.strm die n
     let ev := fld e.w0 0 16
     let goes := fun (va : Word) (u t : State) => t.strm die n = { u.strm die n with next := va } ∧ SameRegs s t
     let plain := fld e.w0 32 24 = 0 ∧ e.w1 = 0
     let event := plain ∧ fld e.w0 16 16 = 0 ∧ 1 ≤ ev ∧ eventsOn (s.ctx die t0.slot) = true
     t0.busy = true →
     (plain → Performs .streamEnd s fun t => t.strm die n = {} ∧ SameRegs s t ∧ SameMem s t) ∧
     (fld e.w0 32 24 = 0 → ctxLoad die t0.slot e.w1 64 64 s = .ok (bs, s2) → launchKind (packetOf (wordsOfBytes bs)) = 1 →
       takePacket { die, slot := t0.slot, idx := 2 ^ 31 + n, va := e.w1, queue := false, stream := some n,
                    p := packetOf (wordsOfBytes bs) } s2 = .ok (r, s3) →
       r = .done → Performs .streamLaunch s (goes (t0.next + 16) s3)) ∧
     (event → serve die (thingEvent t0.slot ev) (rankEngine n) s = .ok s1 → eventSet s1 die t0.slot ev = .ok (true, s2) →
       Performs .streamWait s (goes (t0.next + 16) s2)) ∧
     (event → serve die (thingEvent t0.slot ev) (rankEngine n) s = .ok s1 → eventSet s1 die t0.slot ev = .ok (false, s2) →
       addWaiter die t0.slot (ev, 2, n) (modStrm die n (fun t => { t with next := t0.next + 16 }) s2) = .ok s3 →
       Performs .streamWait s fun t => t.strm die n = { t0 with next := t0.next + 16, waitEv := some ev } ∧ SameRegs s t) ∧
     (event → serve die (thingEvent t0.slot ev) (rankEngine n) s = .ok s1 →
       setEvent die t0.slot ev (modStrm die n (fun t => { t with next := t0.next + 16 }) s1) = .ok s2 →
       Performs .streamSig s fun t => t = { s2 with verdict := .performed }) ∧
     (let w := if bit e.w0 56 then 8 else 4
      fld e.w0 32 24 = 0 → fld e.w0 57 3 ≤ 5 → ctxLoad die t0.slot e.w1 w w s = .ok (bs, s2) →
       Performs .streamSkip s
         (goes (t0.next + 16 + (if streamCond (fld e.w0 57 3) (ofBytes bs) (fld e.w0 0 32) then 16 else 0)) s2)) ∧
     (fld e.w0 32 24 = 0 → e.w1.toNat % 16 = 0 →
       Performs .streamJump s (goes e.w1 s) ∧
       (t0.stack.length < 4 → Performs .streamCall s fun t =>
         t.strm die n = { t0 with next := e.w1, stack := (t0.next + 16) :: t0.stack } ∧ SameRegs s t)) ∧
     (∀ va rest, plain → t0.stack = va :: rest →
       Performs .streamRet s fun t => t.strm die n = { t0 with next := va, stack := rest } ∧ SameRegs s t) ∧
     (plain → (∀ t ∈ (s.die die).tasks, t.stream ≠ some n) → Performs .streamFence s (goes (t0.next + 16) s)) ∧
     (fld e.w0 32 24 ≠ 0 → Performs .streamJump s fun t => t = { streamStop die n cReservedField t0.next s with verdict := .performed }))

/-! ### Remote access, messages, collectives (13, 14) -/

/-- `rld` and `rldv` send a load through a window handle and wait, and land the bytes of the answer; `ratom` and `rcas` with a destination send
an atomic and land the old value, or what a claim gives, when it is back; each leaves its passed check in the strand's check cache (13
R332 to R334).
`rst` and `rstv`, and a `ratom` or `rcas` with no destination, ask for their check unless the cache holds it; once it has passed they post
their write behind everything the strand holds (13 R326, R333, R334; 07 R181).
`rflush` passes once the strand has no posted write outstanding through the handle it names, or through any, and waits till then;
`winq` lands a word of a window entry with the key read as zero, and 0 for a handle out of range (13 R335).
What another package answers is free (log 10). -/
def Obligations.RemoteAccess : Prop :=
  (∀ (w : StrandWord) (s s1 s2 : State) (k : Caps) (x : WinAcc) (p : Pend),
     let lands := fun (v : Vec) (t : State) => LandsAnswer w v p s s1 t ∧ SameCtxs s t ∧ Advances s t ∧ t.me.pend = none
     let n := (wdFmt k.x).2
     let acquires := fun (t : State) => fld k.x 2 2 = 1 ∨ fld k.x 2 2 = 3 → t.myCore.l1 = []
     (Starts Forms.rld w s k s1 →
       (winOf k (lo64 k.b).toInt n n 0 s1 = .ok (x, s2) →
         Asks (destQueue w) (.rld w) s s1 .access x.die (accessWords x accLoad n 0 0 0 0) []) ∧
       (AnswersTo w p s s1 → Performs (.rld w) s fun t =>
         lands (ofWord (extLoaded (wdFmt k.x).1 n (toBytes n p.val.toNat))) t ∧ t.me.checked p.access 0 = true ∧ acquires t)) ∧
     (Starts Forms.rldv w s k s1 →
       (winOf k (lo64 k.b).toInt 128 128 0 s1 = .ok (x, s2) →
         Asks (destQueue w) (.rldv w) s s1 .access x.die (accessWords x accLoad 128 0 0 0 0) []) ∧
       (AnswersTo w p s s1 → Performs (.rldv w) s fun t => lands p.val t ∧ t.me.checked p.access 0 = true)) ∧
     (let op := w.c.idx.toNat
      let wd := fld (Forms.ratom.effX w) 4 4
      let fp := atomIsFp op
      let m := if op = 9 then 8 else atomBytes fp wd
      Issues Forms.ratom w s → TokensReady (fld (Forms.ratom.effX w) 8 8) s →
       capture { Forms.ratom with b := if fp then .sf else .s } (fun _ => atomLit wd) w (waited (fld (Forms.ratom.effX w) 8 8) s) = .ok (k, s1) →
       (w.dk ≠ .none →
         (winOf k 0 m m 2 s1 = .ok (x, s2) →
           Asks (destQueue w) (.ratom w) s s1 .access x.die (accessWords x (accAtom op) m 2 wd (lo64 k.b) 0) []) ∧
         (AnswersTo w p s s1 → Performs (.ratom w) s fun t => t.me.checked p.access 2 = true ∧ acquires t ∧
           lands (ofWord (atomLands (accAtom op) wd (lo64 k.b) (p.val.toNat % 2 ^ (8 * m)))) t)) ∧
       (w.dk = .none → winOf k 0 m m 2 s1 = .ok (x, s2) →
         (s.me.checked x 2 = false → Asks none (.ratom w) s s1 .access x.die (accessWords x accCheck m 2 0 0 0) []) ∧
         ((s.me.checked x 2 = true ∧ s.me.pend = none) ∨ Answered p s → foreignOut s = false →
           Performs (.ratom w) s fun t => Posts x (accessWords x (accAtom op) m 2 wd (lo64 k.b) 0) m 2 [] s s2 t ∧ acquires t))) ∧
     (let wd := fld k.x 4 4
      let m := atomBytes false wd
      Starts Forms.rcas w s k s1 →
       (w.dk ≠ .none →
         (winOf k 0 m m 2 s1 = .ok (x, s2) →
           Asks (destQueue w) (.rcas w) s s1 .access x.die (accessWords x accCas m 2 wd (lo64 k.b) (lo64 k.c)) []) ∧
         (AnswersTo w p s s1 → Performs (.rcas w) s fun t => t.me.checked p.access 2 = true ∧ acquires t ∧
           lands (ofWord (atomOld false wd (p.val.toNat % 2 ^ (8 * m)))) t)) ∧
       (w.dk = .none → winOf k 0 m m 2 s1 = .ok (x, s2) →
         (s.me.checked x 2 = false → Asks none (.rcas w) s s1 .access x.die (accessWords x accCheck m 2 0 0 0) []) ∧
         ((s.me.checked x 2 = true ∧ s.me.pend = none) ∨ Answered p s → foreignOut s = false →
           Performs (.rcas w) s fun t => Posts x (accessWords x accCas m 2 wd (lo64 k.b) (lo64 k.c)) m 2 [] s s2 t ∧ acquires t)))) ∧
  (∀ (w : StrandWord) (s s1 s2 : State) (k : Caps) (x : WinAcc) (p : Pend),
     let n := (wdFmt k.x).2
     let rel := fld k.x 2 2 = 2
     let passed := (s.me.checked x 1 = true ∧ s.me.pend = none) ∨ Answered p s
     (Starts Forms.rst w s k s1 → winOf k (lo64 k.b).toInt n n 1 s1 = .ok (x, s2) →
       (s.me.checked x 1 = false → Asks none (.rst w) s s1 .access x.die (accessWords x accCheck n 1 0 0 0) []) ∧
       (passed → Unhindered s → (rel → foreignOut s = false) →
         Performs (.rst w) s (Posts x (accessWords x accStore n 1 0 0 0) n 1 (toBytes n (lo64 k.c).toNat) s s2))) ∧
     (Starts Forms.rstv w s k s1 → winOf k (lo64 k.b).toInt 128 128 1 s1 = .ok (x, s2) →
       (s.me.checked x 1 = false → Asks none (.rstv w) s s1 .access x.die (accessWords x accCheck 128 1 0 0 0) []) ∧
       (passed → Unhindered s →
         Performs (.rstv w) s (Posts x (accessWords x accStore 128 1 0 0 0) 128 1 (toBytes 128 k.c.toNat) s s2)))) ∧
  (∀ (w : StrandWord) (s s1 s2 : State) (k : Caps) (e : List Word),
     let h := fld (lo64 k.a) 48 16
     (Starts Forms.rflush w s k s1 → fld (lo64 k.a) 0 48 = 0 →
       (h = 0 → handleOut h s = false → Performs (.rflush w) s fun t => SameRegs s t ∧ SameMem s t ∧ SameCtxs s t ∧ Advances s t) ∧
       (h = 0 → handleOut h s = true → WaitsOn (.rflush w) s 10 0 fun t => SameRegs s t ∧ SameMem s t) ∧
       (h ≠ 0 → h < winCount s.myCtx → winEntry s1.agent h s1 = .ok (e, s2) → winValid e = true → handleOut h s = false →
         Performs (.rflush w) s fun t => SameRegs s t ∧ SameCtxs s t ∧ Advances s t ∧ t.mem = s2.mem)) ∧
     (Starts Forms.winq w s k s1 → Takes w s1 →
       ((h = 0 ∨ winCount s.myCtx ≤ h) → Performs (.winq w) s fun t => LandsNow w 0 s s1 t ∧ SameCtxs s t ∧ Advances s t) ∧
       (h ≠ 0 → h < winCount s.myCtx → winEntry s1.agent h s1 = .ok (e, s2) →
         Performs (.winq w) s fun t => SameCtxs s t ∧ Advances s t ∧
           LandsNow w (if w.c.idx = 0 then setFld (e.getD 0 0) 0 32 0 else e.getD w.c.idx.toNat 0) s s1 t)))

/-- `msend` sends a header to the member it names and, answered, raises its flag for a short message; `mpost` hands a post to the receive
engine and lands its identity; `mprobe` lands the record of the oldest unexpected message that matches; `mcancel` cancels an active post;
`mcomp` lands a completion record and frees its post; `mqry` lands a count (13 R345 to R347).
The identity of a new post is free (log 16). Which of the receive engine's events comes first in a cycle is 13 R339's; one that comes too
late waits (log 7). -/
def Obligations.Messages : Prop :=
  ∀ (w : StrandWord) (s s1 s2 s3 : State) (k : Caps) (tm : TeamAt) (bs db tb : List Byte) (r : Word),
    let n := fld w.x 0 2
    let c := s.myCtx
    let on := (s.me.team n).valid = true ∧ bit c.rxcfg 63 = true
    let turn := Tab.get 0 (s.die s.cur.die).served thingRxe ≤ 8 + s.rank
    (let a := lo64 k.a
     let len := (lo64 k.c).toNat
     let dst := if tm.key.isSome then dieOf (fld r 51 13) else tm.die
     Starts Forms.msend w s k s1 →
      (bit a 31 = false → len < 2 ^ 24 → (s.me.team n).valid = true → sourceBytes (lo64 k.b) len (release s1) = .ok (bs, s2) →
        memberOf n (fld a 0 24) s2 = .ok (tm, r, s3) →
        Asks none (.msend w) s s1 .header dst
          [BitVec.ofNat 64 (fld r 40 4), tm.ident, BitVec.ofNat 64 (s.me.team n).rank, BitVec.ofNat 64 (fld a 32 32), BitVec.ofNat 64 len,
           BitVec.ofNat 64 s.mySlot, lo64 k.b, BitVec.ofNat 64 (fld a 24 7)] bs) ∧
      (∀ p, Answered p s → Performs (.msend w) s fun t => SameRegs s t ∧ Advances s t ∧ t.me.pend = none ∧ SameMem s t ∧
        CtxIs (if (len ≤ 4096 ∨ 8 ≤ p.dst) ∧ fld a 24 7 ≠ 0 then
          { c with flagAdds := c.flagAdds ++ [(fld a 24 7, 1, BitVec.ofNat 16 (agentStrand s.cur.core s.cur.strand))] } else c) s t)) ∧
    (∀ p, Starts Forms.mpost w s k s1 → Takes w s1 → on → (lo64 k.b).toNat ≤ 127 → teamOf n s1 = .ok (tm, s2) →
      load (lo64 k.a) 32 (multiple 32 (lo64 k.a)) false false s2 = .ok (db, s3) →
      (∃ s4, load ((wordsOfBytes db).getD 2 0) 96 (multiple 128 ((wordsOfBytes db).getD 2 0)) false false s3 = .ok (tb, s4)) →
      makePost (wordsOfBytes db) (tlrResolve (capturedFmt s) (wordsOfBytes tb)) tm.ident (lo64 k.b).toNat = .ok p → turn → quotaLeft c = true → c.posts.length < 16384 →
      c.unexp.find? (fun m => p.matchesKey m.team m.tag m.rank) = none →
      Performs (.mpost w) s fun t => ∃ id, id < 16384 ∧ (∀ q ∈ c.posts, q.id ≠ id) ∧ LandsNow w (BitVec.ofNat 64 id) s s1 t ∧
        Advances s t ∧ CtxIs { c with posts := c.posts ++ [{ p with id }] } s t) ∧
    (Starts Forms.mprobe w s k s1 → TakesMany w 2 s1 → on → turn → teamOf n s1 = .ok (tm, s2) →
      load (lo64 k.a) 16 (multiple 16 (lo64 k.a)) false false s2 = .ok (db, s3) →
      let p : Post := { id := 0, team := tm.ident, pat := (wordsOfBytes db).getD 0 0, wmask := (wordsOfBytes db).getD 1 0, tlr := [],
                        maxlen := 0, eoff := 0, flag := 0 }
      let found := c.unexp.find? fun m => p.matchesKey m.team m.tag m.rank
      Performs (.mprobe w) s fun t => SameCtxs s t ∧ Advances s t ∧
        LandsRecord w (match found with | some m => compWords 0 m.len 0 0 m.tag m.rank | none => noRecord) s s1 t) ∧
    (∀ p, Starts Forms.mcancel w s k s1 → Takes w s1 → turn → bit c.rxcfg 63 = true → c.post (lo64 k.a).toNat = some p →
      Performs (.mcancel w) s fun t => LandsNow w (if p.st = 0 then 1 else 0) s s1 t ∧ Advances s t ∧
        (p.st ≠ 0 → SameCtxs s t) ∧
        (p.st = 0 → (t.myCtx.post p.id).map Post.st = some 2 ∧ t.myCtx.comps.map Comp.post = c.comps.map Comp.post ++ [p.id])) ∧
    (let any := lo64 k.a = BitVec.allOnes 64
     Starts Forms.mcomp w s k s1 → TakesMany w 2 s1 → bit c.rxcfg 63 = true → (any ∨ (c.post (lo64 k.a).toNat).isSome = true) →
      (∀ e, c.comps.find? (fun e => decide any || decide (e.post = (lo64 k.a).toNat)) = some e →
        Performs (.mcomp w) s fun t => LandsRecord w (e.w0, e.w1) s s1 t ∧ Advances s t ∧ t.myCore.l1 = [] ∧
          CtxIs { c with comps := c.comps.filter (fun x => x.post ≠ e.post), posts := c.posts.filter (fun q => q.id ≠ e.post) } s t) ∧
      (c.comps.find? (fun e => decide any || decide (e.post = (lo64 k.a).toNat)) = none → bit w.x 2 = true →
        Performs (.mcomp w) s fun t => LandsRecord w noRecord s s1 t ∧ SameCtxs s t ∧ Advances s t)) ∧
    (Issues Forms.mqry w s → TokensReady (fld w.x 8 8) s → Takes w s →
      Performs (.mqry w) s fun t => SameCtxs s t ∧ Advances s t ∧
        LandsNow w (BitVec.ofNat 64 (match w.c.idx.toNat with
          | 0 => (c.posts.filter fun p => p.st = 0).length
          | 1 => c.unexp.length
          | 2 => eagerUsed c
          | _ => c.refused)) s s t)

/-- `cslot` asks its station for a slot and lands the handle or status it answers, 2^63 + 4 where no station can be reached; `cred`, `cbcast`
and `cbar` send a contribution; `cfree` tells the station and `cqry` lands what a station of the package shows (14 R354 to R356, R362,
R363).
What a station does with the first request, contribution or `cfree` that has arrived: it answers a request, keeps a contribution in time
and refuses any other, and finishes the slot with the last; a slot finishes with what has come at its deadline, and frees itself one
millisecond after it when done, or as soon as every index has freed it; a delivery reaches its context, whose oldest reply is applied
while it runs, and is held while it does not run or has been evicted (14 R350, R355, R357, R360,
R362, R364).
Operands of the station's events stand in records of the model's own form (log 5). -/
def Obligations.Collectives : Prop :=
  (∀ (w : StrandWord) (s s1 s2 s3 : State) (k : Caps) (tm : TeamAt) (db bs : List Byte) (f : Found) (p : Pend),
     let h := lo64 k.a
     let idx := fld (lo64 k.b) 0 6
     let dst := ((station (hStn h)).map Prod.fst).getD (2 ^ 17)
     let m := s.me.team (fld w.x 0 2)
     let lands := fun (v : Word) (t : State) => LandsNow w v s s1 t ∧ SameCtxs s t ∧ Advances s t
     let answered := fun (v : Word) (t : State) => LandsAnswer w (ofWord v) p s s1 t ∧ SameCtxs s t ∧ Advances s t
     (let d := wordsOfBytes db
      let w0 := d.getD 0 0
      let stn := fld w0 17 15
      let o : CollOp := { cop := fld w0 14 3, fsel := fld w0 12 2, cntm1 := fld w0 6 6, elm1 := fld w0 1 5 }
      Starts Forms.cslot w s k s1 →
       (AnswersTo w p s s1 → Performs (.cslot w) s fun t => answered (lo64 p.val) t ∧ t.me.pend = none) ∧
       (m.valid = true → load h 32 (multiple 32 h) false false s1 = .ok (db, s2) →
       bit w0 0 = false → d.getD 2 0 = 0 → d.getD 3 0 = 0 → o.ok = true → stn / 8192 ≠ 3 → (stn / 8192 = 2 → stn % 256 = 0) →
       reachTeam s.agent m.handle m.desc 0 64 s2 = .ok (tm, s3) →
       (∀ die b, station stn = some (die, b) → unreachable s die = false →
         Asks (destQueue w) (.cslot w) s s1 .slotReq die
           [BitVec.ofNat 64 s.mySlot, BitVec.ofNat 64 stn, tm.ident, BitVec.ofNat 64 (fld w0 32 32), s.myCtx.job.setWidth 64,
            handleOf stn 0 { cop := o.cop, fsel := o.fsel, cntm1 := o.cntm1, elm1 := o.elm1 }, d.getD 1 0] []) ∧
       (s.me.pend = none → Takes w s1 → (station stn = none ∨ ∃ die b, station stn = some (die, b) ∧ unreachable s die = true) →
         Performs (.cslot w) s (lands (BitVec.ofNat 64 (2 ^ 63 + 4)))))) ∧
     (let sends := fun (data : List Byte) (t : State) => SameRegs s t ∧ SameCtxs s t ∧ Advances s t ∧ t.me.held = [] ∧
       t.net = s.net ++ slotsOf s.nextReq .contrib s.cur.die dst
         [BitVec.ofNat 64 s.cur.core, 1, BitVec.ofNat 64 s.mySlot, h, BitVec.ofNat 64 idx, lo64 k.c, BitVec.ofNat 64 (fld k.x 0 7)] data
      Starts Forms.contribute w s k s1 → foreignOut s = false →
       locateIf s1 s1.agent (lo64 k.c) 80 (multiple 128 (lo64 k.c)) .wr false = .ok f →
       s2 = keepFound s1 s1.agent (lo64 k.c) f false →
       (handleOk h idx [0, 1, 2, 3, 4, 5] = true → contribData k s2 = .ok (bs, s3) → Performs (.cred w) s (sends bs)) ∧
       (handleOk h idx [6] = true →
         (idx = 0 → contribData k s2 = .ok (bs, s3) → Performs (.cbcast w) s (sends bs)) ∧
         (idx ≠ 0 → fld (lo64 k.b) 6 58 = 0 → Performs (.cbcast w) s (sends []))) ∧
       (handleOk h idx [7] = true → Performs (.cbar w) s (sends []))) ∧
     (Starts Forms.cfree w s k s1 → handleOk h idx anyCop = true →
       Asks none (.cfree w) s s1 .free dst [BitVec.ofNat 64 s.mySlot, h, BitVec.ofNat 64 idx] [] ∧
       (Answered p s → Performs (.cfree w) s fun t => SameRegs s t ∧ SameMem s t ∧ SameCtxs s t ∧ Advances s t ∧ t.me.pend = none)) ∧
     (Starts Forms.cqry w s k s1 → handleOk h 0 anyCop = true →
       (dst < 8 → Takes w s1 → Performs (.cqry w) s (lands (collQuery (s.rslot dst (handleKey h)) h (nowOf s dst) w.c.idx.toNat))) ∧
       (8 ≤ dst → Asks (destQueue w) (.cqry w) s s1 .free dst [BitVec.ofNat 64 s.mySlot, h, 0] [] ∧
         (AnswersTo w p s s1 → Performs (.cqry w) s fun t => answered (lo64 p.val) t ∧ t.me.pend = none)))) ∧
  (∀ (s s1 : State) (x : NetSlot),
     let die := s.cur.die
     let h := x.w 3
     let idx := (x.w 4).toNat
     let n := handleKey h
     let r := s.rslot die n
     let now := nowOf s die
     let to_ := fun (u t : State) => t = { u with verdict := .performed }
     let ends := fun (part : Bool) (r z : RSlot) =>
       if r.freed.length = r.cntm1 + 1 then z = { ser := r.ser } else z.state = 2 ∧ z.partial_ = part
     (let stn := h.toNat
      let base := ((station stn).map Prod.snd).getD 0
      ∀ s2, takeInbox die .slotReq s = some (x, s1) → stationServe die base x s1 = .ok s2 →
       let (v, u) := slotRequest die base stn (x.w 4) (x.w 5).toNat ((x.w 6).setWidth 16) (hOp (x.w 7)) (x.w 8).toNat s2
       Performs .cslotAtStation s (to_ (answer die x 0 0 0 (toBytes 8 v.toNat) u))) ∧
     (takeInbox die .contrib s = some (x, s1) →
       let refused := fun (cond : Nat) => Performs .contributionArrival s (to_ (sendDelivery die (slotContrib x) (collStatus r cond) none s1))
       (r.state = 0 ∨ r.ser ≠ fld h 0 16 → refused 2) ∧
       (r.state ≠ 0 → r.ser = fld h 0 16 → r.state = 2 ∨ r.deadline now ≤ now → refused 1) ∧
       (r.state = 1 → r.ser = fld h 0 16 → now < r.deadline now →
         ((r.contribs.any fun y => y.1 = idx) = true → refused 3) ∧
         ((r.contribs.any fun y => y.1 = idx) = false → r.cop ≠ 6 →
           (r.contribs.length < r.cntm1 → Performs .contributionArrival s fun t =>
             t.rslot die n = { r with contribs := Tab.put r.contribs idx (slotContrib x) } ∧ SameRegs s t ∧ SameMem s t) ∧
           (r.contribs.length = r.cntm1 → Performs .contributionArrival s fun t =>
             ends false r (t.rslot die n) ∧ SameRegs s t ∧ SameMem s t)))) ∧
     (let m := evSlot s
      let y := s.rslot die m
      (y.state = 1 → y.deadline now ≤ now → Performs .slotDeadline s fun t =>
         ends true y (t.rslot die m) ∧ SameRegs s t ∧ SameMem s t) ∧
      (y.state = 2 → y.deadline now + 1000000 ≤ now → Performs .slotFreeTimeout s fun t =>
         t.rslot die m = { ser := y.ser } ∧ SameRegs s t ∧ SameMem s t ∧ SameCtxs s t)) ∧
     (takeInbox die .free s = some (x, s1) →
       Performs .cfreeAtStation s fun t => SameRegs s t ∧ SameMem s t ∧ SameCtxs s t ∧
         t.rslot die n = if r.state = 0 ∨ r.ser ≠ fld h 0 16 then r else r.noteFree idx) ∧
     (takeInbox die .deliver s = some (x, s1) →
       let slot := (x.w 2).toNat % 16
       let c := s.ctx die slot
       (c.state = 0 → c.evict = false → Performs .collectiveDelivery s (to_ s1)) ∧
       (c.state ≠ 0 ∨ c.evict = true → enginesRun c = false → Performs .collectiveDelivery s fun t =>
         (t.ctx die slot).heldReplies = c.heldReplies ++ [(x.words, x.data)] ∧ SameRegs s t ∧ SameMem s t) ∧
       (enginesRun c = true → c.state ≠ 0 → c.heldReplies = [] → Performs .collectiveDelivery s (to_ (applyDelivery die x.words x.data
         ((s1.modCtx die slot fun c => { c with heldReplies := c.heldReplies ++ [(x.words, x.data)] }).modCtx die slot fun c =>
           { c with heldReplies := [] }))))))

/-- The receive engine: a header that has arrived for a resident context is taken in by an enabled engine and refused by any other; a matched long message is
asked for at its sender's die, which reads it, raises the sender's flag and sends it back, and lands when it is there; a write of `RXCFG` is kept when its fields are in range, and disabling drops what the engine
holds; a control ring's `XNOP` does nothing, `XPOST` adds a post and `XCANCEL` cancels one, each retiring its command (13 R337, R339 to
R341, R348).
Operands of its events stand in records of the model's own form (log 5); a new post's identity is free (log 16). -/
def Obligations.ReceiveEngine : Prop :=
  ∀ (s s1 s2 : State) (x : NetSlot),
    let die := s.cur.die
    let to_ := fun (u t : State) => t = { u with verdict := .performed }
    (takeInbox die .header s = some (x, s1) → rxeServe die (x.src + 1) s1 = .ok s2 →
      let slot := (x.w 2).toNat % 16
      let c := s.ctx die slot
      (c.away = false → c.state = 0 ∨ bit c.rxcfg 63 = false →
        Performs .messageHeaderArrival s (to_ (answer die x cAddressClass 0 0 [] (countRefused die slot s2)))) ∧
      (c.away = false → c.state ≠ 0 → bit c.rxcfg 63 = true → Performs .messageHeaderArrival s (to_ (answer die x 0 0 0 [] (headerIn die slot (slotMsg x) s2))))) ∧
    (let slot := s.hand.ev.a.toNat % 16
     ∀ id m rest p, takeInbox die .pulled s = none → takeInbox die .pull s = none → (s.ctx die slot).pulls = (id, m) :: rest →
      (s.ctx die slot).post id = some p →
      let n := if m.len ≤ p.maxlen ∧ m.len % landSize p.tlr ≠ 0 then 0 else landBytes p m.len
      let num := s.nextReq * 16384 + id
      Performs .rendezvousPull s fun t => SameRegs s t ∧ SameMem s t ∧ (t.ctx die slot).pulls = rest ∧
        (t.ctx die slot).pulling = (s.ctx die slot).pulling ++ [(num, m)] ∧
        t.net = s.net ++ [{ id := s.nextReq, kind := .pull, src := die, dst := m.srcDie,
                            words := [0, BitVec.ofNat 64 num, BitVec.ofNat 64 slot, BitVec.ofNat 64 m.srcSlot, m.srcAddr,
                                      BitVec.ofNat 64 m.srcFlag, BitVec.ofNat 64 n], data := [] }]) ∧
    (let slot := (x.w 3).toNat % 16
     ∀ bs u, takeInbox die .pulled s = none → takeInbox die .pull s = some (x, s1) → x.dst = die →
      readSome (engineAgent die slot) false (x.w 4) (x.w 6).toNat s1 = (none, bs, u) →
      Performs .rendezvousPull s (to_ (send .pulled die x.src [0, x.w 1, x.w 2, 0, 0] bs
        (flagInc die slot (x.w 5).toNat 1 (BitVec.ofNat 16 agentRxe) u)))) ∧
    (let slot := (x.w 2).toNat % 16
     let num := (x.w 1).toNat
     ∀ m p, takeInbox die .pulled s = some (x, s1) → x.dst = die → (s.ctx die slot).pulling.find? (fun y => decide (y.1 = num)) = some (num, m) →
      (s.ctx die slot).post (num % 16384) = some p → (x.w 3).setWidth 8 = 0#8 →
      Performs .rendezvousPull s (to_ (landMessage die slot p m x.data none
        (s1.modCtx die slot fun c => { c with pulling := c.pulling.filter fun y => y.1 ≠ num })))) ∧
    (let slot := s.cur.unit % 16
     let v := s.hand.ev.a
     ∀ u, writeRxcfg die slot v s = .ok u →
      Performs .rxcfgWrite s fun t => (t.ctx die slot).rxcfg = v ∧ SameRegs s t ∧ SameMem s t ∧
        (bit (s.ctx die slot).rxcfg 63 = true → bit v 63 = false →
          (t.ctx die slot).posts = [] ∧ (t.ctx die slot).unexp = [] ∧ (t.ctx die slot).comps = [] ∧ (t.ctx die slot).pulls = [] ∧ (t.ctx die slot).pulling = [])) ∧
    (s.hand.cmd.opnd = 0 → Performs .xnop s (Retires s s)) ∧
    (let slot := rxeSlot s
     let h := s.hand.cmd
     let g := engineAgent die slot
     ∀ tm db t1 s3 s4 p, fld h.opnd 7 33 = 0 → bit (s.ctx die slot).rxcfg 63 = true → reachTeam g false h.w1 0 64 s = .ok (tm, s1) →
      h.w2.toNat % 32 = 0 → readPiece g h.w2 32 s1 = .ok (db, s2) → readTlr 0 g ((wordsOfBytes db).getD 2 0) s2 = .ok (t1, s3) →
      makePost (wordsOfBytes db) t1 tm.ident (fld h.opnd 0 7) = .ok p → quotaLeft (s.ctx die slot) = true →
      rxeServe die (rankEngine (ringHere s)) s3 = .ok s4 →
      let id := newPostId (s.ctx die slot) s4.takeFree.1
      (h.w3 = 0 → Performs .xpost s (Retires s (postIn die slot { p with id } s4.takeFree.2))) ∧
      (∀ f hit u, h.w3 ≠ 0 → locate s3 g h.w3 8 8 .wr false = .ok f →
        writePiece (rxeWriter die slot) h.w3 ((toBytes 8 id).map some) s4.takeFree.2 = .ok (hit, u) →
        Performs .xpost s (Retires s (postIn die slot { p with id } (keepFound u g h.w3 f false))))) ∧
    (let slot := rxeSlot s
     ∀ p, fld s.hand.cmd.opnd 14 26 = 0 → bit (s.ctx die slot).rxcfg 63 = true → rxeServe die (rankEngine (ringHere s)) s = .ok s1 →
      (s.ctx die slot).post (fld s.hand.cmd.opnd 0 14) = some p → Performs .xcancel s (Retires s (cancelPost die slot p s1).2))

/-! ### Traps and system instructions (15 R365 to R388) -/

/-- `trap`, `brk` and `fallow` complete, and their core takes a trap in the next cycle: cause `SOFTWARE_TRAP`, `BREAKPOINT` or `FALLOW`,
`TINFO` the X field (15 R370; 16 R395, R409).
A core takes its due trap: the frame is filled, and the disposition of the cause decides what follows: the handler at `TVEC`, with the
cause and the information word in s28 and s29; the supervisor, whose context is pre-empted; or the fallow wave. The traps of a core that
can never proceed and of a segment overrun are taken so, and the latter is counted in `SEGOVR`. In handler mode a trap only puts its cause
into the frame's second field. A stop from outside fills the frame and nothing follows it (15 R365 to R368, R380, R383; 04 R99).
The events of the entry are of the model's own form (log 5); log 17 names its choices. -/
def Obligations.Traps : Prop :=
  (∀ (w : StrandWord) (s : State),
     ∀ r ∈ [(Instr.trap w, Forms.trap, cSoftwareTrap), (.brk w, Forms.brk, cBreakpoint), (.fallow w, Forms.brk, cFallow)],
       Issues r.2.1 w s → s.cur.bundle = false → s.myCore.due = none →
       Performs r.1 s fun t => SameRegs s t ∧ SameMem s t ∧ SameCtxs s t ∧ Advances s t ∧
         t.myCore.due = some { strd := s.cur.strand, cause := r.2.2, info := w.x.setWidth 64, upc := some s.cur.pc, t := s.cyc + 1 }) ∧
  (∀ (s : State) (d : TrapDue) (i : Instr),
     (i = .trapEntry ∨ (i = .queueDeadlock ∧ d.cause = cQueueDeadlock) ∨ (i = .segmentOverrun ∧ d.cause = cSegmentOverrun)) →
     s.myCore.due = some d → d.stop = false → d.t ≤ s.cyc → (s.myCore.strand 1).pend = none → s.myCore.iter.isSome = true →
     s.myCore.slot < 16 →
     let x := s.ctx s.cur.die s.myCore.slot
     let a := s.myCore.strand 1
     let counted := fun (t : State) => (t.ctx s.cur.die s.myCore.slot).reg 0x019 =
       if d.cause = cSegmentOverrun then bumpOvr (x.reg 0x019) 0 else x.reg 0x019
     let how := disposition x d.cause d.prec d.info
     (s.myCore.frame = none → a.handler = false →
       (how = 1 → x.reg 0x012 ≠ 0 →
         Performs i s fun t => ∃ f, Framed d s t f ∧ f.info = d.info ∧ counted t ∧ f.s28 = a.sreg 28 ∧ f.s29 = a.sreg 29 ∧
           (t.myCore.strand 1).pc = x.reg 0x012 ∧ (t.myCore.strand 1).handler = true ∧ (t.myCore.strand 1).run = .running ∧
           (t.myCore.strand 1).ready = d.t + 2 ∧ (t.myCore.strand 1).sreg 28 = f.tcause ∧ (t.myCore.strand 1).sreg 29 = d.info ∧
           ∀ m, m ≠ 28 → m ≠ 29 → (t.myCore.strand 1).sreg m = a.sreg m) ∧
       (how ≠ 2 → (how = 1 → x.reg 0x012 = 0) → x.state = 1 →
         Performs i s fun t => SameRegs s t ∧ ∃ f, Framed d s t f ∧ f.info = d.info ∧ counted t ∧
           (t.ctx s.cur.die s.myCore.slot).state = 2 ∧ (t.ctx s.cur.die s.myCore.slot).lcause = d.cause ∧
           (t.ctx s.cur.die s.myCore.slot).lcore = s.cur.core) ∧
       (how = 2 → x.state = 1 → x.fst = 0 →
         Performs i s fun t => SameRegs s t ∧ ∃ f, Framed d s t f ∧ (t.ctx s.cur.die s.myCore.slot).fst = 1 ∧
           (t.ctx s.cur.die s.myCore.slot).wseq = (x.wseq + 1) % 65536 ∧ counted t ∧
           f.info = if d.cause = cFallow then BitVec.ofNat 64 ((x.wseq + 1) % 65536) else d.info)) ∧
     (∀ f, s.myCore.frame = some f → a.handler = true →
       Performs i s fun t => SameRegs s t ∧ t.myCore.frame = some { f with scnd := d.cause })) ∧
  (∀ (s : State) (d : TrapDue), s.myCore.due = some d → d.stop = true → d.cause ≠ cSegmentOverrun → d.t ≤ s.cyc →
     (s.myCore.strand 1).pend = none → s.myCore.frame = none →
     Performs .trapEntry s fun t => SameRegs s t ∧ ∃ f, Framed d s t f ∧ f.info = d.info)

/-- `rett` resumes the core from its frame in the next cycle: every strand at its frame PC, repeating and waiting as the frame says, in the
frame's lock-step state; A's s28 and s29 as the frame saved them, every other register as it is; each replay entry lands `RCYC` cycles on
(15 R371).
In handler mode `rpli` lands a frame word, and `rplr` writes one that may be written; any other index or value, and each of the three
outside handler mode, traps with `ILLEGAL_OPERAND` (15 R370). -/
def Obligations.HandlerMode : Prop :=
  (∀ (w : StrandWord) (s : State) (f : Frame), Issues Forms.rett w s → s.cur.strand = 1 → s.me.handler = true → s.myCore.frame = some f →
     Performs (.rett w) s fun t => SameMem s t ∧ SameCtxs s t ∧ SameOthers s t ∧
       t.myCore.frame = none ∧ t.myCore.lock = f.lock ∧
       t.myCore.flights = s.myCore.flights ++ f.replay.map (fun e => { e with due := s.cyc + e.due }) ∧
       (∀ n, n < 6 → (t.myCore.strand n).pc = Tab.get 0 f.tpc n ∧ (t.myCore.strand n).rpt = rptOfWord (Tab.get 0 f.rpt n) ∧
         (t.myCore.strand n).handler = false ∧ (t.myCore.strand n).ready = s.cyc + 1 ∧
         ((s.myCore.strand n).run ≠ .idle → (t.myCore.strand n).run = if fld (Tab.get 0 f.wait n) 60 4 = 7 then .done else .running)) ∧
       t.me.sreg 28 = f.s28 ∧ t.me.sreg 29 = f.s29 ∧ (∀ m, m ≠ 28 → m ≠ 29 → t.me.sreg m = s.me.sreg m) ∧
       t.me.preds = s.me.preds ∧ t.me.fsr = s.me.fsr ∧ t.me.cbsel = s.me.cbsel ∧ t.me.ctxsel = s.me.ctxsel) ∧
  (∀ (w : StrandWord) (s s1 : State) (k : Caps) (f : Frame),
     let i := zx k.a 16
     (s.cur.strand = 1 → s.me.handler = true → s.myCore.frame = some f →
       (Issues Forms.rpli w s → capture Forms.rpli asIs w s = .ok (k, s1) →
         (Takes w s1 → i ≤ frameTop → f.beyond i = false →
           Performs (.rpli w) s fun t => LandsNow w (f.word s1.myCore i) s s1 t ∧ SameCtxs s t ∧ Advances s t ∧
             (destQueue w = none → SameMem s t)) ∧
         (frameTop < i ∨ f.beyond i = true → TrapsWith (.rpli w) s cIllegalOperand)) ∧
       (Issues Forms.rplr w s → capture Forms.rplr asIs w s = .ok (k, s1) →
         (∀ g, i ≤ frameTop → f.setWord i (lo64 k.b) = some g →
           Performs (.rplr w) s fun t => SameRegs s t ∧ SameMem s t ∧ SameCtxs s t ∧ Advances s t ∧ t.myCore.frame = some g) ∧
         (frameTop < i ∨ f.setWord i (lo64 k.b) = none → TrapsWith (.rplr w) s cIllegalOperand))) ∧
     (s.me.handler = false →
       (Issues Forms.rett w s → TrapsWith (.rett w) s cIllegalOperand) ∧ (Issues Forms.rpli w s → TrapsWith (.rpli w) s cIllegalOperand) ∧
       (Issues Forms.rplr w s → TrapsWith (.rplr w) s cIllegalOperand)))

/-- `mfsr` lands the register its X field names, of the strand, of the context it acts on, of its die or of the package; `mtsr` writes one:
`FSR`, `CBSEL` and `CTXSEL` of the strand alone, a register of a context with no behaviour of its own as written, and any other as its own
rules have it (02 R43; 15 R373 to R375).
Software writes `FSR`: the rounding mode is taken, and a flag whose bit is written as 1 is cleared; a rounding mode above 4 is refused
(02 R43). -/
def Obligations.SystemRegisters : Prop :=
  (∀ (w : StrandWord) (s s1 : State) (k : Caps),
     let sel := selOf w.x
     let v := lo64 k.a
     let n := actsOn s
     let done := fun (t : State) => SameMem s t ∧ SameOthers s t ∧ Advances s t ∧ (∀ m, t.me.sreg m = s.me.sreg m) ∧ t.me.vregs = s.me.vregs ∧
       t.me.masks = s.me.masks ∧ t.me.preds = s.me.preds
     (Issues (Forms.mfsr w.x) w s → Takes w s →
       Performs (.mfsr w) s fun t => (destQueue w = none → SameMem s t) ∧
         Lands 0x1A4 1 w (if sel < 3 then readStrandReg s.me sel else readReg s.cur.die n (fld s.me.ctxsel 8 4) sel s) s s t) ∧
     (Issues (Forms.mtsr w.x) w s → capture (Forms.mtsr w.x) asIs w s = .ok (k, s1) →
       (∀ u, sel < 3 → writeStrandReg s.me sel v = .ok u →
         Performs (.mtsr w) s fun t => done t ∧ SameCtxs s t ∧ t.me.fsr = u.fsr ∧ t.me.cbsel = u.cbsel ∧ t.me.ctxsel = u.ctxsel) ∧
       (perCtx sel = true → sel ≠ 0x802 → sel ≠ 0x820 → ctxRegOk s.cur.die sel v = true →
         Performs (.mtsr w) s fun t => done t ∧ SameRegs s t ∧ t.pkg = s.pkg ∧
           (∀ j, (t.ctx s.cur.die n).reg j = if j = sel ∧ sel < 0x800 then ctxRegKept sel v else (s.ctx s.cur.die n).reg j) ∧
           (∀ j, (t.ctx s.cur.die n).brkReg j = if j = sel ∧ 0x800 ≤ sel then v else (s.ctx s.cur.die n).brkReg j) ∧
           ∀ d m, (d, m) ≠ (s.cur.die, n) → t.ctx d m = s.ctx d m) ∧
       (∀ u, 3 ≤ sel → (if sel = 0x068 then writeHment (capturedFmt s1) s.cur.die n v s1
                        else writeReg s.cur.die n (fld s.me.ctxsel 8 4) sel v s1) = .ok u → u.cur = s1.cur →
         Performs (.mtsr w) s fun t => t.mem = u.mem ∧ t.pkg = u.pkg ∧ ∀ d m, t.ctx d m = u.ctx d m))) ∧
  (∀ (t : Strand) (v : Word),
     (fld v 8 3 ≤ 4 → ∃ u, writeFsr t v = .ok u ∧ fld u.fsr 8 3 = fld v 8 3 ∧
       (∀ i, i < 5 → bit u.fsr i = (bit t.fsr i && !bit v i)) ∧ fld u.fsr 5 3 = 0 ∧ fld u.fsr 11 5 = 0 ∧ u.regs = t.regs) ∧
     (4 < fld v 8 3 → writeFsr t v = .error (.trap cReservedField 0 0)))

/-- In a context without supervisor privilege every instruction that needs it traps with `PRIVILEGE`, whatever its guard (03 R66, R81; 15
R373, R379). -/
def Obligations.Privilege : Prop :=
  ∀ (w : StrandWord) (s : State),
    ∀ r ∈ [(Instr.mfsr w, Forms.mfsr w.x), (.mtsr w, Forms.mtsr w.x), (.tlbiAll w, Forms.tlbi w), (.tlbiVa w, Forms.tlbi w),
           (.tlbiWin w, Forms.tlbi w), (.sve w, Forms.sve), (.pgmig w, Forms.pgmig), (.cntsel w, Forms.cntsel)],
      Fresh s → s.sup = false → r.2.sup = true → passes (checkWord { r.2 with sup := false } w s) = true → TrapsWith r.1 s cPrivilege

/-- `tlbi` discards what its die's translation caches hold for the selected context: everything, the page of an address, or the checks made
through a window handle; with a translation go the checks that were passed at that context, in the whole field (15 R387; 13 R333).
`sve` lets the stopped save of a context go on and lands its new `SVST`; a context whose save has not stopped traps (15 R386). -/
def Obligations.SupervisorOps : Prop :=
  (∀ (w : StrandWord) (s s1 : State) (k : Caps), Issues (Forms.tlbi w) w s → capture (Forms.tlbi w) asIs w s = .ok (k, s1) →
     let die := s.cur.die
     let done := fun (t : State) => SameRegs s t ∧ SameMem s t ∧ SameCtxs s t ∧ Advances s t
     let cleared := fun (t : State) => ∀ d c n, n < 6 →
       ∀ x, x ∈ (t.strand d c n).checks ↔ x ∈ (s.strand d c n).checks ∧ ¬ (x.die = die ∧ x.slot = s.selCtx)
     Performs (.tlbiAll w) s (fun t => done t ∧ cleared t ∧ (t.die die).tlb = (s.die die).tlb.filter fun e => e.slot ≠ s.selCtx) ∧
     Performs (.tlbiVa w) s (fun t => done t ∧ cleared t ∧ ∀ e, e ∈ (t.die die).tlb ↔ e ∈ (s.die die).tlb ∧
       ¬ (e.slot = s.selCtx ∧ e.page = (lo64 k.a).toNat / 2 ^ pageBits e.leaf.level)) ∧
     Performs (.tlbiWin w) s (fun t => done t ∧ ∀ c n, n < 6 → (s.core die c).home = some s.selCtx →
       ∀ x, x ∈ (t.strand die c n).checks ↔ x ∈ (s.strand die c n).checks ∧ x.handle ≠ zx k.a 16)) ∧
  (∀ (w : StrandWord) (s s1 s2 : State) (k : Caps) (v : Word), Issues Forms.sve w s → capture Forms.sve asIs w s = .ok (k, s1) →
     let n := (lo64 k.a).toNat
     (n < 16 → (s.ctx s.cur.die n).state = 5 → resumeSave s.cur.die n s1 = .ok (v, s2) → Takes w s2 →
       Performs (.sve w) s fun t => (∀ m, t.me.sreg m = if w.dk = .scal ∧ w.d.toNat = m ∧ m ≠ 0 ∧ m < 32 then v else s2.me.sreg m) ∧
         (destQueue w = none → t.mem = s2.mem) ∧ ∀ d m, t.ctx d m = s2.ctx d m) ∧
     (16 ≤ n ∨ (n < 16 ∧ (s.ctx s.cur.die n).state ≠ 5) → TrapsWith (.sve w) s cIllegalOperand))

/-- `pgmig` marks the leaf of the page as moving and discards its translations; it waits until the copy point, at which no line of the page
is pinned, has copied the page and written the new leaf, and then lands how many words kept an uncorrectable error; no die keeps a
translation by the old leaf (07 R190; 15 R388).
The copy point is one instant, an event of the model's own form (logs 5, 7 and 17). -/
def Obligations.Migration : Prop :=
  ∀ (w : StrandWord) (s s1 : State) (k : Caps),
    let va := lo64 k.a
    let b := lo64 k.b
    let slot := s.selCtx
    (∀ l, Issues Forms.pgmig w s → capture Forms.pgmig asIs w s = .ok (k, s1) → s.me.pend = none → canonical va = true →
      inAperture va = false → walk s1 s.cur.die slot va = .ok l → newLeafOk b l.level = true → bit l.pte 51 = false →
      WaitsOn (.pgmig w) s 10 0 fun t => SameRegs s t ∧ SameCtxs s t ∧ t.mem = (s.putWord l.key (l.pte ||| (1#64 <<< 51))).mem ∧
        t.me.pend = some { id := s.nextReq, val := migWords va b l.key l.level slot } ∧
        ∀ e ∈ (t.die s.cur.die).tlb, ¬ (e.slot = slot ∧ e.page = va.toNat / 2 ^ pageBits e.leaf.level)) ∧
    (∀ p ps key level n, (s.strand s.cur.die s.cur.core 1).pend = some p → p.answered = false → level < 8 → n < 16 → key < 2 ^ 64 →
      p.val = migWords va b key level n →
      let old : Leaf := { pte := setFld (s.word key) 51 1 0, key, level }
      let base : Word := BitVec.ofNat 64 (va.toNat / 2 ^ pageBits level * 2 ^ pageBits level)
      migPieces s (s.ctx s.cur.die n).job base old { pte := b, key, level } = .ok ps →
      (∀ q ∈ ps, linePinned s (q.1 / 128) = false ∧ linePinned s (q.1 / 128 + 1) = false) →
      Performs .pgmigCopyPoint s fun t => SameRegs s t ∧ SameCtxs s t ∧
        t.mem = ((copyPage ps s).2.putWord key b).mem ∧ (∀ d e, e ∈ (t.die d).tlb ↔ e ∈ (s.die d).tlb ∧ e.leaf.key ≠ key) ∧
        (t.strand s.cur.die s.cur.core 1).pend =
          some { p with answered := true, cause := 0, info := 0, addr := 0, val := BitVec.ofNat 1024 (copyPage ps s).1 }) ∧
    (∀ p, Issues Forms.pgmig w s → capture Forms.pgmig asIs w s = .ok (k, s1) → Answered p s → Takes w s1 →
      Performs (.pgmig w) s fun t => LandsNow w (lo64 p.val) s s1 t ∧ SameCtxs s t ∧ Advances s t ∧ t.me.pend = none ∧
        (destQueue w = none → SameMem s t))

/-! ### Monitoring, power and time (16, 17) -/

/-- `cntrd` lands an event counter with its overflow bit; `cntsel` gives it a configuration that applies from the next cycle; `wfgrd` lands a
position of the wait-for log, or its counts; `trmark` appends a mark of the trace buffer where that is enabled (16 R410 to R415). -/
def Obligations.Monitors : Prop :=
  ∀ (w : StrandWord) (s s1 : State) (k : Caps),
    let n := (lo64 k.a).toNat
    let v := lo64 k.b
    let d := s.die s.cur.die
    let lands := fun (v : Word) (t : State) => LandsNow w v s s1 t ∧ SameCtxs s t ∧ Advances s t ∧ (destQueue w = none → SameMem s t)
    let quiet := fun (t : State) => SameRegs s t ∧ SameMem s t ∧ SameCtxs s t ∧ Advances s t
    (Issues Forms.cntrd w s → capture Forms.cntrd asIs w s = .ok (k, s1) →
      (n ≤ 63 → Takes w s1 → Performs (.cntrd w) s (lands (BitVec.ofNat 64 (b2n (d.counter n).ovf * 2 ^ 63 + (d.counter n).count % 2 ^ 48)))) ∧
      (63 < n → TrapsWith (.cntrd w) s cIllegalOperand)) ∧
    (Issues Forms.cntsel w s → capture Forms.cntsel asIs w s = .ok (k, s1) →
      (n ≤ 63 → fld v 12 36 = 0 → fld v 0 12 ∈ eventCodes →
        Performs (.cntsel w) s fun t => quiet t ∧ ((t.die s.cur.die).counter n).next = some v ∧
          ((t.die s.cur.die).counter n).cfg = (d.counter n).cfg ∧
          ∀ m, m ≠ n → ((t.die s.cur.die).counter m).next = (d.counter m).next) ∧
      (n ≤ 63 → fld v 12 36 ≠ 0 ∨ fld v 0 12 ∉ eventCodes → TrapsWith (.cntsel w) s cReservedField) ∧
      (63 < n → TrapsWith (.cntsel w) s cIllegalOperand)) ∧
    (Issues Forms.wfgrd w s → capture Forms.wfgrd asIs w s = .ok (k, s1) →
      let r := d.wflog.getD n 0
      (n < 4096 → Takes w s1 → Performs (.wfgrd w) s (lands (if fld r 60 4 = s.mySlot ∨ s.sup = true then r else 0))) ∧
      (n = 4096 → Takes w s1 →
        Performs (.wfgrd w) s (lands (BitVec.ofNat 64 (d.wflost % 2 ^ 32 * 2 ^ 32 + d.wflog.length)))) ∧
      (4096 < n → TrapsWith (.wfgrd w) s cIllegalOperand)) ∧
    (Issues Forms.trmark w s → capture Forms.trmark asIs w s = .ok (k, s1) →
      let who := agentStrand s.cur.core s.cur.strand
      Performs (.trmark w) s fun t => quiet t ∧
        (t.die s.cur.die).marks = if bit (d.dbgReg 0x860) 63 then
          d.marks ++ [(who, BitVec.ofNat 64 (who % 4096 * 2 ^ 52 + s.mySlot % 16 * 2 ^ 48 + zx k.a 32), d.ftime)] else d.marks)

/-- `timrd` lands field time, `enrd` the energy of the iteration's task, of the context or of the die, and `pwrq` the cap, the package's and
the die's draw or the cluster's clock; `pace` records a grant of the core and lands the clock it asks for (17 R425 to R427).
The clock `pace` asks for is the least multiple of 50 MHz from 800 to 2,600 that finishes the cycles by the deadline; where none does it
asks for 2,600 and says that the deadline will be missed; a deadline that is past asks for 2,600 (17 R426). -/
def Obligations.PowerAndTime : Prop :=
  (∀ (w : StrandWord) (s s1 : State) (k : Caps),
     let d := s.die s.cur.die
     let lands := fun (v : Word) (u t : State) => LandsNow w v s u t ∧ SameCtxs s t ∧ Advances s t ∧ (destQueue w = none → SameMem s t)
     (Issues Forms.timrd w s → Takes w s → Performs (.timrd w) s fun t => Lands 0x1B6 1 w d.ftime s s t ∧ (destQueue w = none → SameMem s t)) ∧
     (Issues Forms.enrd w s → Takes w s →
       (w.c.idx = 1 → Performs (.enrd w) s (lands s.myCtx.energy s)) ∧
       (w.c.idx = 2 → Performs (.enrd w) s (lands d.energy s)) ∧
       (∀ i x, w.c.idx = 0 → s.myCore.iter = some i → d.tasks.find? (fun x => x.num = i.task) = some x →
         Performs (.enrd w) s (lands x.charge s))) ∧
     (Issues Forms.pwrq w s → Takes w s →
       (w.c.idx = 0 → Performs (.pwrq w) s (lands (BitVec.ofNat 64 s.pkg.cap) s)) ∧
       (w.c.idx = 1 → Performs (.pwrq w) s (lands (BitVec.ofNat 64 s.pkg.draw) s)) ∧
       (w.c.idx = 2 → Performs (.pwrq w) s (lands (BitVec.ofNat 64 d.draw) s)) ∧
       (w.c.idx = 3 → Performs (.pwrq w) s (lands (BitVec.ofNat 64 (clusterMhz s.cur.die (s.cur.core / 8) s)) s))) ∧
     (Issues Forms.pace w s → capture Forms.pace asIs w s = .ok (k, s1) → Takes w s1 →
       let until_ := (lo64 k.a).toNat
       let ask := paceAsk d.ftime.toNat until_ (zx k.b 32 * 16)
       Performs (.pace w) s fun t => lands (BitVec.ofNat 64 (b2n ask.2 * 2 ^ 63 + ask.1)) s1 t ∧ t.myCore.grant = some (ask.1, until_))) ∧
  (∀ (now until_ n : Nat),
     (until_ ≤ now → paceAsk now until_ n = (2600, false)) ∧
     (now < until_ → ∀ f, paceAsk now until_ n = (f, false) ↔
       (800 ≤ f ∧ f ≤ 2600 ∧ f % 50 = 0 ∧ n * 1000 ≤ (until_ - now) * f ∧
         ∀ g, 800 ≤ g → g % 50 = 0 → n * 1000 ≤ (until_ - now) * g → f ≤ g)) ∧
     (now < until_ → (until_ - now) * 2600 < n * 1000 → paceAsk now until_ n = (2600, true)))

/-! ### The drill (10, 11) -/

/-- The commands that set a ring's drill take effect and retire at their take: `win`, `crng`, `asrc`, `pass`, `acc`, `rpol` and `lzr` set what
their fields say, `dnop` and a fence set nothing, `sym.close` closes the session; `dloop` goes back to its body's first word, or with a count
of 0 does nothing (11 R273 to R281). -/
def Obligations.DrillSettings : Prop :=
  ∀ (s : State), RingClear s →
    let die := s.cur.die
    let k := drillHere s
    let o := opnd s
    let only := fun (fs : List (Nat × Nat)) => opndOnly s fs = true
    let done := fun (i : Instr) (len : Nat) (f : Drill → Drill) =>
      Performs i s fun t => DrillRetires len f s t ∧ DrillFrame s s t ∧ SameAcc s t
    let sets := fun (i : Instr) (f : DrillSet → DrillSet) => done i 1 fun d => { d with set := f d.set }
    let r := s.ring die k
    (only [] → done .dnop 1 id ∧ done .dfence 1 id) ∧
    (only [(0, 8)] → 1 ≤ o 0 7 → o 0 7 ≤ 96 → sets .win fun x => { x with win := o 0 7, range := decide (o 7 1 = 1) }) ∧
    (only [(0, 3)] → sets .crng fun x => { x with gain := o 0 3 }) ∧
    (only [(0, 5)] → o 0 2 ≠ 3 → (o 2 3 = 0 ∨ o 0 2 = 1) → sets .asrc fun x => { x with src := o 0 2, pdie := o 2 3 }) ∧
    (only [(0, 2)] → sets .pass fun x => { x with aspl := decide (o 0 1 = 1), wspl := decide (o 1 1 = 1) }) ∧
    (only [(0, 1)] → sets .accMode fun x => { x with fresh := decide (o 0 1 = 1) }) ∧
    (only [(0, 11)] → o 0 2 ≤ 1 → o 2 2 ≤ 2 → sets .rpol fun x => { x with rep := o 0 2, act := o 2 2, cmask := o 4 7 }) ∧
    (only [(0, 7)] → 1 ≤ o 0 7 → o 0 7 ≤ 100 → sets .lzr fun x => { x with thr := o 0 7 }) ∧
    (only [(39, 1), (38, 1)] → (o 38 1 ≠ 1 → s.hand.cmd.w1 = 0) → (o 38 1 = 1 → bit s.hand.cmd.w1 0 = false) →
      (s.drill die k).sess = true → done .symClose 2 fun d => { d with sess := false, session := false }) ∧
    (only [(0, 16)] → 1 ≤ o 0 16 → o 0 16 ≤ r.size - 1 → o 0 16 ≤ r.head →
      loopInside die k r.head (o 0 16) (r.head - o 0 16) s = false → done .dloop 1 id) ∧
    (only [(0, 32)] → 1 ≤ o 0 16 → o 0 16 ≤ r.size - 1 → o 0 16 ≤ r.head → 0 < o 16 16 →
      loopInside die k r.head (o 0 16) (r.head - o 0 16) s = false →
      Performs .dloop s fun t => DrillFrame s s t ∧ SameAcc s t ∧ t.drill die k = s.drill die k ∧ (t.ring die k).ret = r.ret ∧
        (t.ring die k).head = r.head - o 0 16 ∧ (t.ring die k).loop = some (r.head, r.head - o 0 16, o 16 16))

/-- The commands of the drill that have something to do after their take: `sym` opens its session once the lasers are lit and its instant has
come, a calibration takes its slots, a broadcast session is joined and left, `acc.clr` sets its elements to +0 and ok, `drain` writes its
tiles, each as soon as nothing it waits for is under way (10 R252, R257 to R262; 11 R274 to R279, R287, R289, R290).
Which commands wait for which is the model's choice where the spec leaves it open (log 18). -/
def Obligations.DrillWork : Prop :=
  ∀ (s u : State), RingClear s →
    let die := s.cur.die
    let k := drillHere s
    let d := s.drill die k
    let o := opnd s
    let w1 := s.hand.cmd.w1
    let only := fun (fs : List (Nat × Nat)) => opndOnly s fs = true
    let done := fun (i : Instr) (len : Nat) (f : Drill → Drill) =>
      Performs i s fun t => DrillRetires len f s t ∧ DrillFrame s s t ∧ SameAcc s t
    let waits := fun (i : Instr) (len : Nat) (f : Drill → Drill) (j : DrillJob) =>
      Performs i s fun t => DrillHolds len f j s t ∧ DrillFrame s s t ∧ SameAcc s t
    let idle := d.wins = []
    let runs := enginesRun (s.ctx die (s.ring die k).owner) = true
    (only [(38, 1)] → (o 38 1 ≠ 1 → w1 = 0) → (o 38 1 = 1 → bit w1 0 = false) → d.sess = false →
      let at_ := if o 38 1 = 1 then some w1 else none
      let now := (s.die die).lit = true ∧ (at_ = none ∨ w1.toNat ≤ (s.die die).ftime.toNat)
      (now → done .symOpen 2 fun x => { x with sess := true, session := true }) ∧
      (¬ now → waits .symOpen 2 (fun x => { x with sess := true }) (.opening at_))) ∧
    (only [(0, 2)] → d.sess = true →
      (o 0 2 = 0 → waits .calFull 1 id (.slots 4096 .full) ∧ waits .skewArray 1 id (.slots 2 .skew)) ∧
      (o 0 2 = 1 → waits .calConv 1 id (.slots 16 .banks) ∧ (d.bcIn = true → waits .skewPath 1 id (.slots 2 .path))) ∧
      (o 0 2 = 2 → waits .calMod 1 id (.slots 8 .groups))) ∧
    (only [(0, 4)] → waits .crngTrim 1
      (fun x => { x with set := { x.set with gain := o 0 3, trims := some s.free } }) (.slots 16 .banks)) ∧
    (d.bcIn = false → d.bc = none → bit w1 0 = false →
      (let b : Bcast := { sid := o 18 8, producer := true, peers := o 8 8, far := o 16 2, at_ := w1 }
       only [(18, 8), (16, 2), (8, 8)] → d.set.src = 0 → (o 8 8 ≠ 0 ∨ o 16 2 ≠ 0) → d.sess = true →
        waits .bcst 2 (fun x => { x with bcIn := true, bc := some b }) (.forming b)) ∧
      (let b : Bcast := { sid := o 18 8, producer := false, peers := o 0 3, far := o 3 2, at_ := w1 }
       only [(18, 8), (0, 5)] → ((d.set.src = 1 ∧ d.set.pdie = o 0 3) ∨ (d.set.src = 2 ∧ o 3 2 ≠ 0)) →
        waits .bjoin 2 (fun x => { x with bcIn := true, bc := some b }) (.forming b))) ∧
    (w1 = 0 →
      ∀ x ∈ [(Instr.bcstEnd, true, [(39, 1), (18, 8), (16, 2), (8, 8)]), (.bjoinEnd, false, [(39, 1), (18, 8), (0, 5)])], only x.2.2 →
        (idle → done x.1 2 fun y =>
          { y with bcIn := y.bcIn && !takesIn y (o 18 8) x.2.1, bc := y.bc.filter fun b => !(decide (b.sid = o 18 8) && b.producer == x.2.1) }) ∧
        (¬ idle → waits x.1 2 (fun y => { y with bcIn := y.bcIn && !takesIn y (o 18 8) x.2.1 }) (.leaving (o 18 8) x.2.1))) ∧
    (let n := if o 0 17 = 0 then 131072 else o 0 17
     only [(38, 2), (17, 17), (0, 17)] → o 17 17 + n ≤ allotSize die k s →
      (idle → runs → Performs .accClr s fun t => DrillRetires 1 id s t ∧ DrillFrame s s t ∧
        ∀ i, accRead die i t = if allotFirst die k s + o 17 17 ≤ i ∧ i < allotFirst die k s + o 17 17 + n then (0, 0) else accRead die i s) ∧
      ((¬ idle ∨ ¬ runs) → waits .accClr 1 id (.clear (o 17 17) n))) ∧
    (let w0 : Word := s.hand.cmd.opnd.setWidth 64
     only [(12, 28)] → fld w1 56 8 = 0 → (o 12 1 = 1 ∨ fld w1 16 12 = 0) → fld w1 44 12 * fld w1 32 12 ≠ 0 → 1 ≤ o 15 8 → o 15 8 ≤ 5 →
      o 23 17 + fld w1 44 12 * fld w1 32 12 ≤ allotSize die k s →
      (∃ v st, drainTiles w0 w1 die (s.ring die k).owner s = .ok (v, st) ∧ fld ((s.die die).tile v) 50 8 = o 15 8) →
      (idle → runs → drainNow die k w0 w1 (takenState 2 (.drain w0 w1) s) = .ok u →
        Performs .drain s fun t => SameRegs s t ∧ t.mem = u.mem ∧ (∀ i, accRead die i t = accRead die i u) ∧
          (t.drill die k).taken = [] ∧ (t.drill die k).set = d.set ∧ (t.ring die k).head = (s.ring die k).head + 2) ∧
      ((¬ idle ∨ ¬ runs) → waits .drain 2 id (.drain w0 w1)))

/-- A matrix command is taken with its operands and its place in the accumulators checked, and holds its ring until its windows are judged;
a resumed one starts where its record says, without fresh mode (11 R282 to R285, R295, R296).
What a matrix command that passes its checks stands for: windows of its symbols, from symbol 0 of its K range on, into the ring's
allotment; an operand pair outside what 10 R245 and 11 R276 allow, or a target outside the allotment, is refused (11 R282 to R285).
The order of the checks is the model's choice (log 18). -/
def Obligations.MatrixCommands : Prop :=
  (∀ (s s1 : State) (r : MxRun), RingClear s →
     let die := s.cur.die
     let k := drillHere s
     let d := s.drill die k
     let c := s.hand.cmd
     let holds := fun (i : Instr) (len : Nat) => Performs i s fun t => DrillHolds len id (.mx r) s t ∧ DrillFrame s s1 t ∧ SameAcc s t
     (∀ x ∈ [(Instr.mxM64n128, 0x10, 64, 128), (.mxM64n256, 0x11, 64, 256), (.mxM64n512, 0x12, 64, 512), (.mxM128n128, 0x13, 128, 128),
             (.mxM128n256, 0x14, 128, 256), (.mxM128n512, 0x15, 128, 512), (.mxM256n128, 0x16, 256, 128), (.mxM256n256, 0x17, 256, 256),
             (.mxM256n512, 0x18, 256, 512)],
       let w0 : Word := BitVec.ofNat 64 (c.wt.toNat * 2 ^ 56 + c.sg.toNat * 2 ^ 48 + x.2.1 * 2 ^ 40 + c.opnd.toNat)
       mxWordsOk w0 c.w1 = true → mxSetup die k x.2.2.1 x.2.2.2 [w0, c.w1, c.w2, c.w3] d.set.fresh (fun _ => .ok 0) s = .ok (r, s1) →
         holds x.1 4) ∧
     (∀ bs u v, opndOnly s [] = true → d.sess = true →
       let g := engineAgent die (s.ring die k).owner
       drillChecks g false c.w1 64 64 s = .ok u → readRun g false c.w1 0 64 u = .ok (bs, v) →
       let ws := wordsOfBytes bs
       let i := fld (ws.getD 0 0) 40 8 - 16
       recordOk ws = true →
       mxSetup die k (64 * 2 ^ (i / 3)) (128 * 2 ^ (i % 3)) (ws.take 4) false (recordPos (ws.getD 4 0)) v = .ok (r, s1) →
         holds .mxr 2)) ∧
  (∀ (s s1 : State) (r : MxRun) (die k m n : Nat) (words : List Word) (fresh : Bool),
     mxSetup die k m n words fresh (fun _ => .ok 0) s = .ok (r, s1) →
       let x := (s.drill die k).set
       let rows := if x.aspl then m / 2 else m
       let cols := if x.wspl then n / 2 else n
       (s.drill die k).sess = true ∧ r.pos = 0 ∧ r.started = false ∧ r.fresh = fresh ∧ r.m = m ∧ r.n = n ∧ r.words = words ∧
         r.b8 = decide (r.wts.fmt = 20) ∧ r.total = (fld (words.getD 0 0) 13 10 + 1) * (if r.b8 then 48 else 96) ∧ 0 < r.total ∧
         r.target = allotFirst die k s + fld (words.getD 0 0) 23 17 ∧ r.target + rows * cols ≤ allotFirst die k s + allotSize die k s ∧
         (r.act.kind = 3 ↔ x.src ≠ 0))

/-! ### Events of the part -/

/-- The oldest slot of a stream arrives in order and is taken in or refused, and one behind a refused slot is refused with it; a slot refused
twice returns to its source, waits 32 cycles times 2 to its returns, at most 2^13, and goes out again; a slot refused with "moved" goes out
again once the page no longer moves; a replay of a frame changes nothing. A remote access whose turn has come is performed at its target and,
unless it was posted, answered; the answer reaches the strand that waits for it. What comes from another package is free, but for the bytes
the strand itself stored there (07 R181, R188, R190; 13 R326 to R333).
Operands of the events stand in records of the model's own form (log 5). -/
def Obligations.Transport : Prop :=
  ∀ (s : State) (x : NetSlot),
    let die := s.cur.die
    let becomes := fun (f : NetSlot → NetSlot) (t : State) => SameRegs s t ∧ SameMem s t ∧ (x.kind ≠ .header → SameCtxs s t) ∧
      t.net = s.net.map fun y => if y.id = x.id then f y else y
    let again := becomes fun y => { y with refused := y.refused + 1 }
    (slotFrom s = some x → x.retryAt = none → x.refused < 2 →
      let moved := x.kind = .access ∧ x.part = none ∧ accessMoved s (slotAccess x) = true
      let refused := if x.part = none then refuses s (decide (s.hand.ev.c ≠ 0)) x
        else decide (s.hand.ev.c ≠ 0) || (s.die die).frozenClk
      (isOldest s x = false →
        ((∃ y ∈ stream s x.src die (slotClass x.kind), y.id < x.id ∧ y.refused = 0) → Idles .slotArrival s) ∧
        ((∀ y ∈ stream s x.src die (slotClass x.kind), y.id < x.id → y.refused ≠ 0) → Performs .slotArrival s again)) ∧
      (isOldest s x = true →
        (moved → Performs .slotArrival s (becomes fun y => { y with refused := 2, moved := true })) ∧
        (¬ moved → refused = true → Performs .slotArrival s again) ∧
        (¬ moved → refused = false →
          Performs .slotArrival s fun t => SameRegs s t ∧ SameMem s t ∧ SameCtxs s t ∧ t.net = s.net.filter (fun y => y.id ≠ x.id) ∧
            (t.die die).inbox = takeSlot (s.die die).inbox x))) ∧
    (slotTo s = some x → 2 ≤ x.refused → x.moved = false → x.retryAt = none →
      Performs .slotReturn s (becomes fun y =>
        { y with returns := y.returns + 1, retryAt := some (s.cyc + 32 * 2 ^ min y.returns 8) })) ∧
    (∀ n, slotTo s = some x → x.retryAt = some n → n ≤ s.cyc →
      Performs .slotRetry s (becomes fun y => { y with refused := 0, retryAt := none })) ∧
    ((s.net.find? fun y => decide (y.src = die) && y.moved) = some x → accessMoved s (slotAccess x) = false →
      Performs .movedReissue s (becomes fun y => { y with refused := 0, moved := false })) ∧
    Yields .linkFrameReplay s s ∧
    (takeInboxIf die .access (inTurn s) s = none → Idles .remoteAccessAtTarget s) ∧
    (∀ s1, takeInboxIf die .access (inTurn s) s = some (x, s1) →
      (∀ bs u, performAccess x s1 = .ok (bs, u) →
        Performs .remoteAccessAtTarget s fun t => t.mem = u.mem ∧ t.net = u.net ++ if x.w 1 = 0 then replySlots u die x 0 0 0 bs else []) ∧
      (∀ c i a, performAccess x s1 = .error (.trap c i a) →
        Performs .remoteAccessAtTarget s fun t => SameMem s t ∧ SameCtxs s t ∧ t.net = s.net ++ replySlots s die x c i a [])) ∧
    (∀ s1 p, takeInbox die .reply s = some (x, s1) →
      let n := (x.w 1).toNat % 128
      (s.strand die n 1).pend = some p → p.id = (x.w 0).toNat →
      Performs .remoteResponse s fun t => SameRegs s t ∧ SameMem s t ∧ SameCtxs s t ∧
        (t.strand die n 1).pend = some { p with answered := true, cause := (x.w 2).setWidth 8, info := x.w 3, addr := x.w 4,
                                                val := BitVec.ofNat 1024 (ofBytes x.data) }) ∧
    (∀ p, takeInbox die .reply s = none →
      (s.net.find? fun y => decide (y.src = die) && decide (8 ≤ y.dst) && y.part.isNone && y.id = s.hand.ev.a.toNat) = some x →
      let n := (x.w 0).toNat % 128
      let cause : BitVec 8 := if (x.kind = .access ∧ x.w 1 = 0) ∨ x.kind = .header ∨ x.kind = .team then s.hand.ev.b.setWidth 8 else 0
      (cause ≠ 0 → causeWritable cause.toNat = false → Idles .remoteResponse s) ∧
      (cause = 0 ∨ causeWritable cause.toNat = true → (s.strand die n 1).pend = some p → p.id = x.id →
        Performs .remoteResponse s fun t => SameRegs s t ∧ SameMem s t ∧ SameCtxs s t ∧
          t.net = s.net.filter (fun y => y.id ≠ x.id && y.part ≠ some x.id) ∧
          (t.strand die n 1).pend = some { p with answered := true, cause, info := 0, addr := 0,
                                                  val := overBytes p.own (takeFreeVec s).1 }))

/-- A command whose wait flag is at least 1 takes it with a decrement, and is taken next; one whose guard is resolved is let through, or
discarded with its signal applied; one with a reserved opcode or signal stops its ring once its wait is over. A head is examined while its
ring's owner runs and its engine may take a command. The control word is written and the ring emptied when it is enabled; `TAIL` pushes words,
never past the ring's room nor behind what has been taken; a stopped ring goes on with the command at its head, or past it (08 R195 to R199).
Operands of the events stand in records of the model's own form (log 5); what enabling a ring again does is the model's choice (log 18). -/
def Obligations.RingEvents : Prop :=
  ∀ (s : State),
    let die := s.cur.die
    let n := ringHere s
    let r := s.ring die n
    let a := s.hand.ev.a
    let x := s.ctx die r.owner
    let next := fun (t : State) => t.ring die n = { r with granted := true, state := 1 } ∧ t.agenda = .ring die n :: s.agenda
    (∀ v, headCmd die n s = some v → mayExamine die n s = true → headWhole die n v s = true →
      let wt := fld v 56 8
      let sg := fld v 48 8
      (cmdRejected n v = none → r.granted = false → 1 ≤ wt → wt ≤ 127 → 1 ≤ x.flag wt →
        Tab.get 0 (s.die die).served (thingFlag r.owner wt) ≤ n + 1 →
        Performs .commandFlagSatisfied s fun t => SameRegs s t ∧ (t.ctx die r.owner).flag wt = x.flag wt - 1 ∧
          (∀ m, m ≠ wt → (t.ctx die r.owner).flag m = x.flag m) ∧ next t) ∧
      (r.granted = false → 128 ≤ wt → x.guard (wt % 64) ≠ 0 →
        (x.guard (wt % 64) = (if wt < 192 then 1 else 2) →
          Performs .commandGuardDecided s fun t => SameRegs s t ∧ SameMem s t ∧ SameCtxs s t ∧ next t) ∧
        (x.guard (wt % 64) ≠ (if wt < 192 then 1 else 2) → (n < 4 → (s.drill die n).taken = []) →
          Performs .commandGuardDecided s fun t => SameRegs s t ∧ SameMem s t ∧ (t.ring die n).head = r.head + cmdWords n v ∧
            (t.ctx die r.owner).flagAdds = x.flagAdds ++ if sg = 0 ∨ 128 ≤ sg then [] else [(sg, 1, BitVec.ofNat 16 (ringAgent n))])) ∧
      (∀ c, cmdRejected n v = some c →
        (waitMet die n v s = some true →
          Performs .drillCommandReject s fun t => SameRegs s t ∧ (t.ring die n).state = 3 ∧ (t.ring die n).cause = c ∧
            (t.ring die n).head = r.head ∧ (t.ctx die r.owner).flagAdds = x.flagAdds ++
              if fld r.cfg 41 7 = 0 then [] else [(fld r.cfg 41 7, 1, BitVec.ofNat 16 (ringAgent n))]) ∧
        (waitMet die n v s ≠ some true → Idles .drillCommandReject s))) ∧
    (mayExamine die n s = false →
      ∀ i ∈ [Instr.commandFlagSatisfied, .commandGuardDecided, .drillCommandReject], Idles i s) ∧
    (rcfgOk s die r.cfg a = true →
      Performs .rcfgWrite s fun t => SameRegs s t ∧ SameMem s t ∧ SameCtxs s t ∧ (∀ m, m ≠ n → t.ring die m = s.ring die m) ∧
        t.ring die n = if bit a 40 = true ∧ r.en = false then { cfg := a }
          else if bit a 40 = false ∧ r.en = true then
            { r with cfg := a, tail := r.head, loop := none, granted := false, state := r.stLeft }
          else { r with cfg := a }) ∧
    (rcfgOk s die r.cfg a = false → Idles .rcfgWrite s) ∧
    (n < 40 →
      let up := (a.toNat + 2 ^ 32 - r.ret % 2 ^ 32) % 2 ^ 32
      (r.head - r.ret ≤ up → up ≤ r.size →
        Performs .hostTailStore s fun t => SameRegs s t ∧ SameMem s t ∧ SameCtxs s t ∧ t.ring die n = { r with tail := r.ret + up }) ∧
      (up < r.head - r.ret ∨ r.size < up → n < 20 →
        Performs .hostTailStore s fun t => SameRegs s t ∧
          t.ring die n = { r with state := 3, cause := cReservedField, off := r.tail, granted := false })) ∧
    (r.state = 3 →
      Performs .ringRestartRetry s (fun t => SameRegs s t ∧ SameMem s t ∧ SameCtxs s t ∧
        t.ring die n = { r with state := 0, cause := 0, granted := false }) ∧
      Performs .ringRestartDiscard s (fun t => SameRegs s t ∧ SameMem s t ∧ SameCtxs s t ∧ (t.ring die n).state = 0 ∧
        (t.ring die n).cause = 0 ∧ (t.ring die n).granted = false ∧
        (t.ring die n).head = r.head + min (headLen die n s) (r.tail - r.head) ∧ (t.ring die n).tail = r.tail))

/-- A session opens once the lasers are lit and its instant has come; the next window's operands are fetched, or their fault is held; a slot
goes to a gap, to the session window it was promised to, to a calibration, or to the window the arbitration chooses; a window whose slot is
over is judged, and each element of its target takes the sum, where the window's conditions let it, and the greater status (10 R242 to R265;
11 R274, R292, R293).
The arbitration gives a slot to the eligible ring of the greatest credit, the lowest on equal credits: every eligible ring's credit grows
by its weight, the chosen one's then falls by the weights of all of them, and a ring that is not eligible has none (10 R265).
Readings that the spec leaves open are free values (log 12); the events are of the model's own form (log 5). -/
def Obligations.Windows : Prop :=
  (∀ (s s1 u : State) (t : TakenCmd) (r : MxRun) (w : Win),
     let die := s.cur.die
     let k := drillHere s
     let d := s.drill die k
     let x := s.die die
     (∀ a, d.taken = [t] → d.stash = [] → t.job = .opening a → x.lit = true → (∀ v, a = some v → v.toNat ≤ x.ftime.toNat) →
       Performs .sessionOpened s fun v => SameRegs s v ∧ SameMem s v ∧ (v.drill die k).session = true ∧ (v.drill die k).taken = []) ∧
     (d.taken.head? = some t → d.stash = [] → nextMx d.taken = some (t, r) → r.next = none → r.fault = none →
       (fetchWin die k t r s = .ok (w, s1) →
         Performs .tfuFetch s fun v => SameRegs s v ∧
           (v.drill die k).taken = d.taken.map fun y => if y.id = t.id then { y with job := .mx { r with next := some w } } else y) ∧
       (∀ c i a, fetchWin die k t r s = .error (.trap c i a) → (d.wins.any fun y => y.id = t.id) = true →
         Performs .tfuFetch s fun v => SameRegs s v ∧ SameMem s v ∧
           (v.drill die k).taken = d.taken.map fun y => if y.id = t.id then { y with job := .mx { r with fault := some (c, a) } } else y)) ∧
     (gridRuns x = false ∨ x.slotDue = false → Idles .slotBoundary s) ∧
     (gridRuns x = true → x.slotDue = true → (∀ j, j < 4 → (s.drill die j).taken = [] ∧ (s.drill die j).stash = []) →
       (x.gap = true → Performs .slotBoundary s fun v => SameRegs s v ∧ SameMem s v ∧ (v.die die).gap = false ∧ (v.die die).odd = false ∧
         (v.die die).slotDue = (!x.odd) ∧
         ∀ j, j < 4 → v.drill die j = { s.drill die j with wins := (s.drill die j).wins.map fun w => { w with lit := false } }) ∧
       (x.gap = false → promisedWin die s = none → 0 < x.calLeft → Performs .slotBoundary s fun v => SameRegs s v ∧ SameMem s v ∧
         (v.die die).calLeft = x.calLeft - 1 ∧ (v.die die).lit = (x.lit || decide (x.calLeft = 1))) ∧
       (∀ n us, x.gap = false → promisedWin die s = none → x.calLeft = 0 → (∀ j, j < 4 → pathSlot die j s = none) →
         x.steal = n :: us → n ≠ skewUnit → Performs .slotBoundary s fun v => SameRegs s v ∧ SameMem s v ∧
           Tab.get 0 (v.die die).calAt n = s.pkg.ns ∧ n ∉ (v.die die).steal)) ∧
     (let s0 := loseCredit die (watchPower die (noteAll die (endSlot die 1 (s.modDie die fun d =>
        { d with slotDue := false, settle := if 1 < d.settle then d.settle - 1 else d.settle }))))
      let s1 := { s0 with free := s0.free + 1 }
      let goesTo := fun (v : State) => advanceAll die (snapshot die ((sessionSlot die v).getD v)) = .ok u → Yields .slotBoundary s u
      gridRuns x = true → x.slotDue = true → x.gap = false → advanceAll die s = .ok s →
       (∀ j n, promisedWin die s = some (j, n) → goesTo (lightWin die j n s1)) ∧
       (promisedWin die s = none → takenSlot die s1 = none → dieOpen (s1.die die) = true → s.pkg.shed = 0 → farSlot die s1 = none →
         anyReady die s1 = true → goesTo (arbitrate die s1))) ∧
     (let n := (if t.set.aspl then r.m / 2 else r.m) * (if t.set.wspl then r.n / 2 else r.n)
      let old := fun i => if r.fresh then (0, 0) else accRead die (r.target + i) s
      let j := judge t.set r w s.free ((List.range n).map fun i => (old i).1.toNat)
      d.wins = [w] → w.lit = false → w.ahead = 0 → d.taken = [t] → d.stash = [] → d.step = 0 → w.dead = false → t.id = w.id →
       t.job = .mx r → j.cond &&& t.set.cmask = 0 →
       Performs .windowAccumulate s fun v => SameRegs s v ∧
         (∀ i, i < n → accRead die (r.target + i) v =
           (if j.adds then BitVec.ofNat 32 (j.sums.getD i 0) else (old i).1, max (old i).2 (condStatus j.cond))) ∧
         ∀ i, i < r.target ∨ r.target + n ≤ i → accRead die i v = accRead die i s)) ∧
  (∀ (s : State) (die : Nat),
     let el := eligible die s
     let wt := fun k => omeWeight (s.die die).omeshr k
     let credit := fun k => (s.drill die k).credit + (wt k : Int)
     let t := arbitrate die s
     (∀ k, k < 4 → k ∉ el → (t.drill die k).credit = 0 ∧ (t.drill die k).wins = (s.drill die k).wins) ∧
     ∀ c, c ∈ el → (∀ k ∈ el, credit k < credit c ∨ (credit k = credit c ∧ c ≤ k)) →
       (∀ w ∈ (s.drill die c).wins, w.seq ≠ (s.drill die c).seq) →
       (t.drill die c).credit = credit c - ((el.map wt).foldl (· + ·) 0 : Nat) ∧
       (∀ k ∈ el, k ≠ c → (t.drill die k).credit = credit k ∧ (t.drill die k).wins = (s.drill die k).wins) ∧
       ∃ w, (t.drill die c).wins = (s.drill die c).wins ++ [w] ∧ w.seq = (s.drill die c).seq ∧ w.lit = true ∧ w.ahead = 0 ∧
         (t.drill die c).seq = ((s.drill die c).seq + 1) % 2 ^ 24)

/-- Calibrations that are due are noted, each for the slots it takes; a laser module goes to standby 100 microseconds after its last session,
and relit, after 50, it is calibrated; a dip of its power makes the windows that integrate and use the bus meet `DIM`, a lost symbol clock
`LOCK`; a loss of power for 1,000 slots is notified; the clock settles for 1,024 slots; `OMESHR` takes a legal value and refuses any other (10
R253, R257 to R259, R264).
The events are of the model's own form (log 5), and so are the power readings they give and how far ahead a calibration is due (log 12); what
becomes of promised windows when the clock is lost is the model's choice (log 18). -/
def Obligations.OpticsUpkeep : Prop :=
  ∀ (s : State), s.cur.die < 8 →
    let die := s.cur.die
    let m := die / 2
    let x := s.die die
    let a := s.hand.ev.a
    let quiet := fun (t : State) => SameRegs s t ∧ SameMem s t ∧ ∀ d n, t.ctx d n = s.ctx d n
    let laser := Tab.get 0 s.pkg.lasers m
    let since := Tab.get 0 s.pkg.lasersAt m
    (∀ r ∈ [(Instr.converterTrimDue, bankUnits), (.modulatorBiasDue, groupUnits), (.skewTrimDue, [skewUnit])],
      (dueUnits die r.2 s = [] → Idles r.1 s) ∧
      (∀ u us, dueUnits die r.2 s = u :: us →
        Performs r.1 s fun t => quiet t ∧ (t.die die).steal = x.steal ++ if u = 24 ∧ x.skewHalf = false then [u, u] else [u])) ∧
    (laser = 1 → moduleUsed m s = false →
      (since + 100000 ≤ s.pkg.ns → Performs .laserStandby s fun t => quiet t ∧ Tab.get 0 t.pkg.lasers m = 2 ∧
        ∀ d, d / 2 = m → (t.die d).lit = false ∧ lpw (t.die d) 0 = 0) ∧
      (s.pkg.ns < since + 100000 → Idles .laserStandby s)) ∧
    (laser = 3 →
      (since + 50000 ≤ s.pkg.ns → Performs .laserRelightDone s fun t => quiet t ∧ Tab.get 0 t.pkg.lasers m = 1 ∧
        ∀ d, d / 2 = m → (t.die d).calLeft = 4096 ∧ lpw (t.die d) 0 = fld a 0 8 ∧ lpw (t.die d) 1 = fld a 8 8) ∧
      (s.pkg.ns < since + 50000 → Idles .laserRelightDone s)) ∧
    (laser = 1 →
      Performs .laserDip s fun t => quiet t ∧ ∀ d, d / 2 = m → lpw (t.die d) 0 = fld a 0 8 ∧ lpw (t.die d) 1 = fld a 8 8 ∧
        ∀ k, k < 4 → (t.drill d k).wins = (s.drill d k).wins.map fun w =>
          let thr := (winSet (s.drill d k) w.id).thr
          if integrates (s.die d) w = true ∧ (fld a 0 8 < thr ∨ (128 < w.act.lanes.length ∧ fld a 8 8 < thr)) then
            { w with cond := w.cond ||| cdDim }
          else w) ∧
    (laser = 1 →
      ((∃ b, b < 2 ∧ Tab.get 0 x.dimFor b = 1000) → bit (x.dbgReg 0x930) 63 = false →
        Performs .laserLossSustained s fun t => quiet t ∧ (t.die die).notLost ≠ 0) ∧
      ((∀ b, b < 2 → Tab.get 0 x.dimFor b ≠ 1000) → Idles .laserLossSustained s)) ∧
    (x.locked = true →
      Performs .symbolLockLoss s fun t => quiet t ∧ (t.die die).locked = false ∧
        ∀ k, k < 4 → (t.drill die k).wins = (s.drill die k).wins.map fun w =>
          { w with lit := false, ahead := 0, cond := if integrates x w = true ∨ w.ahead ≠ 0 then w.cond ||| cdLock else w.cond }) ∧
    (x.locked = false → x.booted = true →
      Performs .symbolLockRegained s fun t => quiet t ∧ (t.die die).locked = true ∧ (t.die die).settle = 1025) ∧
    (x.settle = 1 → Performs .symbolLockSettled s fun t => quiet t ∧ (t.die die).settle = 0) ∧
    (omeshrOk die a s = true → Performs .omeshrWrite s fun t => quiet t ∧ (t.die die).omeshr = a) ∧
    (omeshrOk die a s = false → Idles .omeshrWrite s)

/-- Results that are due land, and nothing issues on their core in the cycle any more; writes held for 512 cycles leave their combining
buffer; a walk keeps and marks its leaf, and a strand that met a moving page goes on when it no longer moves; a core loads the break bits of
a line; a segment at twice its cost is counted once; a word takes an error; the stop of a watched remote writer comes due at its core.
The events are of the model's own form (log 5); logs 8 and 9 name its choices for buffers and translations. -/
def Obligations.CoreEvents : Prop :=
  ∀ (s : State),
    let die := s.cur.die
    let e := s.hand.ev
    let c := s.myCore
    let quiet := fun (t : State) => SameRegs s t ∧ SameMem s t ∧ SameCtxs s t
    ((∃ f ∈ c.flights, f.due = s.cyc) →
      Performs .resultLanding s fun t => SameMem s t ∧ SameCtxs s t ∧ t.myCore = { c.landDue s.cyc with landed := some s.cyc, dlk := 0, moved := true } ∧
        t.myCore.flights = c.flights.filter (fun f => f.due ≠ s.cyc) ∧
        ∀ f, c.flights.filter (fun f => f.due = s.cyc) = [f] → f.w.dk = .scal → f.w.d.toNat < 32 → f.w.d.toNat ≠ 0 → f.strand < 6 →
          (t.myCore.strand f.strand).sreg f.w.d.toNat = lo64 (resultOf f.op f.w f.caps).val) ∧
    (s.cur.strand < 2 → (∃ h ∈ s.me.held, h.since + 512 ≤ s.cyc) → s.me.run ≠ .stopped → postsOut s die s.cur.core s.cur.strand = false →
      let old := s.me.held.filter fun h => h.since + 512 ≤ s.cyc
      Performs .combiningBufferTimeout s fun t => SameRegs s t ∧ SameCtxs s t ∧
        t.me.held = s.me.held.filter (fun h => ¬ h.since + 512 ≤ s.cyc) ∧
        t.mem = (old.foldl (fun u h => u.putBytes h.key h.bytes) s).mem) ∧
    (canonical e.a = true → inAperture e.a = false →
      (∀ l p, c.iter.isSome = true → s.cur.strand < 6 →
        let acc : Acc := if e.b = 0 then .rd else if e.b = 1 then .wr else .fetch
        translate s s.agent e.a acc = .ok (l, p) →
        Performs .xlateWalk s fun t => SameRegs s t ∧ SameCtxs s t ∧ t.mem = (keepLeaf s s.agent e.a l (if acc = .fetch then .fetch else .rd)).mem ∧
          ∃ x ∈ (t.die die).tlb, x.slot = s.mySlot ∧ x.page = e.a.toNat / 2 ^ pageBits l.level ∧ x.leaf.key = l.key) ∧
      (∀ l, s.me.run = .blocked 10 0 → walk s die s.mySlot e.a = .ok l → bit l.pte 51 = false →
        Performs .movingPageRewalk s fun t => SameRegs s t ∧ t.me.run = .running ∧ t.me.pc = s.me.pc)) ∧
    (c.iter.isSome = true →
      let line := e.a.toNat / 128 * 128
      Performs .breakBitLoad s fun t => SameRegs s t ∧ (s.mySlot, line) ∈ t.myCore.ilines ∧
        (s.myCtx.brkReg 0x800 = 0 → quiet t ∧ ∀ i, i < 16 → (s.mySlot, line + 8 * i) ∉ t.myCore.brk)) ∧
    (let slot := s.cur.unit % 16
     Performs .brksyncWrite s fun t => SameRegs s t ∧ ((s.ctx die slot).brkReg 0x800 = 0 → quiet t ∧
      ∀ n line i, (slot, line) ∈ (s.core die n).ilines → i < 16 → (slot, line + 8 * i) ∉ (t.core die n).brk)) ∧
    (let owes := fun n => match (c.strand n).seg with | some g => g.owed | none => false
     let ns := (List.range 6).filter owes
     ns ≠ [] →
      Performs .segmentOverrunTwice s fun t => SameRegs s t ∧ SameMem s t ∧
        (∀ n ∈ ns, ∀ g, (c.strand n).seg = some g → (t.myCore.strand n).seg = some { g with owed := false }) ∧
        fld ((t.ctx die c.slot).reg 0x019) 32 32 = min (fld ((s.ctx die c.slot).reg 0x019) 32 32 + ns.length) (2 ^ 32 - 1)) ∧
    (let k := e.a.toNat / 8 * 8
     keyExists k = true → k ∉ s.bad →
      (e.b = 0 → k ∉ s.soft → Performs .memorySoftError s fun t => quiet t ∧ t.soft = k :: s.soft ∧ t.bad = s.bad) ∧
      (e.b ≠ 0 ∨ k ∈ s.soft → Performs .memorySoftError s fun t => quiet t ∧ t.bad = k :: s.bad ∧ k ∉ t.soft)) ∧
    (∀ x s1, takeInbox die .watchStop s = some (x, s1) →
      let n := (x.w 0).toNat % 128
      (s.core die n).iter.isSome = true → (s.core die n).frame = none → (s.core die n).due = none →
      Performs .watchStopSlot s fun t => quiet t ∧
        (t.core die n).due = some { strd := 1, cause := cWatchpoint, prec := false, info := x.w 1, addr := x.w 2, t := s.cyc + 1 })

/-- A group's end begins the next group of the written rotation and makes a switch pending on every core whose context the group does not
give it; a switch keeps the registers its strands have marked live and brings back the core's image of the context it goes to; an iteration
starts on the lowest free core with its indices; a cluster's pending split takes effect, and its SRAM reads zero.
The events are of the model's own form (log 5). -/
def Obligations.Rotation : Prop :=
  ∀ (s : State),
    let die := s.cur.die
    let d := s.die die
    let n := s.cur.core
    let away := (s.myCore.strand 1).held = [] ∨ postsOut s die n 1 = false
    (d.booted = true → d.groupLeft = 0 →
      Performs .rotationGroupEnd s fun t => SameRegs s t ∧ SameMem s t ∧ SameCtxs s t ∧ (t.die die).rote = d.roteNew ∧
        ((t.die die).group, (t.die die).groupLeft) =
          ((nextGroup d d.roteNew d.group.getLast?).1, 256 * (nextGroup d d.roteNew d.group.getLast?).2) ∧
        ∀ c, c < 128 → (s.core die c).frame = none → (s.core die c).stepCyc = none →
          (t.core die c).incoming = if (s.core die c).home = coreOwner (t.die die) c then none
            else some ((coreOwner (t.die die) c).getD 16)) ∧
    (∀ y x, s.myCore.incoming = some y → s.myCore.switchReady = true → away → s.myCore.home = some x → x < 16 → y < 16 → x ≠ y →
      Performs .rotationSwitch s fun t => t.myCore.home = some y ∧ t.myCore.incoming = none ∧
        (∀ j m, j < 6 → (t.myCore.strand j).sreg m = ((Tab.get ({} : Core) d.parked (16 * n + y)).strand j).sreg m) ∧
        ∀ j m, j < 6 → 0 < m → m < 32 → ((Tab.get ({} : Core) (t.die die).parked (16 * n + x)).strand j).sreg m =
          if (s.myCore.strand j).live.s.getLsbD m then (s.myCore.strand j).sreg m else 0) ∧
    (∀ x, s.myCore.incoming = some 16 → s.myCore.switchReady = true → away → s.myCore.home = some x →
      Performs .rotationSwitch s fun t => t.myCore.home = none ∧ t.myCore.incoming = none ∧ t.myCore.iter = none ∧
        ∀ k, k ≠ 16 * n + x → Tab.get ({} : Core) (t.die die).parked k = Tab.get {} d.parked k) ∧
    (let slot := s.hand.ev.a.toNat % 16
     ∀ tk, enginesRun (s.ctx die slot) = true → pickTask d slot = some tk →
      (tk.total = 0 → fld (tk.lnr.getD 3 0) 48 16 = 0 →
        Performs .iterationStart s fun t => SameRegs s t ∧ SameMem s t ∧ SameCtxs s t ∧
          (t.die die).tasks = d.tasks.filter fun x => x.num ≠ tk.num) ∧
      (∀ c, tk.total ≠ 0 → (List.range 128).find? (fun c => coreFree d slot c) = some c →
        Performs .iterationStart s fun t => t.pkg = s.pkg ∧
          (∀ i m, t.ctx i m = if i = die ∧ m = slot then
            { s.ctx i m with evSeen := (s.ctx i m).evSeen.filter fun x => x.2 / 8 ≠ c } else s.ctx i m) ∧
          (∃ it, (t.core die c).iter = some it ∧ it.slot = tk.slot ∧ it.task = tk.num ∧ it.ordinal = tk.next) ∧
          (∀ j, j < 6 → (t.strand die c j).pc = entryPc tk.lnr j ∧ (t.strand die c j).run = .running ∧
            (t.strand die c j).ready = s.cyc + 1 ∧ (t.strand die c j).sreg 26 = BitVec.ofNat 64 tk.next ∧
            (t.strand die c j).sreg 27 = tk.arg) ∧
          (t.die die).tasks = d.tasks.map fun x => if x.num = tk.num then { x with started := true, next := x.next + 1 } else x)) ∧
    (let cl := s.cur.unit % 16
     ∀ v, (s.cluster die cl).clNext = some v → clusterBusy d cl = false →
      Performs .clcfgApply s fun t => SameRegs s t ∧ SameCtxs s t ∧ (t.cluster die cl).clcfg = v ∧ (t.cluster die cl).clNext = none ∧
        ∀ k, memGet t.mem k = if inCluster die cl k then 0 else memGet s.mem k)

/-- `CTXCTL` pre-empts a running context, whose cores have a frame of cause `PREEMPT` due in the next cycle, evicts, resumes, restores, tears down and creates contexts from the states it may, and is refused
from any other; the save and the restore of a record, a core's return from its section and a teardown complete as their states say.
The events are of the model's own form (log 5); the state a restore ends in is its choice (log 17). -/
def Obligations.Contexts : Prop :=
  ∀ (s : State),
    let die := s.cur.die
    let slot := s.cur.unit % 16
    let c := s.ctx die slot
    let a := s.hand.ev.a
    let now := fun (t : State) => t.ctx die slot
    (c.state = 1 →
      (∀ i ∈ [Instr.ctxctlPreempt, .ctxctlEvict], Performs i s fun t => SameRegs s t ∧ (now t).state = 2 ∧ (now t).lcause = cPreempt ∧
        (now t).lcore = 0x7F ∧ (now t).evict = (c.evict || decide (i = .ctxctlEvict)) ∧
        ∀ n ∈ coresOf die slot s, (s.core die n).frame = none → (s.core die n).due = none →
          (t.core die n).due = some { stop := true, strd := 7, cause := cPreempt, t := s.cyc + 1 })) ∧
    (c.state ≠ 1 → Idles .ctxctlPreempt s) ∧
    (c.state = 4 → c.saved = [] → Performs .ctxctlEvict s fun t => SameRegs s t ∧ (now t).state = 3 ∧ (now t).evict = true) ∧
    (c.state = 4 → c.heldReplies = [] →
      Performs .ctxctlResume s fun t => SameRegs s t ∧ SameMem s t ∧ now t = { c with state := 1, frozen := false }) ∧
    (c.state ≠ 4 → Idles .ctxctlResume s) ∧
    (c.state = 0 →
      Performs .ctxctlRestore s (fun t => SameRegs s t ∧ SameMem s t ∧ (now t).state = 6 ∧ (now t).reg 0x017 = svstWord 1 0 0) ∧
      Performs .ctxctlCreate s (fun t => SameRegs s t ∧ now t = { state := 1, job := a.extractLsb' 0 16, sup := bit a 16, evStale := List.range 32 })) ∧
    (c.state ≠ 0 → Idles .ctxctlRestore s ∧ Idles .ctxctlCreate s) ∧
    (c.state ≠ 0 → Tab.get 0 (s.die die).served (thingLaunch slot) ≤ 1 →
      Performs .ctxctlTeardown s fun t => (now t).state = 7 ∧ (∀ n i, (t.core die n).iter = some i → i.slot ≠ slot) ∧
        ∀ x ∈ (t.die die).tasks, x.slot ≠ slot) ∧
    (c.state = 2 → allStopped die slot s = true →
      Performs .preemptComplete s fun t => SameRegs s t ∧ (now t).state = 3 ∧ (now t).frozen = decide (c.fst ≠ 0)) ∧
    (∀ n u, c.state = 3 → c.evict = false →
      (saveFrom die slot 0 s = (.complete, n, u) →
        Performs .saveComplete s fun t => (now t).state = 4 ∧ (now t).reg 0x017 = svstWord 3 0 n) ∧
      (∀ cause, saveFrom die slot 0 s = (.stopped cause, n, u) →
        Performs .saveComplete s fun t => SameRegs s t ∧ (now t).state = 5 ∧ (now t).reg 0x017 = svstWord 2 cause n)) ∧
    (∀ im s1 u, c.state = 6 → readImage die slot s = .ok (im, s1) → restoreFrom die slot im s1 = .ok u →
      Performs .restoreComplete s fun t => (now t).state = 4 ∧ (now t).reg 0x017 = svstWord 3 0 (fld (im.head.getD 0 0) 0 32 * 64)) ∧
    (∀ k i x, c.state = 6 → readImage die slot s = .error (.trap k i x) →
      Performs .restoreComplete s fun t => SameRegs s t ∧ (now t).state = 0 ∧
        (now t).reg 0x017 = svstWord 2 k (x.toNat - (c.reg 0x015).toNat)) ∧
    (c.state = 7 → (∀ k, k < 4 → (s.ring die k).owner = slot → (s.drill die k).wins = []) →
      Performs .teardownComplete s fun t => SameRegs s t ∧ now t = {}) ∧
    (let n := s.cur.core
     let o := s.core die n
     ∀ k y g f s1, o.home = some k → (s.ctx die k).saved.find? (fun y => y.core = n) = some y → enginesRun (s.ctx die k) = true →
      o.incoming = none → o.frame.isSome = true → coreOwner (s.die die) n = some k → reloadCore die k y o s = .ok (g, s1) →
      g.frame = some f → (g.strand 1).handler = false → f.cause = cPreempt →
      Performs .coreSectionReload s fun t => (t.core die n).frame = none ∧ (t.ctx die k).saved = (s.ctx die k).saved.filter (fun y => y.core ≠ n) ∧
        ∀ j, j < 6 → (t.strand die n j).pc = Tab.get 0 f.tpc j ∧ ∀ m, m < 32 → (t.strand die n j).sreg m = (g.strand j).sreg m)

/-- A register the supervisor or the host writes takes the value as the register's own rules have it, and a value they refuse changes
nothing: the page-table root and the translations made under it, the home map, a copy or launch queue's control word, the power cap and
tokens, the trace buffer, the wait-for log, the notification ring, and any other register by its selector.
The events are of the model's own form (log 5); which reserved bits are ignored is its choice (log 17). -/
def Obligations.RegisterWrites : Prop :=
  ∀ (s : State),
    let die := s.cur.die
    let slot := s.cur.unit % 16
    let e := s.hand.ev
    let a := e.a
    let d := s.die die
    let quiet := fun (t : State) => SameRegs s t ∧ SameMem s t
    (∀ r, let k := a.toNat % 2 ^ 12
      regRow k = some r → 3 ≤ k → r.write ≠ 2 →
        (∀ u, writeReg die (fld e.d 0 4) (fld e.d 8 4) k e.b s = .ok u → Yields .registerWrite s u) ∧
        (∀ c i x, writeReg die (fld e.d 0 4) (fld e.d 8 4) k e.b s = .error (.trap c i x) → Idles .registerWrite s)) ∧
    (ctxRegOk die 0x010 a = true →
      Performs .ptbaseWrite s fun t => quiet t ∧ (t.ctx die slot).reg 0x010 = a ∧ (∀ j, j ≠ 0x010 → (t.ctx die slot).reg j = (s.ctx die slot).reg j) ∧
        (t.die die).tlb = d.tlb.filter fun x => x.slot ≠ slot) ∧
    (ctxRegOk die 0x010 a = false → Idles .ptbaseWrite s) ∧
    (let n := fld d.hmsel 0 12
     (a = 0 → Performs .hmentWrite s fun t => quiet t ∧ t.pkg.homes = s.pkg.homes.filter fun x => x.1 ≠ n) ∧
     (∀ t s1, a ≠ 0 → readTlr 0 (engineAgent die slot) a s = .ok (t, s1) →
      (tlrHome t = true → Performs .hmentWrite s fun u => SameRegs s u ∧
        Tab.get [] u.pkg.homes n = t.take 12 ++ [(s.ctx die slot).job.setWidth 64, a]) ∧
      (tlrHome t = false → Idles .hmentWrite s))) ∧
    (∀ u, (writeCqcfg die a s = .ok u → Yields .cqcfgWrite s u) ∧ (writeLqcfg die slot a s = .ok u → Yields .lqcfgWrite s u)) ∧
    (bit a 63 = false → fld a 20 38 = 0 → 4 ≤ fld a 58 5 → fld a 58 5 ≤ 12 → onlyEn (s.ctx die slot).lqcfg a = true →
      Performs .lqcfgWrite s fun t => quiet t ∧ (t.ctx die slot).lqcfg = a ∧ (t.ctx die slot).lq = none) ∧
    (a.toNat < 4096 → Performs .pwrcapWrite s fun t => quiet t ∧ t.pkg.cap = max 1600 (min 4000 a.toNat)) ∧
    (4096 ≤ a.toNat → Idles .pwrcapWrite s) ∧
    (let n := fld a 0 16
     fld a 42 22 = 0 → fld a 16 16 = 0 →
      (1 ≤ n → 1600 + n ≤ s.pkg.cap →
        Performs .tokxferWrite s fun t => quiet t ∧ t.pkg.cap = s.pkg.cap - n ∧ t.pkg.out = s.pkg.out + n ∧
          t.pkg.transfers = s.pkg.transfers ++ [(s.nextReq, n)]) ∧
      (n = 0 ∨ s.pkg.cap < 1600 + n → Idles .tokxferWrite s)) ∧
    (let old := d.dbgReg 0x860
     let l := fld a 57 5
     fld a 22 35 = 0 → 8 ≤ l → l ≤ 20 → inSomeWin s die (fld a 0 22 * 16) (16 * 2 ^ l) = true → bit old 63 = false →
      Performs .trcfgWrite s fun t => quiet t ∧ (t.die die).dbgReg 0x860 = a ∧
        (bit a 63 = true → (t.die die).trTail = 0 ∧ (t.die die).trLost = 0)) ∧
    (a = 1 → Performs .wfctlWrite s fun t => quiet t ∧ (t.die die).wflog = [] ∧ (t.die die).wflost = 0) ∧
    (a ≠ 1 → Idles .wfctlWrite s) ∧
    (let l := fld a 58 5
     fld a 34 24 = 0 → fld a 22 2 = 0 → 4 ≤ l → l ≤ 16 → inDcmWin (s.ctx die 15) (fld a 0 22 * 32) (32 * 2 ^ l) = true →
      bit (d.dbgReg 0x930) 63 = false →
      Performs .notcfgWrite s fun t => quiet t ∧ (t.die die).dbgReg 0x930 = a ∧
        (bit a 63 = true → (t.die die).notHead = 0 ∧ (t.die die).notAck = 0 ∧ (t.die die).notLost = 0))

/-- A launched wave reaches its job's contexts, here and, by slots, on the other dies; each die reports when they have stopped and their
traffic is delivered; the frozen state follows, and a resume at an instant 3,000 ns or more away. A frozen core steps by a cycle or an
instruction, a ring by a window, and a step that cannot issue times out. A dump of a stopped context is taken, or stops on a fault.
The events are of the model's own form (log 5); log 17 names its choices. -/
def Obligations.FallowWave : Prop :=
  ∀ (s s1 : State) (x : NetSlot),
    let die := s.cur.die
    let slot := s.cur.unit % 16
    let c := s.ctx die slot
    let e := s.hand.ev
    let fst := fun (t : State) (k : Nat) => (t.ctx die k).fst
    let ofJob := fun (k : Nat) => k < 16 ∧ (s.ctx die k).state ≠ 0 ∧ (s.ctx die k).job = slotJobOf x
    (c.state ≠ 0 → c.fst = 0 →
      Performs .fwctlLaunch s fun t => SameRegs s t ∧ fst t slot = 1 ∧ (t.ctx die slot).wseq = (c.wseq + 1) % 65536) ∧
    (takeInbox die .wave s = some (x, s1) →
      Performs .fallowStopArrival s fun t => SameRegs s t ∧ ∀ k, ofJob k →
        (fst s k = 0 → fst t k = 1 ∧ (t.ctx die k).wseq = (x.w 1).toNat % 65536) ∧ (fst s k ≠ 0 → fst t k = fst s k)) ∧
    (takeInbox die .causeRec s = some (x, s1) → (∀ y ∈ (s.die die).inbox, y.kind = .wave → slotJobOf y ≠ slotJobOf x) →
      Performs .causeRecordArrival s fun t => SameRegs s t ∧ SameMem s t ∧
        ∀ k, t.ctx die k = if k ∈ jobSlots s die (slotJobOf x) then (s.ctx die k).joinCause (x.words.drop 1) else s.ctx die k) ∧
    (let job : BitVec 16 := e.a.setWidth 16
     let mine := jobSlots s die job
     let w := Tab.get 0#64 (s.die die).fallow job.toNat
     ((∃ k ∈ mine, fst s k = 1) → (∀ k ∈ mine, fst s k = 1 → waveStopped die k s = true) →
       Performs .fallowPhaseTwoDone s fun t => SameRegs s t ∧ SameMem s t ∧ ∀ k ∈ mine, fst t k = if fst s k = 1 then 2 else fst s k) ∧
     ((∀ k ∈ mine, fst s k ≠ 1) → fld w 0 8 ≠ fld w 8 8 → trafficOf die job s = false →
       Performs .fallowPhaseTwoDone s fun t => SameRegs s t ∧ SameMem s t ∧ SameCtxs s t ∧
         fld (Tab.get 0#64 (t.die die).fallow job.toNat) 8 8 = fld w 0 8)) ∧
    (takeInbox die .frozen s = some (x, s1) →
      Performs .fallowFrozen s fun t => SameRegs s t ∧ ∀ k, ofJob k →
        fst t k = if fst s k = 1 ∨ fst s k = 2 then 3 else fst s k) ∧
    (takeInbox die .resume s = some (x, s1) → ((s.die die).resumes.all fun y => y.1 ≠ (slotJobOf x).toNat) = true →
      Performs .fallowResumeInstant s fun t => SameRegs s t ∧ SameMem s t ∧
        Tab.get 0 (t.die die).resumes (slotJobOf x).toNat = x.w 1 ∧
        ∀ k, ofJob k → fst t k = if fst s k = 3 ∨ fst s k = 4 then 5 else fst s k) ∧
    (c.fst = 3 →
      (let n := e.a.toNat % 128
       frozenCore die n slot s = true → (s.strand die n 1).handler = false →
        let steps := fun (k : Nat) (t : State) => fst t slot = 4 ∧ (t.core die n).stepCyc = some (k, s.cyc + 1) ∧ (t.core die n).frame = none ∧
          ∀ f j, (s.core die n).frame = some f → j < 6 → (t.strand die n j).pc = Tab.get 0 f.tpc j
        Performs .fwctlStepCycle s (fun t => SameRegs s t ∧ SameMem s t ∧ steps 7 t) ∧
        (e.b.toNat % 8 ≤ 5 → Performs .fwctlStepInstruction s fun t => SameRegs s t ∧ SameMem s t ∧ steps (e.b.toNat % 8) t)) ∧
      (let k := e.a.toNat % 4
       (s.ring die k).en = true → (s.ring die k).owner = slot →
        Performs .fwctlStepWindow s fun t => SameRegs s t ∧ SameMem s t ∧ fst t slot = 4 ∧ (t.drill die k).step = 1) ∧
      ((s.die die).ftime.toNat + 3000 ≤ (c.brkReg 0x821).toNat → ((s.die die).resumes.all fun y => y.1 ≠ c.job.toNat) = true → c.state ≠ 0 →
        Performs .fwctlResume s fun t => SameRegs s t ∧ SameMem s t ∧ fst t slot = 5 ∧
          Tab.get 0 (t.die die).resumes c.job.toNat = c.brkReg 0x821)) ∧
    (c.fst ≠ 3 → ∀ i ∈ [Instr.fwctlStepCycle, .fwctlStepWindow, .fwctlResume], Idles i s) ∧
    (let n := s.cur.core
     ∀ k u, s.myCore.stepCyc = some (k, u) → k ≠ 7 → u + 4096 ≤ s.cyc → s.myCore.iter.isSome = true → s.myCore.due = none →
      (s.strand die n 1).pend = none → stepDone s.myCore k u s.cyc = false →
      Performs .stepTimeout s fun t => SameRegs s t ∧ t.myCore.stepCyc = none ∧ t.myCore.frame.isSome = true ∧
        bit (t.ctx die s.myCore.slot).fwstat 60 = true) ∧
    ((c.state = 4 ∨ c.state = 5 ∨ c.fst = 3) → (s.die die).dump = none →
      Performs .dumpctlStart s fun t => SameRegs s t ∧ SameMem s t ∧ (t.die die).dump = some (slot, (s.die die).ftime.toNat) ∧
        (t.die die).dbgReg 0x873 = dumpStatus 1 false 0 0) ∧
    (∀ n tm, (s.die die).dump = some (n, tm) → runDump die n (BitVec.ofNat 64 tm) s = .ok s1 →
      Performs .dumpComplete s fun t => t.mem = s1.mem ∧ (t.die die).dump = none ∧
        (fld ((t.die die).dbgReg 0x873) 62 2 = 2 ∨ fld ((t.die die).dbgReg 0x873) 62 2 = 3))

/-- Power tokens arrive, come back and are acknowledged; an interval of the governor lowers no energy count; a pace grant ends at its
deadline; a die holds over without its reference, its field time then is slewed by at most 1 ns each microsecond, and a gap follows; at
the root module a field reset is asked for 1 ms ahead, unless a die holds a context, and at the instant every die in service sets field time
to 0, at any other the input is ignored; an interrupt message follows its holdoff; frozen clocks stop (17 R424 to R435).
The events are of the model's own form (log 5); readings are free (log 12), and log 17 names its choices. -/
def Obligations.PowerAndClocks : Prop :=
  ∀ (s s1 : State) (x : NetSlot),
    let die := s.cur.die
    let d := s.die die
    let e := s.hand.ev
    let quiet := fun (t : State) => SameRegs s t ∧ SameMem s t ∧ ∀ i n, t.ctx i n = s.ctx i n
    (takeInbox die .tokens s = some (x, s1) →
      let n := (x.w 1).toNat
      let r := min n (4000 - s.pkg.cap)
      Performs .tokenArrival s fun t => quiet t ∧ t.pkg.cap = s.pkg.cap + r ∧
        t.net.map (fun y => (y.kind, y.dst, y.words)) = s.net.map (fun y => (y.kind, y.dst, y.words)) ++
          (if n - r = 0 then [] else [(.tokenBack, x.src, [x.w 0, BitVec.ofNat 64 (n - r)])]) ++ [(.tokenAck, x.src, [x.w 0])]) ∧
    (takeInbox die .tokenBack s = some (x, s1) → ∀ id k, s.pkg.returns.find? (fun y => y.1 = (x.w 0).toNat) = some (id, k) →
      Performs .tokenReturn s fun t => quiet t ∧ t.pkg.cap = min 4000 (s.pkg.cap + min (x.w 1).toNat k)) ∧
    (takeInbox die .tokenAck s = some (x, s1) → ∀ id k, s.pkg.transfers.find? (fun y => y.1 = (x.w 0).toNat) = some (id, k) →
      Performs .tokenAck s fun t => quiet t ∧ t.pkg.out = s.pkg.out - k ∧ t.pkg.transfers = s.pkg.transfers.filter fun y => y.1 ≠ (x.w 0).toNat) ∧
    Performs .governorInterval s (fun t => SameRegs s t ∧ SameMem s t ∧ t.pkg.draw ≤ 4000 ∧ (s.pkg.shed ≤ 100 → t.pkg.shed ≤ 100) ∧
      (allShed s = false → t.pkg.draw ≤ s.pkg.capHeld) ∧ t.pkg.capHeld = s.pkg.cap ∧
      ∀ i n, (s.die i).energy.toNat ≤ (t.die i).energy.toNat ∧ (s.ctx i n).energy.toNat ≤ (t.ctx i n).energy.toNat) ∧
    (∀ g, s.myCore.grant = some g → g.2 ≤ d.ftime.toNat → Performs .paceGrantExpiry s fun t => quiet t ∧ t.myCore.grant = none) ∧
    (d.booted = true → bit d.clkst 62 = false → bit (d.dbgReg 0x930) 63 = false →
      Performs .referenceLoss s fun t => quiet t ∧ (t.die die).clkst = 1#64 <<< 62 ∧ (t.die die).holdFrom = d.ftime) ∧
    (bit d.clkst 62 = true → bit (d.dbgReg 0x930) 63 = false →
      Performs .referenceLock s fun t => quiet t ∧ bit (t.die die).clkst 63 = true ∧ bit (t.die die).clkst 62 = false ∧
        bit (t.die die).clkst 61 = true ∧ (t.die die).slew.natAbs ≤ 20 * fld (clkstWord d) 0 32 / 1000 + 4) ∧
    (bit d.clkst 61 = true → d.skipNs = false → d.slewAt.toNat + 1000 ≤ d.ftime.toNat →
      (0 < d.slew → Performs .slewStep s fun t => quiet t ∧ (t.die die).ftime = d.ftime + 1 ∧ (t.die die).slew = d.slew - 1) ∧
      (d.slew < 0 → Performs .slewStep s fun t => quiet t ∧ (t.die die).ftime = d.ftime ∧ (t.die die).skipNs = true ∧
        (t.die die).slew = d.slew + 1)) ∧
    (bit d.clkst 61 = true → d.slew = 0 →
      Performs .realignmentGap s fun t => quiet t ∧ (t.die die).gap = true ∧ bit (t.die die).clkst 61 = false) ∧
    (let held := s.unfenced.any fun i => (List.range 15).any fun k => (s.ctx i k).state ≠ 0
     let asked := fun (p : Pkg) => exec .fieldResetRequest s = .next { s with free := s.free + 1, pkg := p, verdict := .performed }
     ((s.die 0).fenced = true ∨ (s.die 0).booted = false → Idles .fieldResetRequest s) ∧
     ((s.die 0).fenced = false → (s.die 0).booted = true →
      if Config.pkgNumber ≠ 0 then Idles .fieldResetRequest s
      else if held = true ∨ bit (Config.freeValue s.free) 0 = true then asked { s.pkg with resetRefused := true }
      else asked { s.pkg with resetRefused := false, fieldReset := some ((s.die 0).ftime + 1000000) })) ∧
    (∀ at_, s.pkg.fieldReset = some at_ → at_.toNat ≤ (s.die (s.unfenced.headD 0)).ftime.toNat →
      Performs .fieldResetInstant s fun t => quiet t ∧ t.pkg.fieldReset = none ∧ ∀ i, i < 8 → (s.die i).fenced = false → (t.die i).ftime = 0 ∧ (t.die i).odd = false) ∧
    (let v := e.a.toNat % 64
     Tab.get 0 d.msixHold v = 0 → Tab.get false d.msixMore v = true →
      Performs .interruptHoldoffExpiry s fun t => quiet t ∧ Tab.get 0 (t.die die).msixHold v = 1000 ∧ Tab.get false (t.die die).msixMore v = false) ∧
    Performs .clockFreeze s (fun t => quiet t ∧ (t.die die).frozenClk = true)

/-- A reset of the module returns every die to its reset state and keeps memory; a die boots or is fenced with the cause of the step that
failed, and the last one prepares every die in service; the host reads, writes and claims through its windows, a fenced die aborting.
The events are of the model's own form (log 5); what boot and a module reset leave where the spec is silent is its choice (logs 2, 6 and 17). -/
def Obligations.BootAndHost : Prop :=
  ∀ (s : State),
    let die := s.cur.die
    let d := s.die die
    let e := s.hand.ev
    let r := e.a.toNat % 4
    let more := ∃ i, i < 8 ∧ i ≠ die ∧ (s.die i).booted = false ∧ (s.die i).fenced = false
    let ready := hostStart s e = some false
    let free := ∀ n, (s.ctx (hostDie e) n).brkRegs = []
    Yields .moduleReset s { s with dies := [], pkg := {}, net := [] } ∧
    (d.booted = false → d.fenced = false →
      (d.frozenClk = false → r = 0 → more → Performs .dieBoot s fun t => SameMem s t ∧ (t.die die).booted = true ∧
        (t.die die).ftime = fieldNow s ∧ t.pkg = s.pkg) ∧
      (d.frozenClk = false → r = 0 → ¬ more → die < 8 → Performs .dieBoot s fun t =>
        ∀ i, i < 8 → (i = die ∨ (s.die i).fenced = false) → (t.ctx i 15).state = 1 ∧ (t.ctx i 15).sup = true ∧ (t.ctx i 15).job = 0 ∧
          Tab.get 0 (t.die i).rote 0 = BitVec.ofNat 64 (2 ^ 63 + 15 * 2 ^ 59 + 2 ^ 32 + 2 ^ 15)) ∧
      (d.frozenClk = false → r ≠ 0 → Performs .dieBoot s fun t => (t.die die).fenced = true ∧ (t.die die).bootCause = r ∧
        (more → SameMem s t ∧ t.pkg = s.pkg)) ∧
      Performs .bootAnswerTimeout s fun t => (t.die die).fenced = true ∧ (t.die die).bootCause = 4 ∧ (more → SameMem s t ∧ t.pkg = s.pkg)) ∧
    (hostStart s e = some true → ∀ i ∈ [Instr.hostRead, .hostWrite, .hostAtomic], Performs i s fun t => SameRegs s t ∧ SameMem s t ∧
      t.pkg.completion = none) ∧
    (hostStart s e = none → ∀ i ∈ [Instr.hostRead, .hostWrite, .hostAtomic], Idles i s) ∧
    (ready → hostBar e = 0 → Performs .hostRead s fun t => SameRegs s t ∧ SameMem s t ∧
      t.pkg.completion = some (toBytes 8 (hostReg s e).toNat)) ∧
    (ready → hostBar e ≠ 0 →
      (hostKey s e = none → Performs .hostRead s fun t => SameRegs s t ∧ SameMem s t ∧
        t.pkg.completion = some (List.replicate (hostCount e 4096) 0)) ∧
      (∀ k, hostKey s e = some k →
        (s.badIn k (hostCount e 4096) = none → Performs .hostRead s fun t => SameRegs s t ∧ SameMem s t ∧
          t.pkg.completion = some (s.bytes k (hostCount e 4096))) ∧
        (let bs := (toBytes (hostCount e 8) e.c.toNat).map some
         partialBad s k bs = false → free → Performs .hostWrite s fun t => SameRegs s t ∧ t.mem = (s.putBytes k bs).mem) ∧
        (k % 8 = 0 → s.badIn k 8 = none → free → Performs .hostAtomic s fun t => SameRegs s t ∧
          t.pkg.completion = some (toBytes 8 (claim (s.num k 8) (fld e.c 0 32)).2.toNat) ∧
          ∀ v, (claim (s.num k 8) (fld e.c 0 32)).1 = some v → t.mem = (s.putNum k 8 v).mem))) ∧
    (∀ row u, let k := fld e.a 0 12
      ready → hostBar e = 0 → hostRing e = false → regRow k = some row → 3 ≤ k → row.write ≠ 2 →
        writeReg (hostDie e) (fld e.d 0 4) (fld e.d 8 4) k e.c s = .ok u → Yields .hostWrite s u) ∧
    Performs .boardManagementRead s (fun t => SameRegs s t ∧ SameMem s t ∧
      t.pkg.completion = some (toBytes 8 (match r with
        | 0 => pwrstWord s
        | 1 => clkstWord d
        | 2 => s.pkg.bootrpt
        | _ => BitVec.ofNat 64 (b2n s.pkg.resetRefused)).toNat))
end

