-- ==== Sys2Proof/Laws/State.lean ====
section
/-!
SUPPORT. Reading the state after an update: tables by number, and for each update of a part the fields and parts it leaves
alone.
-/

namespace Sys2Proof.Machine

/-! ### Tables -/

@[simp] theorem Tab.get_nil {α : Type} (d : α) (n : Nat) : Tab.get d [] n = d := rfl

/-- Reading a table after one entry was put. -/
@[simp] theorem Tab.get_put {α : Type} (d : α) (t : Tab α) (n m : Nat) (x : α) :
    Tab.get d (Tab.put t n x) m = if m = n then x else Tab.get d t m := by
  induction t with
  | nil =>
    by_cases hm : m = n
    · simp [Tab.put, Tab.get, hm]
    · simp [Tab.put, Tab.get, hm, Ne.symm hm]
  | cons e t ih =>
    obtain ⟨k, v⟩ := e
    by_cases h1 : n < k
    · by_cases hm : m = n
      · simp [Tab.put, Tab.get, h1, hm]
      · simp [Tab.put, Tab.get, h1, hm, Ne.symm hm]
    · by_cases h2 : n = k
      · subst h2
        by_cases hm : m = n
        · simp [Tab.put, Tab.get, hm]
        · simp [Tab.put, Tab.get, hm, Ne.symm hm]
      · by_cases hm : m = n
        · subst hm
          simp [Tab.put, Tab.get, h1, h2, Ne.symm h2, ih]
        · simp [Tab.put, Tab.get, h1, h2, hm, ih]

/-- The entry that was put. -/
theorem Tab.get_put_self {α : Type} (d : α) (t : Tab α) (n : Nat) (x : α) : Tab.get d (Tab.put t n x) n = x := by simp

/-- Any other entry. -/
theorem Tab.get_put_ne {α : Type} (d : α) (t : Tab α) {n m : Nat} (x : α) (h : m ≠ n) :
    Tab.get d (Tab.put t n x) m = Tab.get d t m := by simp [h]

/-! ### The fields an update leaves alone -/

@[simp] theorem State.modDie_pkg (s : State) (d : Nat) (f : Die → Die) : (s.modDie d f).pkg = s.pkg := rfl
@[simp] theorem State.modDie_mem (s : State) (d : Nat) (f : Die → Die) : (s.modDie d f).mem = s.mem := rfl
@[simp] theorem State.modDie_bad (s : State) (d : Nat) (f : Die → Die) : (s.modDie d f).bad = s.bad := rfl
@[simp] theorem State.modDie_soft (s : State) (d : Nat) (f : Die → Die) : (s.modDie d f).soft = s.soft := rfl
@[simp] theorem State.modDie_net (s : State) (d : Nat) (f : Die → Die) : (s.modDie d f).net = s.net := rfl
@[simp] theorem State.modDie_nextReq (s : State) (d : Nat) (f : Die → Die) : (s.modDie d f).nextReq = s.nextReq := rfl
@[simp] theorem State.modDie_agenda (s : State) (d : Nat) (f : Die → Die) : (s.modDie d f).agenda = s.agenda := rfl
@[simp] theorem State.modDie_hand (s : State) (d : Nat) (f : Die → Die) : (s.modDie d f).hand = s.hand := rfl
@[simp] theorem State.modDie_cur (s : State) (d : Nat) (f : Die → Die) : (s.modDie d f).cur = s.cur := rfl
@[simp] theorem State.modDie_verdict (s : State) (d : Nat) (f : Die → Die) : (s.modDie d f).verdict = s.verdict := rfl
@[simp] theorem State.modDie_free (s : State) (d : Nat) (f : Die → Die) : (s.modDie d f).free = s.free := rfl

@[simp] theorem State.modCore_pkg (s : State) (d c : Nat) (f : Core → Core) : (s.modCore d c f).pkg = s.pkg := rfl
@[simp] theorem State.modCore_mem (s : State) (d c : Nat) (f : Core → Core) : (s.modCore d c f).mem = s.mem := rfl
@[simp] theorem State.modCore_bad (s : State) (d c : Nat) (f : Core → Core) : (s.modCore d c f).bad = s.bad := rfl
@[simp] theorem State.modCore_soft (s : State) (d c : Nat) (f : Core → Core) : (s.modCore d c f).soft = s.soft := rfl
@[simp] theorem State.modCore_net (s : State) (d c : Nat) (f : Core → Core) : (s.modCore d c f).net = s.net := rfl
@[simp] theorem State.modCore_nextReq (s : State) (d c : Nat) (f : Core → Core) : (s.modCore d c f).nextReq = s.nextReq := rfl
@[simp] theorem State.modCore_agenda (s : State) (d c : Nat) (f : Core → Core) : (s.modCore d c f).agenda = s.agenda := rfl
@[simp] theorem State.modCore_hand (s : State) (d c : Nat) (f : Core → Core) : (s.modCore d c f).hand = s.hand := rfl
@[simp] theorem State.modCore_cur (s : State) (d c : Nat) (f : Core → Core) : (s.modCore d c f).cur = s.cur := rfl
@[simp] theorem State.modCore_verdict (s : State) (d c : Nat) (f : Core → Core) : (s.modCore d c f).verdict = s.verdict := rfl
@[simp] theorem State.modCore_free (s : State) (d c : Nat) (f : Core → Core) : (s.modCore d c f).free = s.free := rfl

@[simp] theorem State.modStrand_pkg (s : State) (d c n : Nat) (f : Strand → Strand) : (s.modStrand d c n f).pkg = s.pkg := rfl
@[simp] theorem State.modStrand_mem (s : State) (d c n : Nat) (f : Strand → Strand) : (s.modStrand d c n f).mem = s.mem := rfl
@[simp] theorem State.modStrand_bad (s : State) (d c n : Nat) (f : Strand → Strand) : (s.modStrand d c n f).bad = s.bad := rfl
@[simp] theorem State.modStrand_soft (s : State) (d c n : Nat) (f : Strand → Strand) : (s.modStrand d c n f).soft = s.soft := rfl
@[simp] theorem State.modStrand_net (s : State) (d c n : Nat) (f : Strand → Strand) : (s.modStrand d c n f).net = s.net := rfl
@[simp] theorem State.modStrand_nextReq (s : State) (d c n : Nat) (f : Strand → Strand) : (s.modStrand d c n f).nextReq = s.nextReq := rfl
@[simp] theorem State.modStrand_agenda (s : State) (d c n : Nat) (f : Strand → Strand) : (s.modStrand d c n f).agenda = s.agenda := rfl
@[simp] theorem State.modStrand_hand (s : State) (d c n : Nat) (f : Strand → Strand) : (s.modStrand d c n f).hand = s.hand := rfl
@[simp] theorem State.modStrand_cur (s : State) (d c n : Nat) (f : Strand → Strand) : (s.modStrand d c n f).cur = s.cur := rfl
@[simp] theorem State.modStrand_verdict (s : State) (d c n : Nat) (f : Strand → Strand) : (s.modStrand d c n f).verdict = s.verdict := rfl
@[simp] theorem State.modStrand_free (s : State) (d c n : Nat) (f : Strand → Strand) : (s.modStrand d c n f).free = s.free := rfl

@[simp] theorem State.modCluster_pkg (s : State) (d n : Nat) (f : Cluster → Cluster) : (s.modCluster d n f).pkg = s.pkg := rfl
@[simp] theorem State.modCluster_mem (s : State) (d n : Nat) (f : Cluster → Cluster) : (s.modCluster d n f).mem = s.mem := rfl
@[simp] theorem State.modCluster_bad (s : State) (d n : Nat) (f : Cluster → Cluster) : (s.modCluster d n f).bad = s.bad := rfl
@[simp] theorem State.modCluster_soft (s : State) (d n : Nat) (f : Cluster → Cluster) : (s.modCluster d n f).soft = s.soft := rfl
@[simp] theorem State.modCluster_net (s : State) (d n : Nat) (f : Cluster → Cluster) : (s.modCluster d n f).net = s.net := rfl
@[simp] theorem State.modCluster_nextReq (s : State) (d n : Nat) (f : Cluster → Cluster) : (s.modCluster d n f).nextReq = s.nextReq := rfl
@[simp] theorem State.modCluster_agenda (s : State) (d n : Nat) (f : Cluster → Cluster) : (s.modCluster d n f).agenda = s.agenda := rfl
@[simp] theorem State.modCluster_hand (s : State) (d n : Nat) (f : Cluster → Cluster) : (s.modCluster d n f).hand = s.hand := rfl
@[simp] theorem State.modCluster_cur (s : State) (d n : Nat) (f : Cluster → Cluster) : (s.modCluster d n f).cur = s.cur := rfl
@[simp] theorem State.modCluster_verdict (s : State) (d n : Nat) (f : Cluster → Cluster) : (s.modCluster d n f).verdict = s.verdict := rfl
@[simp] theorem State.modCluster_free (s : State) (d n : Nat) (f : Cluster → Cluster) : (s.modCluster d n f).free = s.free := rfl

@[simp] theorem State.modCtx_pkg (s : State) (d n : Nat) (f : Ctx → Ctx) : (s.modCtx d n f).pkg = s.pkg := rfl
@[simp] theorem State.modCtx_mem (s : State) (d n : Nat) (f : Ctx → Ctx) : (s.modCtx d n f).mem = s.mem := rfl
@[simp] theorem State.modCtx_bad (s : State) (d n : Nat) (f : Ctx → Ctx) : (s.modCtx d n f).bad = s.bad := rfl
@[simp] theorem State.modCtx_soft (s : State) (d n : Nat) (f : Ctx → Ctx) : (s.modCtx d n f).soft = s.soft := rfl
@[simp] theorem State.modCtx_net (s : State) (d n : Nat) (f : Ctx → Ctx) : (s.modCtx d n f).net = s.net := rfl
@[simp] theorem State.modCtx_nextReq (s : State) (d n : Nat) (f : Ctx → Ctx) : (s.modCtx d n f).nextReq = s.nextReq := rfl
@[simp] theorem State.modCtx_agenda (s : State) (d n : Nat) (f : Ctx → Ctx) : (s.modCtx d n f).agenda = s.agenda := rfl
@[simp] theorem State.modCtx_hand (s : State) (d n : Nat) (f : Ctx → Ctx) : (s.modCtx d n f).hand = s.hand := rfl
@[simp] theorem State.modCtx_cur (s : State) (d n : Nat) (f : Ctx → Ctx) : (s.modCtx d n f).cur = s.cur := rfl
@[simp] theorem State.modCtx_verdict (s : State) (d n : Nat) (f : Ctx → Ctx) : (s.modCtx d n f).verdict = s.verdict := rfl
@[simp] theorem State.modCtx_free (s : State) (d n : Nat) (f : Ctx → Ctx) : (s.modCtx d n f).free = s.free := rfl

@[simp] theorem State.modRing_pkg (s : State) (d n : Nat) (f : Ring → Ring) : (s.modRing d n f).pkg = s.pkg := rfl
@[simp] theorem State.modRing_mem (s : State) (d n : Nat) (f : Ring → Ring) : (s.modRing d n f).mem = s.mem := rfl
@[simp] theorem State.modRing_bad (s : State) (d n : Nat) (f : Ring → Ring) : (s.modRing d n f).bad = s.bad := rfl
@[simp] theorem State.modRing_soft (s : State) (d n : Nat) (f : Ring → Ring) : (s.modRing d n f).soft = s.soft := rfl
@[simp] theorem State.modRing_net (s : State) (d n : Nat) (f : Ring → Ring) : (s.modRing d n f).net = s.net := rfl
@[simp] theorem State.modRing_nextReq (s : State) (d n : Nat) (f : Ring → Ring) : (s.modRing d n f).nextReq = s.nextReq := rfl
@[simp] theorem State.modRing_agenda (s : State) (d n : Nat) (f : Ring → Ring) : (s.modRing d n f).agenda = s.agenda := rfl
@[simp] theorem State.modRing_hand (s : State) (d n : Nat) (f : Ring → Ring) : (s.modRing d n f).hand = s.hand := rfl
@[simp] theorem State.modRing_cur (s : State) (d n : Nat) (f : Ring → Ring) : (s.modRing d n f).cur = s.cur := rfl
@[simp] theorem State.modRing_verdict (s : State) (d n : Nat) (f : Ring → Ring) : (s.modRing d n f).verdict = s.verdict := rfl
@[simp] theorem State.modRing_free (s : State) (d n : Nat) (f : Ring → Ring) : (s.modRing d n f).free = s.free := rfl

@[simp] theorem State.modDrill_pkg (s : State) (d n : Nat) (f : Drill → Drill) : (s.modDrill d n f).pkg = s.pkg := rfl
@[simp] theorem State.modDrill_mem (s : State) (d n : Nat) (f : Drill → Drill) : (s.modDrill d n f).mem = s.mem := rfl
@[simp] theorem State.modDrill_bad (s : State) (d n : Nat) (f : Drill → Drill) : (s.modDrill d n f).bad = s.bad := rfl
@[simp] theorem State.modDrill_soft (s : State) (d n : Nat) (f : Drill → Drill) : (s.modDrill d n f).soft = s.soft := rfl
@[simp] theorem State.modDrill_net (s : State) (d n : Nat) (f : Drill → Drill) : (s.modDrill d n f).net = s.net := rfl
@[simp] theorem State.modDrill_nextReq (s : State) (d n : Nat) (f : Drill → Drill) : (s.modDrill d n f).nextReq = s.nextReq := rfl
@[simp] theorem State.modDrill_agenda (s : State) (d n : Nat) (f : Drill → Drill) : (s.modDrill d n f).agenda = s.agenda := rfl
@[simp] theorem State.modDrill_hand (s : State) (d n : Nat) (f : Drill → Drill) : (s.modDrill d n f).hand = s.hand := rfl
@[simp] theorem State.modDrill_cur (s : State) (d n : Nat) (f : Drill → Drill) : (s.modDrill d n f).cur = s.cur := rfl
@[simp] theorem State.modDrill_verdict (s : State) (d n : Nat) (f : Drill → Drill) : (s.modDrill d n f).verdict = s.verdict := rfl
@[simp] theorem State.modDrill_free (s : State) (d n : Nat) (f : Drill → Drill) : (s.modDrill d n f).free = s.free := rfl

@[simp] theorem State.modMyCore_pkg (s : State) (f : Core → Core) : (s.modMyCore f).pkg = s.pkg := rfl
@[simp] theorem State.modMyCore_mem (s : State) (f : Core → Core) : (s.modMyCore f).mem = s.mem := rfl
@[simp] theorem State.modMyCore_bad (s : State) (f : Core → Core) : (s.modMyCore f).bad = s.bad := rfl
@[simp] theorem State.modMyCore_soft (s : State) (f : Core → Core) : (s.modMyCore f).soft = s.soft := rfl
@[simp] theorem State.modMyCore_net (s : State) (f : Core → Core) : (s.modMyCore f).net = s.net := rfl
@[simp] theorem State.modMyCore_nextReq (s : State) (f : Core → Core) : (s.modMyCore f).nextReq = s.nextReq := rfl
@[simp] theorem State.modMyCore_agenda (s : State) (f : Core → Core) : (s.modMyCore f).agenda = s.agenda := rfl
@[simp] theorem State.modMyCore_hand (s : State) (f : Core → Core) : (s.modMyCore f).hand = s.hand := rfl
@[simp] theorem State.modMyCore_cur (s : State) (f : Core → Core) : (s.modMyCore f).cur = s.cur := rfl
@[simp] theorem State.modMyCore_verdict (s : State) (f : Core → Core) : (s.modMyCore f).verdict = s.verdict := rfl
@[simp] theorem State.modMyCore_free (s : State) (f : Core → Core) : (s.modMyCore f).free = s.free := rfl

@[simp] theorem State.modMe_pkg (s : State) (f : Strand → Strand) : (s.modMe f).pkg = s.pkg := rfl
@[simp] theorem State.modMe_mem (s : State) (f : Strand → Strand) : (s.modMe f).mem = s.mem := rfl
@[simp] theorem State.modMe_bad (s : State) (f : Strand → Strand) : (s.modMe f).bad = s.bad := rfl
@[simp] theorem State.modMe_soft (s : State) (f : Strand → Strand) : (s.modMe f).soft = s.soft := rfl
@[simp] theorem State.modMe_net (s : State) (f : Strand → Strand) : (s.modMe f).net = s.net := rfl
@[simp] theorem State.modMe_nextReq (s : State) (f : Strand → Strand) : (s.modMe f).nextReq = s.nextReq := rfl
@[simp] theorem State.modMe_agenda (s : State) (f : Strand → Strand) : (s.modMe f).agenda = s.agenda := rfl
@[simp] theorem State.modMe_hand (s : State) (f : Strand → Strand) : (s.modMe f).hand = s.hand := rfl
@[simp] theorem State.modMe_cur (s : State) (f : Strand → Strand) : (s.modMe f).cur = s.cur := rfl
@[simp] theorem State.modMe_verdict (s : State) (f : Strand → Strand) : (s.modMe f).verdict = s.verdict := rfl
@[simp] theorem State.modMe_free (s : State) (f : Strand → Strand) : (s.modMe f).free = s.free := rfl

@[simp] theorem State.modMyCtx_pkg (s : State) (f : Ctx → Ctx) : (s.modMyCtx f).pkg = s.pkg := rfl
@[simp] theorem State.modMyCtx_mem (s : State) (f : Ctx → Ctx) : (s.modMyCtx f).mem = s.mem := rfl
@[simp] theorem State.modMyCtx_bad (s : State) (f : Ctx → Ctx) : (s.modMyCtx f).bad = s.bad := rfl
@[simp] theorem State.modMyCtx_soft (s : State) (f : Ctx → Ctx) : (s.modMyCtx f).soft = s.soft := rfl
@[simp] theorem State.modMyCtx_net (s : State) (f : Ctx → Ctx) : (s.modMyCtx f).net = s.net := rfl
@[simp] theorem State.modMyCtx_nextReq (s : State) (f : Ctx → Ctx) : (s.modMyCtx f).nextReq = s.nextReq := rfl
@[simp] theorem State.modMyCtx_agenda (s : State) (f : Ctx → Ctx) : (s.modMyCtx f).agenda = s.agenda := rfl
@[simp] theorem State.modMyCtx_hand (s : State) (f : Ctx → Ctx) : (s.modMyCtx f).hand = s.hand := rfl
@[simp] theorem State.modMyCtx_cur (s : State) (f : Ctx → Ctx) : (s.modMyCtx f).cur = s.cur := rfl
@[simp] theorem State.modMyCtx_verdict (s : State) (f : Ctx → Ctx) : (s.modMyCtx f).verdict = s.verdict := rfl
@[simp] theorem State.modMyCtx_free (s : State) (f : Ctx → Ctx) : (s.modMyCtx f).free = s.free := rfl

/-! ### The parts an update reaches -/

@[simp] theorem State.modDie_die (s : State) (d e : Nat) (f : Die → Die) :
    (s.modDie d f).die e = if e = d then f (s.die d) else s.die e := by simp [State.die, State.modDie]

@[simp] theorem State.modCore_core (s : State) (d c e k : Nat) (f : Core → Core) :
    (s.modCore d c f).core e k = if e = d ∧ k = c then f (s.core d c) else s.core e k := by
  simp only [State.core, State.modCore, State.modDie_die]
  by_cases he : e = d <;> simp [he]

@[simp] theorem Core.modStrand_strand (c : Core) (n m : Nat) (f : Strand → Strand) :
    (c.modStrand n f).strand m = if m = n then f (c.strand n) else c.strand m := by
  simp [Core.strand, Core.modStrand]

@[simp] theorem State.modStrand_strand (s : State) (d c n e k m : Nat) (f : Strand → Strand) :
    (s.modStrand d c n f).strand e k m = if e = d ∧ k = c ∧ m = n then f (s.strand d c n) else s.strand e k m := by
  simp only [State.strand, State.modStrand, State.modCore_core]
  by_cases h : e = d ∧ k = c
  · obtain ⟨rfl, rfl⟩ := h; by_cases hm : m = n <;> simp [hm]
  · simp only [h, if_false]
    split
    · rename_i h'; exact absurd ⟨h'.1, h'.2.1⟩ h
    · rfl

@[simp] theorem State.modCtx_ctx (s : State) (d n e k : Nat) (f : Ctx → Ctx) :
    (s.modCtx d n f).ctx e k = if e = d ∧ k = n then f (s.ctx d n) else s.ctx e k := by
  simp only [State.ctx, State.modCtx, State.modDie_die]
  by_cases he : e = d <;> simp [he]

@[simp] theorem State.modRing_ring (s : State) (d n e k : Nat) (f : Ring → Ring) :
    (s.modRing d n f).ring e k = if e = d ∧ k = n then f (s.ring d n) else s.ring e k := by
  simp only [State.ring, State.modRing, State.modDie_die]
  by_cases he : e = d <;> simp [he]

@[simp] theorem State.modDrill_drill (s : State) (d n e k : Nat) (f : Drill → Drill) :
    (s.modDrill d n f).drill e k = if e = d ∧ k = n then f (s.drill d n) else s.drill e k := by
  simp only [State.drill, State.modDrill, State.modDie_die]
  by_cases he : e = d <;> simp [he]

@[simp] theorem State.modCluster_cluster (s : State) (d n e k : Nat) (f : Cluster → Cluster) :
    (s.modCluster d n f).cluster e k = if e = d ∧ k = n then f (s.cluster d n) else s.cluster e k := by
  simp only [State.cluster, State.modCluster, State.modDie_die]
  by_cases he : e = d <;> simp [he]

@[simp] theorem State.modCore_ctx (s : State) (d c : Nat) (f : Core → Core) (e k : Nat) : (s.modCore d c f).ctx e k = s.ctx e k := by
  simp only [State.ctx, State.modCore, State.modDie_die]
  by_cases he : e = d <;> simp [he]

@[simp] theorem State.modCore_ring (s : State) (d c : Nat) (f : Core → Core) (e k : Nat) : (s.modCore d c f).ring e k = s.ring e k := by
  simp only [State.ring, State.modCore, State.modDie_die]
  by_cases he : e = d <;> simp [he]

@[simp] theorem State.modCore_drill (s : State) (d c : Nat) (f : Core → Core) (e k : Nat) : (s.modCore d c f).drill e k = s.drill e k := by
  simp only [State.drill, State.modCore, State.modDie_die]
  by_cases he : e = d <;> simp [he]

@[simp] theorem State.modCore_cluster (s : State) (d c : Nat) (f : Core → Core) (e k : Nat) : (s.modCore d c f).cluster e k = s.cluster e k := by
  simp only [State.cluster, State.modCore, State.modDie_die]
  by_cases he : e = d <;> simp [he]

@[simp] theorem State.modCtx_core (s : State) (d n : Nat) (f : Ctx → Ctx) (e k : Nat) : (s.modCtx d n f).core e k = s.core e k := by
  simp only [State.core, State.modCtx, State.modDie_die]
  by_cases he : e = d <;> simp [he]

@[simp] theorem State.modCtx_ring (s : State) (d n : Nat) (f : Ctx → Ctx) (e k : Nat) : (s.modCtx d n f).ring e k = s.ring e k := by
  simp only [State.ring, State.modCtx, State.modDie_die]
  by_cases he : e = d <;> simp [he]

@[simp] theorem State.modCtx_drill (s : State) (d n : Nat) (f : Ctx → Ctx) (e k : Nat) : (s.modCtx d n f).drill e k = s.drill e k := by
  simp only [State.drill, State.modCtx, State.modDie_die]
  by_cases he : e = d <;> simp [he]

@[simp] theorem State.modCtx_cluster (s : State) (d n : Nat) (f : Ctx → Ctx) (e k : Nat) : (s.modCtx d n f).cluster e k = s.cluster e k := by
  simp only [State.cluster, State.modCtx, State.modDie_die]
  by_cases he : e = d <;> simp [he]

@[simp] theorem State.modRing_core (s : State) (d n : Nat) (f : Ring → Ring) (e k : Nat) : (s.modRing d n f).core e k = s.core e k := by
  simp only [State.core, State.modRing, State.modDie_die]
  by_cases he : e = d <;> simp [he]

@[simp] theorem State.modRing_ctx (s : State) (d n : Nat) (f : Ring → Ring) (e k : Nat) : (s.modRing d n f).ctx e k = s.ctx e k := by
  simp only [State.ctx, State.modRing, State.modDie_die]
  by_cases he : e = d <;> simp [he]

@[simp] theorem State.modRing_drill (s : State) (d n : Nat) (f : Ring → Ring) (e k : Nat) : (s.modRing d n f).drill e k = s.drill e k := by
  simp only [State.drill, State.modRing, State.modDie_die]
  by_cases he : e = d <;> simp [he]

@[simp] theorem State.modRing_cluster (s : State) (d n : Nat) (f : Ring → Ring) (e k : Nat) : (s.modRing d n f).cluster e k = s.cluster e k := by
  simp only [State.cluster, State.modRing, State.modDie_die]
  by_cases he : e = d <;> simp [he]

@[simp] theorem State.modDrill_core (s : State) (d n : Nat) (f : Drill → Drill) (e k : Nat) : (s.modDrill d n f).core e k = s.core e k := by
  simp only [State.core, State.modDrill, State.modDie_die]
  by_cases he : e = d <;> simp [he]

@[simp] theorem State.modDrill_ctx (s : State) (d n : Nat) (f : Drill → Drill) (e k : Nat) : (s.modDrill d n f).ctx e k = s.ctx e k := by
  simp only [State.ctx, State.modDrill, State.modDie_die]
  by_cases he : e = d <;> simp [he]

@[simp] theorem State.modDrill_ring (s : State) (d n : Nat) (f : Drill → Drill) (e k : Nat) : (s.modDrill d n f).ring e k = s.ring e k := by
  simp only [State.ring, State.modDrill, State.modDie_die]
  by_cases he : e = d <;> simp [he]

@[simp] theorem State.modDrill_cluster (s : State) (d n : Nat) (f : Drill → Drill) (e k : Nat) : (s.modDrill d n f).cluster e k = s.cluster e k := by
  simp only [State.cluster, State.modDrill, State.modDie_die]
  by_cases he : e = d <;> simp [he]

@[simp] theorem State.modCluster_core (s : State) (d n : Nat) (f : Cluster → Cluster) (e k : Nat) : (s.modCluster d n f).core e k = s.core e k := by
  simp only [State.core, State.modCluster, State.modDie_die]
  by_cases he : e = d <;> simp [he]

@[simp] theorem State.modCluster_ctx (s : State) (d n : Nat) (f : Cluster → Cluster) (e k : Nat) : (s.modCluster d n f).ctx e k = s.ctx e k := by
  simp only [State.ctx, State.modCluster, State.modDie_die]
  by_cases he : e = d <;> simp [he]

@[simp] theorem State.modCluster_ring (s : State) (d n : Nat) (f : Cluster → Cluster) (e k : Nat) : (s.modCluster d n f).ring e k = s.ring e k := by
  simp only [State.ring, State.modCluster, State.modDie_die]
  by_cases he : e = d <;> simp [he]

@[simp] theorem State.modCluster_drill (s : State) (d n : Nat) (f : Cluster → Cluster) (e k : Nat) : (s.modCluster d n f).drill e k = s.drill e k := by
  simp only [State.drill, State.modCluster, State.modDie_die]
  by_cases he : e = d <;> simp [he]

@[simp] theorem State.modCore_booted (s : State) (d c : Nat) (f : Core → Core) (e : Nat) : ((s.modCore d c f).die e).booted = (s.die e).booted := by
  simp only [State.modCore, State.modDie_die]
  by_cases he : e = d <;> simp [he]

@[simp] theorem State.modCore_fenced (s : State) (d c : Nat) (f : Core → Core) (e : Nat) : ((s.modCore d c f).die e).fenced = (s.die e).fenced := by
  simp only [State.modCore, State.modDie_die]
  by_cases he : e = d <;> simp [he]

@[simp] theorem State.modCore_frozenClk (s : State) (d c : Nat) (f : Core → Core) (e : Nat) : ((s.modCore d c f).die e).frozenClk = (s.die e).frozenClk := by
  simp only [State.modCore, State.modDie_die]
  by_cases he : e = d <;> simp [he]

@[simp] theorem State.modCore_cyc (s : State) (d c : Nat) (f : Core → Core) (e : Nat) : ((s.modCore d c f).die e).cyc = (s.die e).cyc := by
  simp only [State.modCore, State.modDie_die]
  by_cases he : e = d <;> simp [he]

@[simp] theorem State.modCore_ftime (s : State) (d c : Nat) (f : Core → Core) (e : Nat) : ((s.modCore d c f).die e).ftime = (s.die e).ftime := by
  simp only [State.modCore, State.modDie_die]
  by_cases he : e = d <;> simp [he]

@[simp] theorem State.modCore_clkst (s : State) (d c : Nat) (f : Core → Core) (e : Nat) : ((s.modCore d c f).die e).clkst = (s.die e).clkst := by
  simp only [State.modCore, State.modDie_die]
  by_cases he : e = d <;> simp [he]

@[simp] theorem State.modCtx_booted (s : State) (d n : Nat) (f : Ctx → Ctx) (e : Nat) : ((s.modCtx d n f).die e).booted = (s.die e).booted := by
  simp only [State.modCtx, State.modDie_die]
  by_cases he : e = d <;> simp [he]

@[simp] theorem State.modCtx_fenced (s : State) (d n : Nat) (f : Ctx → Ctx) (e : Nat) : ((s.modCtx d n f).die e).fenced = (s.die e).fenced := by
  simp only [State.modCtx, State.modDie_die]
  by_cases he : e = d <;> simp [he]

@[simp] theorem State.modCtx_frozenClk (s : State) (d n : Nat) (f : Ctx → Ctx) (e : Nat) : ((s.modCtx d n f).die e).frozenClk = (s.die e).frozenClk := by
  simp only [State.modCtx, State.modDie_die]
  by_cases he : e = d <;> simp [he]

@[simp] theorem State.modCtx_cyc (s : State) (d n : Nat) (f : Ctx → Ctx) (e : Nat) : ((s.modCtx d n f).die e).cyc = (s.die e).cyc := by
  simp only [State.modCtx, State.modDie_die]
  by_cases he : e = d <;> simp [he]

@[simp] theorem State.modCtx_ftime (s : State) (d n : Nat) (f : Ctx → Ctx) (e : Nat) : ((s.modCtx d n f).die e).ftime = (s.die e).ftime := by
  simp only [State.modCtx, State.modDie_die]
  by_cases he : e = d <;> simp [he]

@[simp] theorem State.modCtx_clkst (s : State) (d n : Nat) (f : Ctx → Ctx) (e : Nat) : ((s.modCtx d n f).die e).clkst = (s.die e).clkst := by
  simp only [State.modCtx, State.modDie_die]
  by_cases he : e = d <;> simp [he]

@[simp] theorem State.modRing_booted (s : State) (d n : Nat) (f : Ring → Ring) (e : Nat) : ((s.modRing d n f).die e).booted = (s.die e).booted := by
  simp only [State.modRing, State.modDie_die]
  by_cases he : e = d <;> simp [he]

@[simp] theorem State.modRing_fenced (s : State) (d n : Nat) (f : Ring → Ring) (e : Nat) : ((s.modRing d n f).die e).fenced = (s.die e).fenced := by
  simp only [State.modRing, State.modDie_die]
  by_cases he : e = d <;> simp [he]

@[simp] theorem State.modRing_frozenClk (s : State) (d n : Nat) (f : Ring → Ring) (e : Nat) : ((s.modRing d n f).die e).frozenClk = (s.die e).frozenClk := by
  simp only [State.modRing, State.modDie_die]
  by_cases he : e = d <;> simp [he]

@[simp] theorem State.modRing_cyc (s : State) (d n : Nat) (f : Ring → Ring) (e : Nat) : ((s.modRing d n f).die e).cyc = (s.die e).cyc := by
  simp only [State.modRing, State.modDie_die]
  by_cases he : e = d <;> simp [he]

@[simp] theorem State.modRing_ftime (s : State) (d n : Nat) (f : Ring → Ring) (e : Nat) : ((s.modRing d n f).die e).ftime = (s.die e).ftime := by
  simp only [State.modRing, State.modDie_die]
  by_cases he : e = d <;> simp [he]

@[simp] theorem State.modRing_clkst (s : State) (d n : Nat) (f : Ring → Ring) (e : Nat) : ((s.modRing d n f).die e).clkst = (s.die e).clkst := by
  simp only [State.modRing, State.modDie_die]
  by_cases he : e = d <;> simp [he]

@[simp] theorem State.modDrill_booted (s : State) (d n : Nat) (f : Drill → Drill) (e : Nat) : ((s.modDrill d n f).die e).booted = (s.die e).booted := by
  simp only [State.modDrill, State.modDie_die]
  by_cases he : e = d <;> simp [he]

@[simp] theorem State.modDrill_fenced (s : State) (d n : Nat) (f : Drill → Drill) (e : Nat) : ((s.modDrill d n f).die e).fenced = (s.die e).fenced := by
  simp only [State.modDrill, State.modDie_die]
  by_cases he : e = d <;> simp [he]

@[simp] theorem State.modDrill_frozenClk (s : State) (d n : Nat) (f : Drill → Drill) (e : Nat) : ((s.modDrill d n f).die e).frozenClk = (s.die e).frozenClk := by
  simp only [State.modDrill, State.modDie_die]
  by_cases he : e = d <;> simp [he]

@[simp] theorem State.modDrill_cyc (s : State) (d n : Nat) (f : Drill → Drill) (e : Nat) : ((s.modDrill d n f).die e).cyc = (s.die e).cyc := by
  simp only [State.modDrill, State.modDie_die]
  by_cases he : e = d <;> simp [he]

@[simp] theorem State.modDrill_ftime (s : State) (d n : Nat) (f : Drill → Drill) (e : Nat) : ((s.modDrill d n f).die e).ftime = (s.die e).ftime := by
  simp only [State.modDrill, State.modDie_die]
  by_cases he : e = d <;> simp [he]

@[simp] theorem State.modDrill_clkst (s : State) (d n : Nat) (f : Drill → Drill) (e : Nat) : ((s.modDrill d n f).die e).clkst = (s.die e).clkst := by
  simp only [State.modDrill, State.modDie_die]
  by_cases he : e = d <;> simp [he]

@[simp] theorem State.modCluster_booted (s : State) (d n : Nat) (f : Cluster → Cluster) (e : Nat) : ((s.modCluster d n f).die e).booted = (s.die e).booted := by
  simp only [State.modCluster, State.modDie_die]
  by_cases he : e = d <;> simp [he]

@[simp] theorem State.modCluster_fenced (s : State) (d n : Nat) (f : Cluster → Cluster) (e : Nat) : ((s.modCluster d n f).die e).fenced = (s.die e).fenced := by
  simp only [State.modCluster, State.modDie_die]
  by_cases he : e = d <;> simp [he]

@[simp] theorem State.modCluster_frozenClk (s : State) (d n : Nat) (f : Cluster → Cluster) (e : Nat) : ((s.modCluster d n f).die e).frozenClk = (s.die e).frozenClk := by
  simp only [State.modCluster, State.modDie_die]
  by_cases he : e = d <;> simp [he]

@[simp] theorem State.modCluster_cyc (s : State) (d n : Nat) (f : Cluster → Cluster) (e : Nat) : ((s.modCluster d n f).die e).cyc = (s.die e).cyc := by
  simp only [State.modCluster, State.modDie_die]
  by_cases he : e = d <;> simp [he]

@[simp] theorem State.modCluster_ftime (s : State) (d n : Nat) (f : Cluster → Cluster) (e : Nat) : ((s.modCluster d n f).die e).ftime = (s.die e).ftime := by
  simp only [State.modCluster, State.modDie_die]
  by_cases he : e = d <;> simp [he]

@[simp] theorem State.modCluster_clkst (s : State) (d n : Nat) (f : Cluster → Cluster) (e : Nat) : ((s.modCluster d n f).die e).clkst = (s.die e).clkst := by
  simp only [State.modCluster, State.modDie_die]
  by_cases he : e = d <;> simp [he]

@[simp] theorem State.modDrill_odd (s : State) (d n : Nat) (f : Drill → Drill) (e : Nat) : ((s.modDrill d n f).die e).odd = (s.die e).odd := by
  simp only [State.modDrill, State.modDie_die]
  by_cases he : e = d <;> simp [he]

@[simp] theorem State.modDrill_slotDue (s : State) (d n : Nat) (f : Drill → Drill) (e : Nat) : ((s.modDrill d n f).die e).slotDue = (s.die e).slotDue := by
  simp only [State.modDrill, State.modDie_die]
  by_cases he : e = d <;> simp [he]

@[simp] theorem State.modDrill_lit (s : State) (d n : Nat) (f : Drill → Drill) (e : Nat) : ((s.modDrill d n f).die e).lit = (s.die e).lit := by
  simp only [State.modDrill, State.modDie_die]
  by_cases he : e = d <;> simp [he]

@[simp] theorem State.modDrill_gap (s : State) (d n : Nat) (f : Drill → Drill) (e : Nat) : ((s.modDrill d n f).die e).gap = (s.die e).gap := by
  simp only [State.modDrill, State.modDie_die]
  by_cases he : e = d <;> simp [he]

@[simp] theorem State.modDrill_locked (s : State) (d n : Nat) (f : Drill → Drill) (e : Nat) : ((s.modDrill d n f).die e).locked = (s.die e).locked := by
  simp only [State.modDrill, State.modDie_die]
  by_cases he : e = d <;> simp [he]

@[simp] theorem State.modDrill_calLeft (s : State) (d n : Nat) (f : Drill → Drill) (e : Nat) : ((s.modDrill d n f).die e).calLeft = (s.die e).calLeft := by
  simp only [State.modDrill, State.modDie_die]
  by_cases he : e = d <;> simp [he]

@[simp] theorem State.modDrill_steal (s : State) (d n : Nat) (f : Drill → Drill) (e : Nat) : ((s.modDrill d n f).die e).steal = (s.die e).steal := by
  simp only [State.modDrill, State.modDie_die]
  by_cases he : e = d <;> simp [he]

@[simp] theorem State.modDrill_served (s : State) (d n : Nat) (f : Drill → Drill) (e : Nat) : ((s.modDrill d n f).die e).served = (s.die e).served := by
  simp only [State.modDrill, State.modDie_die]
  by_cases he : e = d <;> simp [he]

@[simp] theorem State.modCtx_odd (s : State) (d n : Nat) (f : Ctx → Ctx) (e : Nat) : ((s.modCtx d n f).die e).odd = (s.die e).odd := by
  simp only [State.modCtx, State.modDie_die]
  by_cases he : e = d <;> simp [he]

@[simp] theorem State.modCtx_slotDue (s : State) (d n : Nat) (f : Ctx → Ctx) (e : Nat) : ((s.modCtx d n f).die e).slotDue = (s.die e).slotDue := by
  simp only [State.modCtx, State.modDie_die]
  by_cases he : e = d <;> simp [he]

@[simp] theorem State.modCtx_lit (s : State) (d n : Nat) (f : Ctx → Ctx) (e : Nat) : ((s.modCtx d n f).die e).lit = (s.die e).lit := by
  simp only [State.modCtx, State.modDie_die]
  by_cases he : e = d <;> simp [he]

@[simp] theorem State.modCtx_gap (s : State) (d n : Nat) (f : Ctx → Ctx) (e : Nat) : ((s.modCtx d n f).die e).gap = (s.die e).gap := by
  simp only [State.modCtx, State.modDie_die]
  by_cases he : e = d <;> simp [he]

@[simp] theorem State.modCtx_locked (s : State) (d n : Nat) (f : Ctx → Ctx) (e : Nat) : ((s.modCtx d n f).die e).locked = (s.die e).locked := by
  simp only [State.modCtx, State.modDie_die]
  by_cases he : e = d <;> simp [he]

@[simp] theorem State.modCtx_calLeft (s : State) (d n : Nat) (f : Ctx → Ctx) (e : Nat) : ((s.modCtx d n f).die e).calLeft = (s.die e).calLeft := by
  simp only [State.modCtx, State.modDie_die]
  by_cases he : e = d <;> simp [he]

@[simp] theorem State.modCtx_steal (s : State) (d n : Nat) (f : Ctx → Ctx) (e : Nat) : ((s.modCtx d n f).die e).steal = (s.die e).steal := by
  simp only [State.modCtx, State.modDie_die]
  by_cases he : e = d <;> simp [he]

@[simp] theorem State.modCtx_served (s : State) (d n : Nat) (f : Ctx → Ctx) (e : Nat) : ((s.modCtx d n f).die e).served = (s.die e).served := by
  simp only [State.modCtx, State.modDie_die]
  by_cases he : e = d <;> simp [he]

@[simp] theorem State.modRing_odd (s : State) (d n : Nat) (f : Ring → Ring) (e : Nat) : ((s.modRing d n f).die e).odd = (s.die e).odd := by
  simp only [State.modRing, State.modDie_die]
  by_cases he : e = d <;> simp [he]

@[simp] theorem State.modRing_slotDue (s : State) (d n : Nat) (f : Ring → Ring) (e : Nat) : ((s.modRing d n f).die e).slotDue = (s.die e).slotDue := by
  simp only [State.modRing, State.modDie_die]
  by_cases he : e = d <;> simp [he]

@[simp] theorem State.modRing_lit (s : State) (d n : Nat) (f : Ring → Ring) (e : Nat) : ((s.modRing d n f).die e).lit = (s.die e).lit := by
  simp only [State.modRing, State.modDie_die]
  by_cases he : e = d <;> simp [he]

@[simp] theorem State.modRing_gap (s : State) (d n : Nat) (f : Ring → Ring) (e : Nat) : ((s.modRing d n f).die e).gap = (s.die e).gap := by
  simp only [State.modRing, State.modDie_die]
  by_cases he : e = d <;> simp [he]

@[simp] theorem State.modRing_locked (s : State) (d n : Nat) (f : Ring → Ring) (e : Nat) : ((s.modRing d n f).die e).locked = (s.die e).locked := by
  simp only [State.modRing, State.modDie_die]
  by_cases he : e = d <;> simp [he]

@[simp] theorem State.modRing_calLeft (s : State) (d n : Nat) (f : Ring → Ring) (e : Nat) : ((s.modRing d n f).die e).calLeft = (s.die e).calLeft := by
  simp only [State.modRing, State.modDie_die]
  by_cases he : e = d <;> simp [he]

@[simp] theorem State.modRing_steal (s : State) (d n : Nat) (f : Ring → Ring) (e : Nat) : ((s.modRing d n f).die e).steal = (s.die e).steal := by
  simp only [State.modRing, State.modDie_die]
  by_cases he : e = d <;> simp [he]

@[simp] theorem State.modRing_served (s : State) (d n : Nat) (f : Ring → Ring) (e : Nat) : ((s.modRing d n f).die e).served = (s.die e).served := by
  simp only [State.modRing, State.modDie_die]
  by_cases he : e = d <;> simp [he]

/-- A free value takes the next of them, and leaves the rest of the state alone. -/
@[simp] theorem State.takeFree_fst (s : State) : s.takeFree.1 = Config.freeValue s.free := rfl
@[simp] theorem State.takeFree_snd (s : State) : s.takeFree.2 = { s with free := s.free + 1 } := rfl

@[simp] theorem State.modMyCore_myCore (s : State) (f : Core → Core) : (s.modMyCore f).myCore = f s.myCore := by
  simp [State.myCore, State.modMyCore]

@[simp] theorem State.modMe_me (s : State) (f : Strand → Strand) : (s.modMe f).me = f s.me := by
  simp [State.me, State.modMe]

@[simp] theorem State.modMyCore_me (s : State) (f : Core → Core) :
    (s.modMyCore f).me = (f s.myCore).strand s.cur.strand := by
  simp [State.me, State.modMyCore, State.strand, State.myCore]

@[simp] theorem State.modMyCore_cyc (s : State) (f : Core → Core) : (s.modMyCore f).cyc = s.cyc := by
  simp [State.cyc, State.modMyCore]

@[simp] theorem State.modMe_cyc (s : State) (f : Strand → Strand) : (s.modMe f).cyc = s.cyc := by
  simp [State.cyc, State.modMe, State.modStrand]

/-! ### Registers of a strand -/

/-- `s0` reads zero whatever is written (02 R38, R42). -/
@[simp] theorem Strand.sreg_zero (t : Strand) : t.sreg 0 = 0 := by simp [Strand.sreg]

@[simp] theorem Strand.setSreg_sreg (t : Strand) (n m : Nat) (v : Word) :
    (t.setSreg n v).sreg m = if m = n ∧ n ≠ 0 then v else t.sreg m := by
  unfold Strand.setSreg Strand.sreg
  by_cases hn : n = 0
  · simp [hn]
  · by_cases hm : m = n
    · subst hm; simp [hn]
    · simp [hn, hm]

/-- `p0` reads 1 whatever is written (02 R38, R42). -/
@[simp] theorem Strand.pred_zero (t : Strand) : t.pred 0 = true := by simp [Strand.pred]

@[simp] theorem Strand.setVreg_vreg (t : Strand) (n m : Nat) (v : Vec) :
    (t.setVreg n v).vreg m = if m = n then v else t.vreg m := by simp [Strand.setVreg, Strand.vreg]

@[simp] theorem Strand.setMreg_mreg (t : Strand) (n m : Nat) (v : Lane) :
    (t.setMreg n v).mreg m = if m = n then v else t.mreg m := by simp [Strand.setMreg, Strand.mreg]

@[simp] theorem Strand.modTok_tok (t : Strand) (n m : Nat) (f : Token → Token) :
    (t.modTok n f).tok m = if m = n then f (t.tok n) else t.tok m := by simp [Strand.modTok, Strand.tok]

@[simp] theorem Core.setQueue_queue (c : Core) (q m : Nat) (x : Queue) :
    (c.setQueue q x).queue m = if m = q then x else c.queue m := by simp [Core.setQueue, Core.queue]

end Sys2Proof.Machine
end

