-- ==== Sys2Proof/Laws/Issue.lean ====
section
/-!
SUPPORT. What issuing a strand instruction can do: its effect ends in a state, a trap, a wait or missing memory, and only the
last is no next state.
-/

namespace Sys2Proof.Machine

/-- A unit's end answers a next state unless physical memory is missing. -/
theorem settle_next (s : State) (r : Eff) (h : r ≠ .error .absent) : ∃ t, settle s r = .next t := by
  unfold settle
  split
  · exact ⟨_, rfl⟩
  · exact ⟨_, rfl⟩
  · exact ⟨_, rfl⟩
  · exact absurd rfl h

/-- A strand instruction answers a next state, or the fault of missing physical memory: it is never refused. -/
theorem issue_cases (f : Form) (w : StrandWord) (eff : State → Eff) (s : State) :
    (∃ t, issue f w eff s = .next t) ∨ issue f w eff s = .fault .absentMemory := by
  unfold issue settle
  split
  · exact .inl ⟨_, rfl⟩
  · exact .inl ⟨_, rfl⟩
  · exact .inl ⟨_, rfl⟩
  · exact .inr rfl

theorem ok_of_passes {r : Except Stop Unit} (h : passes r = true) : r = .ok () := by
  unfold passes at h
  split at h
  · rfl
  · exact absurd h (by decide)

/-- The effect of a word that issues, when the effect succeeds. -/
theorem issueEff_ok {f : Form} {w : StrandWord} {eff : State → Eff} {s : State} (h : Issues f w s) :
    issueEff f w eff s = eff s := by
  simp only [issueEff, ok_of_passes h.2.1, h.2.2]
  rfl

/-- A strand with posted writes on their way in the package has posted writes outstanding. -/
theorem foreignOut_of_postsOut {s : State} (h : postsOut s s.cur.die s.cur.core s.cur.strand = true) : foreignOut s = true := by
  simp only [postsOut, foreignOut, State.flying, Bool.and_eq_true, Bool.not_eq_true', decide_eq_true_eq] at h ⊢
  refine ⟨h.1, ?_⟩
  cases hp : s.posts s.cur.die s.cur.core with
  | nil => simp [hp] at h
  | cons _ _ => rfl

/-- Nothing that waits: a unit bound to nothing, or a strand with no posted write outstanding. -/
theorem mustWait_of_quiet {s s' : State} (h : (s'.cur.rel = false ∧ s'.cur.ord = false) ∨ foreignOut s = false) :
    mustWait s s' = false := by
  rcases h with ⟨hr, ho⟩ | h
  · simp [mustWait, hr, ho]
  · have : postsOut s s.cur.die s.cur.core s.cur.strand = false := by
      cases hp : postsOut s s.cur.die s.cur.core s.cur.strand with
      | false => rfl
      | true => rw [foreignOut_of_postsOut hp] at h; cases h
    simp [mustWait, h, this]

/-- A word that issues and whose effect succeeds without waiting for earlier writes ends as a unit or as a word of its bundle. -/
theorem issue_ok {f : Form} {w : StrandWord} {eff : State → Eff} {s s' : State} (h : Issues f w s) (he : eff s = .ok s')
    (hr : mustWait s s' = false) :
    issue f w eff s = .next (if s.cur.bundle then { s' with verdict := .performed } else retire (keepPopped s s')) := by
  simp [issue, issueEff_ok h, he, settle, hr]

/-- A word whose guard is 0 does nothing but pass (02 R39). -/
theorem issue_unguarded {f : Form} {w : StrandWord} {eff : State → Eff} {s : State} (hf : Fresh s)
    (hc : checkWord f w s = .ok ()) (hg : guardHolds w s = false) :
    issue f w eff s = .next (if s.cur.bundle then { s with verdict := .performed } else retire (keepPopped s s)) := by
  have : issueEff f w eff s = .ok s := by simp only [issueEff, hc, hg]; rfl
  have hq : mustWait s s = false := mustWait_of_quiet (.inl ⟨hf.2.2.2.2.2.1, hf.2.2.2.2.2.2.1⟩)
  simp [issue, this, settle, hq]

@[simp] theorem keepPopped_of_none (s s' : State) (h : s'.cur.hold = none) : keepPopped s s' = s' := by
  simp [keepPopped, h]

/-! ### Event counters leave everything else alone -/

section
variable (die code : Nat) (slot core : Option Nat) (n : Nat) (s : State)

@[simp] theorem countEv_mem : (countEv die code slot core n s).mem = s.mem := by unfold countEv; split <;> rfl
@[simp] theorem countEv_cur : (countEv die code slot core n s).cur = s.cur := by unfold countEv; split <;> rfl
@[simp] theorem countEv_pkg : (countEv die code slot core n s).pkg = s.pkg := by unfold countEv; split <;> rfl
@[simp] theorem countEv_net : (countEv die code slot core n s).net = s.net := by unfold countEv; split <;> rfl
@[simp] theorem countEv_hand : (countEv die code slot core n s).hand = s.hand := by unfold countEv; split <;> rfl
@[simp] theorem countEv_free : (countEv die code slot core n s).free = s.free := by unfold countEv; split <;> rfl
@[simp] theorem countEv_verdict : (countEv die code slot core n s).verdict = s.verdict := by unfold countEv; split <;> rfl
@[simp] theorem countEv_nextReq : (countEv die code slot core n s).nextReq = s.nextReq := by unfold countEv; split <;> rfl
@[simp] theorem countEv_bad : (countEv die code slot core n s).bad = s.bad := by unfold countEv; split <;> rfl
@[simp] theorem countEv_soft : (countEv die code slot core n s).soft = s.soft := by unfold countEv; split <;> rfl
@[simp] theorem countEv_agenda : (countEv die code slot core n s).agenda = s.agenda := by unfold countEv; split <;> rfl

@[simp] theorem countEv_core (d c : Nat) : (countEv die code slot core n s).core d c = s.core d c := by
  unfold countEv; split
  · rfl
  · simp only [State.core, State.modDie_die]; split <;> simp_all

@[simp] theorem countEv_ctx (d c : Nat) : (countEv die code slot core n s).ctx d c = s.ctx d c := by
  unfold countEv; split
  · rfl
  · simp only [State.ctx, State.modDie_die]; split <;> simp_all

@[simp] theorem countEv_ring (d c : Nat) : (countEv die code slot core n s).ring d c = s.ring d c := by
  unfold countEv; split
  · rfl
  · simp only [State.ring, State.modDie_die]; split <;> simp_all

@[simp] theorem countEv_strand (d c m : Nat) : (countEv die code slot core n s).strand d c m = s.strand d c m := by
  simp [State.strand]

@[simp] theorem countEv_cyc : (countEv die code slot core n s).cyc = s.cyc := by
  unfold countEv; split
  · rfl
  · simp only [State.cyc, State.modDie_die, State.modDie_cur]; split <;> simp_all

end

/-! ### How a unit ends -/

/-- A strand after its unit: only its PC, its repeat loop, and when and whether it runs have changed. -/
structure Strand.Moved (t u : Strand) : Prop where
  regs : u.regs = t.regs
  vregs : u.vregs = t.vregs
  masks : u.masks = t.masks
  preds : u.preds = t.preds
  fsr : u.fsr = t.fsr
  cbsel : u.cbsel = t.cbsel
  ctxsel : u.ctxsel = t.ctxsel
  toks : u.toks = t.toks
  teams : u.teams = t.teams
  seg : u.seg = t.seg
  pend : u.pend = t.pend
  held : u.held = t.held
  lc : u.lc = t.lc
  permits : u.permits = t.permits

theorem Strand.Moved.refl (t : Strand) : t.Moved t := ⟨rfl, rfl, rfl, rfl, rfl, rfl, rfl, rfl, rfl, rfl, rfl, rfl, rfl, rfl⟩

theorem Strand.Moved.trans {t u v : Strand} (h : t.Moved u) (g : u.Moved v) : t.Moved v :=
  ⟨g.regs.trans h.regs, g.vregs.trans h.vregs, g.masks.trans h.masks, g.preds.trans h.preds, g.fsr.trans h.fsr,
   g.cbsel.trans h.cbsel, g.ctxsel.trans h.ctxsel, g.toks.trans h.toks, g.teams.trans h.teams, g.seg.trans h.seg,
   g.pend.trans h.pend, g.held.trans h.held, g.lc.trans h.lc, g.permits.trans h.permits⟩

theorem Strand.stepRpt_moved (t : Strand) (pc npc : Word) (u : Nat) (j : Bool) : t.Moved (t.stepRpt pc npc u j) := by
  unfold Strand.stepRpt
  split
  · constructor <;> rfl
  · split
    · constructor <;> rfl
    · split
      · constructor <;> rfl
      · split <;> constructor <;> rfl

/-- A core after its unit: its strands have moved on, and nothing else of it but the unit that issues unchecked, the count of the
deadlock rule and a trap that has come due has changed. -/
structure Core.Moved (c e : Core) : Prop where
  strand : ∀ n, (c.strand n).Moved (e.strand n)
  iter : e.iter = c.iter
  home : e.home = c.home
  lock : e.lock = c.lock
  queues : e.queues = c.queues
  qmap : e.qmap = c.qmap
  flights : e.flights = c.flights
  sbVal : e.sbVal = c.sbVal
  sbSet : e.sbSet = c.sbSet
  sbClr : e.sbClr = c.sbClr
  gdSet : e.gdSet = c.gdSet
  late : e.late = c.late
  banks : e.banks = c.banks
  lateBanks : e.lateBanks = c.lateBanks
  ftixNew : e.ftixNew = c.ftixNew
  lnr : e.lnr = c.lnr
  l1 : e.l1 = c.l1
  frame : e.frame = c.frame
  port : e.port = c.port
  grant : e.grant = c.grant

theorem Core.Moved.refl (c : Core) : c.Moved c := by
  constructor <;> first | rfl | exact fun _ => Strand.Moved.refl _

theorem Core.Moved.trans {c d e : Core} (h : c.Moved d) (g : d.Moved e) : c.Moved e := by
  constructor
  · exact fun n => (h.strand n).trans (g.strand n)
  · exact g.iter.trans h.iter
  · exact g.home.trans h.home
  · exact g.lock.trans h.lock
  · exact g.queues.trans h.queues
  · exact g.qmap.trans h.qmap
  · exact g.flights.trans h.flights
  · exact g.sbVal.trans h.sbVal
  · exact g.sbSet.trans h.sbSet
  · exact g.sbClr.trans h.sbClr
  · exact g.gdSet.trans h.gdSet
  · exact g.late.trans h.late
  · exact g.banks.trans h.banks
  · exact g.lateBanks.trans h.lateBanks
  · exact g.ftixNew.trans h.ftixNew
  · exact g.lnr.trans h.lnr
  · exact g.l1.trans h.l1
  · exact g.frame.trans h.frame
  · exact g.port.trans h.port
  · exact g.grant.trans h.grant

/-- The state after a unit's end: the PC and run state of its strands, the event counters, and nothing else that a program sees. -/
structure State.Moved (s t : State) : Prop where
  mem : t.mem = s.mem
  bad : t.bad = s.bad
  soft : t.soft = s.soft
  net : t.net = s.net
  pkg : t.pkg = s.pkg
  cur : t.cur = s.cur
  free : t.free = s.free
  nextReq : t.nextReq = s.nextReq
  cyc : t.cyc = s.cyc
  core : ∀ d c, (s.core d c).Moved (t.core d c)
  ctx : ∀ d n, t.ctx d n = s.ctx d n
  ring : ∀ d n, t.ring d n = s.ring d n

theorem State.Moved.refl (s : State) : s.Moved s := by
  constructor <;> first | rfl | (intros; rfl) | exact fun _ _ => Core.Moved.refl _

theorem State.Moved.trans {s t u : State} (h : s.Moved t) (g : t.Moved u) : s.Moved u := by
  constructor
  · exact g.mem.trans h.mem
  · exact g.bad.trans h.bad
  · exact g.soft.trans h.soft
  · exact g.net.trans h.net
  · exact g.pkg.trans h.pkg
  · exact g.cur.trans h.cur
  · exact g.free.trans h.free
  · exact g.nextReq.trans h.nextReq
  · exact g.cyc.trans h.cyc
  · exact fun d c => (h.core d c).trans (g.core d c)
  · exact fun d n => (g.ctx d n).trans (h.ctx d n)
  · exact fun d n => (g.ring d n).trans (h.ring d n)

theorem Core.modStrand_moved (c : Core) (n : Nat) (f : Strand → Strand) (hf : ∀ t : Strand, Strand.Moved t (f t)) : c.Moved (c.modStrand n f) := by
  constructor <;> first
    | rfl
    | (intro m; rw [Core.modStrand_strand]; split
       · rename_i h; subst h; exact hf _
       · exact Strand.Moved.refl _)

theorem State.modCore_moved (s : State) (d c : Nat) (f : Core → Core) (hf : ∀ x : Core, Core.Moved x (f x)) : s.Moved (s.modCore d c f) := by
  constructor <;> first
    | rfl
    | (intro e n; simp; done)
    | (intro e n; rw [State.modCore_core]; split
       · rename_i h; obtain ⟨rfl, rfl⟩ := h; exact hf _
       · exact Core.Moved.refl _)
    | (simp [State.cyc]; done)

theorem State.modStrand_moved (s : State) (d c n : Nat) (f : Strand → Strand) (hf : ∀ t : Strand, Strand.Moved t (f t)) :
    s.Moved (s.modStrand d c n f) := State.modCore_moved s d c _ fun x => Core.modStrand_moved x n f hf

theorem foldl_moved (l : List Nat) (g : State → Nat → State) (hg : ∀ (s : State) n, State.Moved s (g s n)) (s : State) :
    s.Moved (l.foldl g s) := by
  induction l generalizing s with
  | nil => exact State.Moved.refl s
  | cons a l ih => exact (hg s a).trans (ih (g s a))

theorem countEv_moved (die code : Nat) (slot core : Option Nat) (n : Nat) (s : State) :
    s.Moved (countEv die code slot core n s) := by
  constructor <;> first | (simp; done) | (intro d c; simp only [countEv_core]; exact Core.Moved.refl _)

theorem raiseDue_moved (die core : Nat) (d : TrapDue) (s : State) : s.Moved (raiseDue die core d s) := by
  apply State.modCore_moved
  intro x
  constructor <;> first | rfl | exact fun _ => Strand.Moved.refl _

/-- What a strand's step of a unit changes. -/
theorem unitStep_moved (cu : Cur) (s : State) (u : Nat) (t : Strand) :
    t.Moved (let t := t.stepRpt cu.pc cu.npc u cu.taken
      let t := { t with rpt := cu.newRpt.getD t.rpt }
      { t with ready := s.cyc + cu.gap, run := if t.run = .done ∨ t.run = .parked then t.run else .running }) := by
  apply (Strand.stepRpt_moved t cu.pc cu.npc u cu.taken).trans
  constructor <;> rfl

/-- A unit that has acted whole is performed, and moves on. -/
theorem retire_moved (s : State) (h : s.cur.hold = none) : s.Moved (retire s) ∧ (retire s).verdict = .performed := by
  unfold retire
  simp only [h]
  have key : ∀ s1 : State, s.Moved s1 → s.Moved
      { s1.modMyCore (Core.noteUnit s.cur) with verdict := .performed } := by
    intro s1 h1
    refine h1.trans ?_
    have := State.modCore_moved s1 s1.cur.die s1.cur.core (Core.noteUnit s.cur)
      (by intro x; constructor <;> first | rfl | exact fun _ => Strand.Moved.refl _)
    exact ⟨this.mem, this.bad, this.soft, this.net, this.pkg, this.cur, this.free, this.nextReq, this.cyc, this.core, this.ctx, this.ring⟩
  have h1 : s.Moved (countEv s.cur.die 2 (some s.unitSlot) (some s.cur.core) (if s.cur.bundle = true then 4 else 1)
      (if s.cur.whole = true then s else
        (unitStrands s).foldl (fun s' n => s'.modStrand s.cur.die s.cur.core n fun t =>
          let t := t.stepRpt s.cur.pc s.cur.npc (unitBytes s') s.cur.taken
          let t := { t with rpt := s.cur.newRpt.getD t.rpt }
          { t with ready := s'.cyc + s.cur.gap, run := if t.run = .done ∨ t.run = .parked then t.run else .running }) s)) := by
    refine State.Moved.trans ?_ (countEv_moved _ _ _ _ _ _)
    split
    · exact State.Moved.refl s
    · apply foldl_moved
      intro s' n
      apply State.modStrand_moved
      intro t
      exact unitStep_moved s.cur s' _ t
  cases ha : s.cur.after with
  | none => exact ⟨key _ h1, rfl⟩
  | some a =>
    obtain ⟨strd, cause, info⟩ := a
    exact ⟨(key _ h1).trans (raiseDue_moved _ _ _ _), rfl⟩

/-- One strand's step over a unit that opens no loop, in a fold over the strands of a unit. -/
theorem unitStep_fold (cu : Cur) (hn : cu.newRpt = none) (l : List Nat) (s : State) (n : Nat)
    (hr : (s.strand cu.die cu.core n).rpt.active = false) (h : n ∈ l ∨ (s.strand cu.die cu.core n).pc = cu.npc) :
    ((l.foldl (fun s' n => s'.modStrand cu.die cu.core n fun t =>
          let t := t.stepRpt cu.pc cu.npc (unitBytes s') cu.taken
          let t := { t with rpt := cu.newRpt.getD t.rpt }
          { t with ready := s'.cyc + cu.gap, run := if t.run = .done ∨ t.run = .parked then t.run else .running }) s).strand
        cu.die cu.core n).pc = cu.npc := by
  induction l generalizing s with
  | nil => simpa using h
  | cons a l ih =>
    apply ih
    · by_cases ha : n = a
      · subst ha; simp [Strand.stepRpt, hr, hn]
      · simpa [ha] using hr
    · by_cases ha : n = a
      · subst ha; right; simp [Strand.stepRpt, hr]
      · rcases h with h | h
        · left; simpa [ha] using h
        · right; simpa [ha] using h

/-- The PC after a plain unit. -/
theorem retire_pc (s : State) (h : s.cur.hold = none) (hw : s.cur.whole = false) (hn : s.cur.newRpt = none)
    (hr : s.me.rpt.active = false) (h6 : s.cur.strand < 6) : (retire s).me.pc = s.cur.npc := by
  have hcur : (retire s).cur = s.cur := (retire_moved s h).1.cur
  have hmem : s.cur.strand ∈ unitStrands s := by
    unfold unitStrands
    split
    · rename_i hh
      obtain ⟨h2, -⟩ := hh
      simp only [List.mem_cons, List.not_mem_nil, or_false]
      omega
    · simp
  have key := unitStep_fold s.cur hn (unitStrands s) s s.cur.strand hr (.inl hmem)
  simp only [State.me, hcur]
  unfold retire
  simp only [h, hw, Bool.false_eq_true, if_false]
  revert key
  generalize (unitStrands s).foldl _ s = s1
  intro key
  have hb : ∀ s2 : State, s2.strand s.cur.die s.cur.core s.cur.strand = s1.strand s.cur.die s.cur.core s.cur.strand →
      ∀ f : Core → Core, (∀ x, (f x).strands = x.strands) →
      ((s2.modMyCore f).strand s.cur.die s.cur.core s.cur.strand).pc = s.cur.npc := by
    intro s2 h2 f hf
    rw [← key, ← h2]
    simp only [State.strand, State.modMyCore, State.modCore_core]
    split
    · rename_i he
      rw [he.1, he.2]
      simp only [Core.strand, hf]
    · rfl
  have fin := hb _ (countEv_strand s.cur.die 2 (some s.unitSlot) (some s.cur.core) (if s.cur.bundle = true then 4 else 1) s1
    s.cur.die s.cur.core s.cur.strand) (Core.noteUnit s.cur)
    (fun _ => rfl)
  cases ha : s.cur.after with
  | none => exact fin
  | some a =>
    obtain ⟨strd, cause, info⟩ := a
    rw [← fin]
    simp only [raiseDue, State.strand, State.modCore_core]
    split
    · rename_i he
      simp only [Core.strand]
      rfl
    · rfl

end Sys2Proof.Machine
end

