-- ==== Sys2Proof/Laws/Memory.lean ====
section
/-!
SUPPORT. Memory: a read after a write, and every operation over memory keeps its canonical form.
-/

namespace Sys2Proof.Machine

/-- A key above a bound is not in a list that is well formed from a higher one. -/
theorem memGet_below (m : List Host.Cell) (b n : Nat) (h : Memory.wfFrom (some b) m = true) (hn : n ≤ b) :
    memGet m n = emptyByte := by
  induction m generalizing b with
  | nil => rfl
  | cons c m ih =>
    obtain ⟨k, v⟩ := c
    simp only [Memory.wfFrom, Bool.and_eq_true, decide_eq_true_eq] at h
    obtain ⟨⟨h1, _⟩, h3⟩ := h
    have : k ≠ n := by omega
    simp only [memGet, this, if_false]
    exact ih k h3 (by omega)

/-- The bound of a well-formed list may be lowered. -/
theorem wfFrom_lower (m : List Host.Cell) (a b : Nat) (h : Memory.wfFrom (some b) m = true) (hab : a ≤ b) :
    Memory.wfFrom (some a) m = true := by
  cases m with
  | nil => rfl
  | cons c m =>
    obtain ⟨k, v⟩ := c
    simp only [Memory.wfFrom, Bool.and_eq_true, decide_eq_true_eq] at h ⊢
    exact ⟨⟨by omega, h.1.2⟩, h.2⟩

/-- Writing a byte keeps a list well formed above any bound below the key. -/
theorem memPut_wfFrom (m : List Host.Cell) (lo : Option Nat) (n : Nat) (b : Byte)
    (h : Memory.wfFrom lo m = true) (hlo : ∀ l, lo = some l → l < n) : Memory.wfFrom lo (memPut m n b) = true := by
  induction m generalizing lo with
  | nil =>
    simp only [memPut]
    split
    · rfl
    · rename_i hb
      cases lo with
      | none => simp [Memory.wfFrom, hb]
      | some l => simp [Memory.wfFrom, hb, hlo l rfl]
  | cons c m ih =>
    obtain ⟨k, v⟩ := c
    have h' := h
    simp only [Memory.wfFrom, Bool.and_eq_true, decide_eq_true_eq] at h
    obtain ⟨⟨h1, h2⟩, h3⟩ := h
    simp only [memPut]
    split
    · rename_i hk
      split
      · exact h'
      · rename_i hb
        cases lo with
        | none => simp [Memory.wfFrom, hb, hk, h2, h3]
        | some l => simp [Memory.wfFrom, hb, hlo l rfl, hk, h2, h3]
    · split
      · rename_i hk hn
        subst hn
        split
        · cases lo with
          | none => cases m with
            | nil => rfl
            | cons c m => simp only [Memory.wfFrom, Bool.and_eq_true] at h3 ⊢; exact ⟨⟨trivial, h3.1.2⟩, h3.2⟩
          | some l => exact wfFrom_lower m l n h3 (Nat.le_of_lt (hlo l rfl))
        · rename_i hb
          cases lo with
          | none => simp [Memory.wfFrom, hb, h3]
          | some l => simp [Memory.wfFrom, hb, hlo l rfl, h3]
      · rename_i hk hn
        have hkn : k < n := by omega
        simp only [Memory.wfFrom, Bool.and_eq_true, decide_eq_true_eq]
        exact ⟨⟨h1, h2⟩, ih (some k) h3 (by intro l hl; cases hl; exact hkn)⟩

/-- Writing a byte keeps the canonical form. -/
theorem memPut_wf (m : List Host.Cell) (n : Nat) (b : Byte) (h : Memory.wf m = true) : Memory.wf (memPut m n b) = true :=
  memPut_wfFrom m none n b h (by intro l hl; cases hl)

/-- Writing bytes keeps the canonical form. -/
theorem memPutAll_wf (bs : List (Option Byte)) (m : List Host.Cell) (k : Nat) (h : Memory.wf m = true) :
    Memory.wf (memPutAll m k bs) = true := by
  induction bs generalizing m k with
  | nil => exact h
  | cons b bs ih =>
    cases b with
    | none => exact ih m (k + 1) h
    | some b => exact ih (memPut m k b) (k + 1) (memPut_wf m k b h)

/-- Dropping cells keeps a list well formed from its bound. -/
theorem filter_wfFrom (p : Host.Cell → Bool) (m : List Host.Cell) (lo : Option Nat) (h : Memory.wfFrom lo m = true) :
    Memory.wfFrom lo (m.filter p) = true := by
  induction m generalizing lo with
  | nil => rfl
  | cons c m ih =>
    obtain ⟨k, v⟩ := c
    simp only [Memory.wfFrom, Bool.and_eq_true] at h
    obtain ⟨⟨h1, h2⟩, h3⟩ := h
    simp only [List.filter_cons]
    split
    · simp only [Memory.wfFrom, Bool.and_eq_true]
      exact ⟨⟨h1, h2⟩, ih (some k) h3⟩
    · cases lo with
      | none =>
        have := ih (some k) h3
        revert this
        generalize m.filter p = m'
        intro h
        cases m' with
        | nil => rfl
        | cons c m' => simp only [Memory.wfFrom, Bool.and_eq_true] at h ⊢; exact ⟨⟨trivial, h.1.2⟩, h.2⟩
      | some l =>
        simp only [decide_eq_true_eq] at h1
        exact wfFrom_lower _ l k (ih (some k) h3) (Nat.le_of_lt h1)

/-- Dropping cells keeps the canonical form. -/
theorem filter_wf (p : Host.Cell → Bool) (m : List Host.Cell) (h : Memory.wf m = true) : Memory.wf (m.filter p) = true :=
  filter_wfFrom p m none h

/-- A read after a byte was written. -/
@[simp] theorem memGet_memPut (m : List Host.Cell) (n k : Nat) (b : Byte) (h : Memory.wf m = true) :
    memGet (memPut m n b) k = if k = n then b else memGet m k := by
  suffices H : ∀ lo, Memory.wfFrom lo m = true → (∀ l, lo = some l → l < n) →
      memGet (memPut m n b) k = if k = n then b else memGet m k from H none h (by intro l hl; cases hl)
  clear h
  induction m with
  | nil =>
    intro lo h hlo
    simp only [memPut]
    by_cases hb : b = emptyByte
    · simp [hb, memGet]
    · simp only [hb, if_false, memGet]
      by_cases hk : n = k
      · simp [hk]
      · simp [hk, Ne.symm hk]
  | cons c m ih =>
    intro lo h hlo
    obtain ⟨j, v⟩ := c
    have h' := h
    simp only [Memory.wfFrom, Bool.and_eq_true, decide_eq_true_eq] at h
    obtain ⟨⟨h1, h2⟩, h3⟩ := h
    simp only [memPut]
    by_cases hj : n < j
    · simp only [hj, if_true]
      by_cases hb : b = emptyByte
      · simp only [hb, if_true]
        by_cases hk : k = n
        · subst hk
          have : memGet ((j, v) :: m) k = emptyByte := by
            have hne : j ≠ k := by omega
            simp only [memGet, hne, if_false]
            exact memGet_below m j k h3 (by omega)
          simp [this]
        · simp [hk]
      · simp only [hb, if_false]
        by_cases hk : n = k
        · simp [memGet, hk]
        · simp [memGet, hk, Ne.symm hk]
    · simp only [hj, if_false]
      by_cases hn : n = j
      · subst hn
        simp only [if_true]
        by_cases hb : b = emptyByte
        · simp only [hb, if_true]
          by_cases hk : k = n
          · subst hk
            simp only [if_true]
            exact memGet_below m k k h3 (Nat.le_refl _)
          · simp [memGet, hk, Ne.symm hk]
        · simp only [hb, if_false]
          by_cases hk : k = n
          · simp [memGet, hk]
          · simp [memGet, hk, Ne.symm hk]
      · simp only [hn, if_false]
        have hih := ih (some j) h3 (by intro l hl; cases hl; omega)
        by_cases hk : j = k
        · subst hk
          simp [memGet, Ne.symm hn]
        · simp only [memGet, hk, if_false, hih]

/-! ### The state's memory -/

theorem putRaw_wf (s : State) (k : Nat) (bs : List (Option Byte)) (h : Memory.wf s.mem = true) :
    Memory.wf (s.putRaw k bs).mem = true := memPutAll_wf bs s.mem k h

theorem putBytes_wf (s : State) (k : Nat) (bs : List (Option Byte)) (h : Memory.wf s.mem = true) :
    Memory.wf (s.putBytes k bs).mem = true := by
  unfold State.putBytes
  split
  · exact putRaw_wf s k bs h
  · exact putRaw_wf _ k _ h

theorem putNum_wf (s : State) (k n v : Nat) (h : Memory.wf s.mem = true) : Memory.wf (s.putNum k n v).mem = true :=
  putBytes_wf s k _ h

theorem putWord_wf (s : State) (k : Nat) (v : Word) (h : Memory.wf s.mem = true) : Memory.wf (s.putWord k v).mem = true :=
  putNum_wf s k 8 _ h

theorem putHdr_wf (s : State) (k : Nat) (v : Word) (h : Memory.wf s.mem = true) : Memory.wf (s.putHdr k v).mem = true :=
  putRaw_wf s k _ h

/-- Memory at reset is in canonical form. -/
theorem reset_mem_wf : Memory.wf State.reset.mem = true := rfl

end Sys2Proof.Machine
end

