-- ==== Sys2Proof/Laws/Operands.lean ====
section
/-!
SUPPORT. What capturing operands and reserving a destination can do: queues are popped and pushed, an acquire empties the L1 and
closes held writes, and nothing else changes.
-/

namespace Sys2Proof.Machine

/-- A strand whose registers, PC and run state are as before. -/
structure Strand.Kept (t u : Strand) : Prop where
  regs : u.regs = t.regs
  vregs : u.vregs = t.vregs
  masks : u.masks = t.masks
  preds : u.preds = t.preds
  fsr : u.fsr = t.fsr
  cbsel : u.cbsel = t.cbsel
  ctxsel : u.ctxsel = t.ctxsel
  pc : u.pc = t.pc
  run : u.run = t.run
  rpt : u.rpt = t.rpt
  seg : u.seg = t.seg
  toks : u.toks = t.toks
  teams : u.teams = t.teams
  pend : u.pend = t.pend
  lc : u.lc = t.lc
  permits : u.permits = t.permits
  sfuFree : u.sfuFree = t.sfuFree

theorem Strand.Kept.refl (t : Strand) : t.Kept t := by constructor <;> rfl

theorem Strand.Kept.trans {t u v : Strand} (h : t.Kept u) (g : u.Kept v) : t.Kept v := by
  constructor
  · exact g.regs.trans h.regs
  · exact g.vregs.trans h.vregs
  · exact g.masks.trans h.masks
  · exact g.preds.trans h.preds
  · exact g.fsr.trans h.fsr
  · exact g.cbsel.trans h.cbsel
  · exact g.ctxsel.trans h.ctxsel
  · exact g.pc.trans h.pc
  · exact g.run.trans h.run
  · exact g.rpt.trans h.rpt
  · exact g.seg.trans h.seg
  · exact g.toks.trans h.toks
  · exact g.teams.trans h.teams
  · exact g.pend.trans h.pend
  · exact g.lc.trans h.lc
  · exact g.permits.trans h.permits
  · exact g.sfuFree.trans h.sfuFree

/-- A core whose strands, results in flight, map and frame are as before; its queues and L1 may differ. -/
structure Core.Kept (c e : Core) : Prop where
  strand : ∀ n, (c.strand n).Kept (e.strand n)
  iter : e.iter = c.iter
  home : e.home = c.home
  lock : e.lock = c.lock
  qmap : e.qmap = c.qmap
  flights : e.flights = c.flights
  sbVal : e.sbVal = c.sbVal
  banks : e.banks = c.banks
  ftab : e.ftab = c.ftab
  ftix : e.ftix = c.ftix
  frame : e.frame = c.frame
  lnr : e.lnr = c.lnr

theorem Core.Kept.refl (c : Core) : c.Kept c := by
  constructor <;> first | rfl | exact fun _ => Strand.Kept.refl _

theorem Core.Kept.trans {c d e : Core} (h : c.Kept d) (g : d.Kept e) : c.Kept e := by
  constructor
  · exact fun n => (h.strand n).trans (g.strand n)
  · exact g.iter.trans h.iter
  · exact g.home.trans h.home
  · exact g.lock.trans h.lock
  · exact g.qmap.trans h.qmap
  · exact g.flights.trans h.flights
  · exact g.sbVal.trans h.sbVal
  · exact g.banks.trans h.banks
  · exact g.ftab.trans h.ftab
  · exact g.ftix.trans h.ftix
  · exact g.frame.trans h.frame
  · exact g.lnr.trans h.lnr

/-- A state in which only queues, L1s and held writes may differ. -/
structure State.Kept (s t : State) : Prop where
  bad : t.bad = s.bad
  soft : t.soft = s.soft
  net : t.net = s.net
  pkg : t.pkg = s.pkg
  free : t.free = s.free
  nextReq : t.nextReq = s.nextReq
  agenda : t.agenda = s.agenda
  hand : t.hand = s.hand
  cyc : t.cyc = s.cyc
  core : ∀ d c, (s.core d c).Kept (t.core d c)
  ctx : ∀ d n, t.ctx d n = s.ctx d n
  ring : ∀ d n, t.ring d n = s.ring d n

theorem State.Kept.refl (s : State) : s.Kept s := by
  constructor <;> first | rfl | (intros; rfl) | exact fun _ _ => Core.Kept.refl _

theorem State.Kept.trans {s t u : State} (h : s.Kept t) (g : t.Kept u) : s.Kept u := by
  constructor
  · exact g.bad.trans h.bad
  · exact g.soft.trans h.soft
  · exact g.net.trans h.net
  · exact g.pkg.trans h.pkg
  · exact g.free.trans h.free
  · exact g.nextReq.trans h.nextReq
  · exact g.agenda.trans h.agenda
  · exact g.hand.trans h.hand
  · exact g.cyc.trans h.cyc
  · exact fun d c => (h.core d c).trans (g.core d c)
  · exact fun d n => (g.ctx d n).trans (h.ctx d n)
  · exact fun d n => (g.ring d n).trans (h.ring d n)

theorem Core.modStrand_kept (c : Core) (n : Nat) (f : Strand → Strand) (hf : ∀ t : Strand, Strand.Kept t (f t)) :
    Core.Kept c (c.modStrand n f) := by
  constructor <;> first
    | rfl
    | (intro m; rw [Core.modStrand_strand]; split
       · rename_i h; subst h; exact hf _
       · exact Strand.Kept.refl _)

theorem State.modCore_kept (s : State) (d c : Nat) (f : Core → Core) (hf : ∀ x : Core, Core.Kept x (f x)) :
    State.Kept s (s.modCore d c f) := by
  constructor <;> first
    | rfl
    | (intro e n; simp; done)
    | (intro e n; rw [State.modCore_core]; split
       · rename_i h; obtain ⟨rfl, rfl⟩ := h; exact hf _
       · exact Core.Kept.refl _)
    | (simp [State.cyc]; done)

theorem State.modStrand_kept (s : State) (d c n : Nat) (f : Strand → Strand) (hf : ∀ t : Strand, Strand.Kept t (f t)) :
    State.Kept s (s.modStrand d c n f) := State.modCore_kept s d c _ fun x => Core.modStrand_kept x n f hf

theorem Core.setQueue_kept (c : Core) (q : Nat) (x : Queue) : Core.Kept c (c.setQueue q x) := by
  constructor <;> first | rfl | exact fun _ => Strand.Kept.refl _

/-- A pop takes an entry off its queue; memory and the executing unit are as before. -/
theorem popQueue_kept {q : Nat} {s s1 : State} {v : Vec} (h : popQueue q s = .ok (v, s1)) :
    s.Kept s1 ∧ s1.mem = s.mem ∧ s1.cur = s.cur := by
  unfold popQueue at h
  split at h
  · rename_i v' x hp
    have h1 := State.modCore_kept s s.cur.die s.cur.core (fun c => c.setQueue q x) (fun c => Core.setQueue_kept c q x)
    dsimp only at h
    split at h
    · cases h
      refine ⟨?_, rfl, rfl⟩
      refine State.Kept.trans (State.Kept.trans h1 (State.modCore_kept _ _ _ _ ?_)) (State.modStrand_kept _ _ _ _ _ ?_)
      · intro c; constructor <;> first | rfl | exact fun _ => Strand.Kept.refl _
      · intro t; constructor <;> rfl
    · cases h
      exact ⟨h1, rfl, rfl⟩
  · cases h

/-- Reading a source pops at most one queue. -/
theorem readSrc_kept {f : SForm} {lf : Nat} {x : BitVec 16} {src : Src} {s s1 : State} {v : Vec}
    (h : readSrc f lf x src s = .ok (v, s1)) : s.Kept s1 ∧ s1.mem = s.mem ∧ s1.cur = s.cur := by
  have triv : ∀ {u : Vec}, (Except.ok (u, s) : Except Stop (Vec × State)) = .ok (v, s1) →
      s.Kept s1 ∧ s1.mem = s.mem ∧ s1.cur = s.cur := by
    intro u hu; cases hu; exact ⟨State.Kept.refl s, rfl, rfl⟩
  have mapped : ∀ (q : Nat) (g : Vec × State → Vec × State), (∀ p, (g p).2 = p.2) →
      (popQueue q s).map g = .ok (v, s1) → s.Kept s1 ∧ s1.mem = s.mem ∧ s1.cur = s.cur := by
    intro q g hg hm
    cases hp : popQueue q s with
    | error e => rw [hp] at hm; cases hm
    | ok p =>
      rw [hp] at hm
      simp only [Except.map, Except.ok.injEq] at hm
      have := hg p
      rw [hm] at this
      simp only at this
      rw [this]
      exact popQueue_kept (v := p.1) (s1 := p.2) hp
  unfold readSrc at h
  dsimp only at h
  split at h <;> first
    | exact triv h
    | (split at h <;> first
        | exact triv h
        | (split at h <;> first
            | exact triv h
            | exact popQueue_kept h
            | (refine mapped _ _ ?_ h; rintro ⟨_, _⟩; rfl)))

/-- Capturing an instruction's operands pops at most its three sources' queues. -/
theorem capture_kept {f : Form} {lf : Nat → Nat} {w : StrandWord} {s s1 : State} {k : Caps}
    (h : capture f lf w s = .ok (k, s1)) : s.Kept s1 ∧ s1.mem = s.mem ∧ s1.cur = s.cur := by
  unfold capture at h
  simp only [bind, Except.bind] at h
  split at h
  · cases h
  · split at h
    · cases h
    · rename_i a ha
      split at h
      · cases h
      · rename_i b hb
        split at h
        · cases h
        · rename_i c hc
          simp only [Except.ok.injEq, Prod.mk.injEq] at h
          obtain ⟨-, rfl⟩ := h
          have h1 := readSrc_kept (v := a.1) (s1 := a.2) ha
          have h2 := readSrc_kept (v := b.1) (s1 := b.2) hb
          have h3 := readSrc_kept (v := c.1) (s1 := c.2) hc
          exact ⟨(h1.1.trans h2.1).trans h3.1, h3.2.1.trans (h2.2.1.trans h1.2.1), h3.2.2.trans (h2.2.2.trans h1.2.2)⟩

/-- A destination that is a register or a permit queue reserves nothing. -/
theorem reserveDest_none {w : StrandWord} (s : State) (h : destQueue w = none) : reserveDest w s = .ok (s, 0) := by
  simp [reserveDest, h]

end Sys2Proof.Machine
end

