-- ==== Sys2Proof/Tests/Slice0.lean ====
section
/-!
SUPPORT. Tests. Words of the spec decode to what they stand for; ill-formed terms are refused; worked values of the spec
come out; and for each statement a `wit_` theorem shows small states and operands that meet its hypotheses, with the
instruction performed from them. `starts`, `issues`, `takes`, `did` and the like are the hypotheses as Booleans: the theorems
ending in `_sound` say so.
-/

namespace Sys2Proof.Tests

set_option Elab.async false

open Machine

/-! ### Hypotheses as Booleans -/

/-- A result that is a value with a property. -/
def okB {ε α : Type} (r : Except ε α) (p : α → Bool) : Bool :=
  match r with
  | .ok a => p a
  | .error _ => false

theorem okB_sound {ε α : Type} {r : Except ε α} {p : α → Bool} (h : okB r p = true) : ∃ a, r = .ok a ∧ p a = true := by
  cases r with
  | ok a => exact ⟨a, rfl, h⟩
  | error _ => cases h

/-- Every check holds. -/
def chk (l : List Bool) : Bool := l.all id

/-- A result that is a trap of a cause. -/
def errB {α : Type} (r : Except Stop α) (c : BitVec 8) : Bool :=
  match r with
  | .error (.trap k _ _) => decide (k = c)
  | _ => false

/-- An option that holds a value with a property. -/
def someB {α : Type} (r : Option α) (p : α → Bool) : Bool :=
  match r with
  | some a => p a
  | none => false

theorem someB_sound {α : Type} {r : Option α} {p : α → Bool} (h : someB r p = true) : ∃ a, r = some a ∧ p a = true := by
  cases r with
  | some a => exact ⟨a, rfl, h⟩
  | none => cases h

/-- `Issues`. -/
def issues (f : Form) (w : StrandWord) (s : State) : Bool := decide (Issues f w s)

/-- `TokensReady`. -/
def tokens (mask : Nat) (s : State) : Bool :=
  (List.range 8).all fun i => !mask.testBit i || (decide ((s.me.tok i).count = 0) && decide ((s.me.tok i).fault = false))

theorem tokens_sound {mask : Nat} {s : State} (h : tokens mask s = true) : TokensReady mask s := by
  intro i hi hm
  have := List.all_eq_true.1 h i (List.mem_range.2 hi)
  simpa [hm] using this

/-- `Starts`. -/
def starts (f : Form) (w : StrandWord) (s : State) (p : Caps → State → Bool) : Bool :=
  issues f w s && tokens (fld (f.effX w) 8 8) s &&
    okB (capture f asIs w (waited (fld (f.effX w) 8 8) s)) fun x => p x.1 x.2

theorem starts_sound {f : Form} {w : StrandWord} {s : State} {p : Caps → State → Bool} (h : starts f w s p = true) :
    ∃ k s1, Starts f w s k s1 ∧ p k s1 = true := by
  simp only [starts, issues, Bool.and_eq_true, decide_eq_true_eq] at h
  obtain ⟨⟨h1, h2⟩, h3⟩ := h
  obtain ⟨⟨k, s1⟩, h4, h5⟩ := okB_sound h3
  exact ⟨k, s1, ⟨h1, tokens_sound h2, h4⟩, h5⟩

/-- `Takes`. -/
def takes (w : StrandWord) (s : State) : Bool :=
  match destQueue w with
  | none => true
  | some q => (decide (s.myCore.consumer q = 6) || decide ((s.myCore.queue q).room q s.cyc ≠ 0)) && (decide (2 ≤ s.cur.strand) || !foreignOut s)

theorem takes_sound {w : StrandWord} {s : State} (h : takes w s = true) : Takes w s := by
  intro q hq
  simp only [takes, hq, Bool.or_eq_true, Bool.and_eq_true, decide_eq_true_eq, Bool.not_eq_true'] at h
  exact ⟨h.1.resolve_left, fun hs => h.2.resolve_left (by omega)⟩

/-- `Unhindered`. -/
def unhindered (s : State) : Bool :=
  (s.me.held.isEmpty || !postsOut s s.cur.die s.cur.core s.cur.strand) && (!s.me.relAll || !foreignOut s)

theorem unhindered_sound {s : State} (h : unhindered s = true) : Unhindered s := by
  simp only [unhindered, Bool.and_eq_true, Bool.or_eq_true, List.isEmpty_iff, Bool.not_eq_true'] at h
  exact ⟨h.1, fun hr => h.2.resolve_left (by simp [hr])⟩

/-- `Captures`. -/
def captures (f : Form) (lf : Nat → Nat) (w : StrandWord) (s : State) (p : Caps → State → Nat → Bool) : Bool :=
  okB (capture f lf w s) fun x => okB (reserveDest w x.2) fun y => !(y.1.cur.rel && foreignOut y.1) && p x.1 y.1 y.2

theorem captures_sound {f : Form} {lf : Nat → Nat} {w : StrandWord} {s : State} {p : Caps → State → Nat → Bool}
    (h : captures f lf w s p = true) : ∃ k s2 id, Captures f lf w s k s2 id ∧ p k s2 id = true := by
  obtain ⟨⟨k, s1⟩, h1, h2⟩ := okB_sound h
  obtain ⟨⟨s2, id⟩, h3, h4⟩ := okB_sound h2
  simp only [Bool.and_eq_true, Bool.not_eq_true'] at h4
  exact ⟨k, s2, id, ⟨s1, h1, h3, h4.1⟩, h4.2⟩

/-- The instruction is performed, and the next state has a property: `Performs`. -/
def did (i : Instr) (s : State) (p : State → Bool) : Bool :=
  match exec i s with
  | .next t => decide (t.verdict = .performed) && p t
  | _ => false

theorem did_sound {i : Instr} {s : State} {p : State → Bool} (h : did i s p = true) : Performs i s fun t => p t = true := by
  unfold did at h
  split at h
  · rename_i t ht
    simp only [Bool.and_eq_true, decide_eq_true_eq] at h
    exact ⟨t, ht, h⟩
  · cases h

/-- The unit ends with a verdict. -/
def ends (i : Instr) (s : State) (v : Verdict) : Bool :=
  match exec i s with
  | .next t => decide (t.verdict = v)
  | _ => false

/-- The instruction traps with a cause: `TrapsWith`. -/
def traps (i : Instr) (s : State) (c : BitVec 8) : Bool :=
  match exec i s with
  | .next t => match t.verdict with
    | .trapped k _ _ => decide (k = c)
    | _ => false
  | _ => false

/-! ### Words and states -/

/-- The fields of a word that the spec writes out. -/
abbrev wd (v : Word) : StrandWord := wordFields v

/-- Sources. -/
abbrev vv (n : BitVec 6) : Src := ⟨.vec, n⟩
abbrev ss (n : BitVec 6) : Src := ⟨.scal, n⟩
abbrev kk (n : BitVec 6) : Src := ⟨.cb, n⟩
abbrev ll (n : BitVec 6) : Src := ⟨.lit, n⟩

/-- A word of a destination, sources and an extension field. -/
abbrev ww (dk : DKind) (d : BitVec 6) (a : Src := vv 0) (b : Src := vv 0) (c : Src := vv 0) (x : BitVec 16 := 0) : StrandWord :=
  { sy := false, bh := 0, pn := false, pg := 0, dk, d, a, b, c, x }

/-- Sizes of the windows of every aperture: lane slices, scratch, pool, die common, instruction store. -/
def windows : Tab Word := [(0x01A, 16), (0x01B, 64), (0x01C, 256), (0x01D, 768), (0x01E, 16)]

/-- Strand n of core 0 of die 0 executes at 0x1000, in context 0. -/
def on (n : Nat) (t : Strand := {}) (core : Core := {}) (ctx : Ctx := {}) (die : Die := {}) : State :=
  { dies := [(0, { die with
      booted := true
      ctxs := Tab.put die.ctxs 0 { ctx with state := 1, regs := windows ++ ctx.regs }
      cores := Tab.put die.cores 0 { core with
        iter := some { slot := 0, task := 1, ordinal := 0, index := [] }, home := some 0, lock := false
        strands := Tab.put core.strands n { t with run := .running, pc := 0x1000 } } })],
    cur := { strand := n, pc := 0x1000, npc := 0x1008 } }

/-- Addresses of die common, scratch and lane slices. -/
abbrev dcm (n : Nat) : Word := BitVec.ofNat 64 (0xFFF3 * 2 ^ 48 + n)
abbrev scr (n : Nat) : Word := BitVec.ofNat 64 (0xFFF1 * 2 ^ 48 + n)
abbrev lsl (n : Nat) : Word := BitVec.ofNat 64 (0xFFF0 * 2 ^ 48 + n)

/-- A state of context 0 whose page table maps the first GiB to itself, in scope SOCKET: `PTBASE`, and two entries. -/
def paged (s : State) : State :=
  ((s.modCtx 0 0 fun c => { c with regs := (0x010, 0x100000) :: c.regs }).putWord 0x100000 0x8000000000002000).putWord 0x200000
    0xF401000000000000


/-! ### Decoding: words of the spec, and the fields 02 R34 gives them -/

/-- A word decodes to an instruction. -/
def reads (v : Word) (i : Instr) : Bool :=
  match decodeStrand v with
  | .ok j => decide (j = i)
  | .error _ => false

/-- Worked words of scalar and vector: `add s5, s6, #-3`; `vfma v4, v1, v2, v4 under p1`; `vcmp.lt.f32 (05)`. -/
theorem test_decode_compute :
    (reads 0x00004546CD000007 (.add { sy := false, bh := 0, pn := false, pg := 0, dk := .scal, d := 5, a := ⟨.scal, 6⟩, b := ⟨.lit, 13⟩, c := ⟨.vec, 0⟩, x := 7 }) &&
      reads 0x0631040102040100 (.vfma { sy := false, bh := 0, pn := false, pg := 1, dk := .vec, d := 4, a := ⟨.vec, 1⟩, b := ⟨.vec, 2⟩, c := ⟨.vec, 4⟩, x := 256 }) &&
      reads 0x07408204D0020107 (.vcmp { sy := false, bh := 0, pn := false, pg := 0, dk := .pred, d := 2, a := ⟨.vec, 4⟩, b := ⟨.lit, 16⟩, c := ⟨.vec, 2⟩, x := 263 })) = true := by decide +kernel

/-- Worked words of memory and ordering: `ld.i32 s3, [s4+16]`; `aadd.n64 s5, s6, #1`; `fence.sc under p1`. -/
theorem test_decode_memory :
    (reads 0x0E004344E00000C0 (.ld { sy := false, bh := 0, pn := false, pg := 0, dk := .scal, d := 3, a := ⟨.scal, 4⟩, b := ⟨.lit, 32⟩, c := ⟨.vec, 0⟩, x := 192 }) &&
      reads 0x11004546D10000F0 (.aadd { sy := false, bh := 0, pn := false, pg := 0, dk := .scal, d := 5, a := ⟨.scal, 6⟩, b := ⟨.lit, 17⟩, c := ⟨.vec, 0⟩, x := 240 }) &&
      reads 0x11C1C00000000003 (.fenceSc { sy := false, bh := 0, pn := false, pg := 1, dk := .none, d := 0, a := ⟨.vec, 0⟩, b := ⟨.vec, 0⟩, c := ⟨.vec, 0⟩, x := 3 })) = true := by decide +kernel

/-- Worked words of engines and copies: `enq s4, s2, s3`; `flw s5, fl9, #1`; `gset gd5, p1`; `cpy`. -/
theorem test_decode_engines :
    (reads 0x1300444243000000 (.enq { sy := false, bh := 0, pn := false, pg := 0, dk := .scal, d := 4, a := ⟨.scal, 2⟩, b := ⟨.scal, 3⟩, c := ⟨.vec, 0⟩, x := 0 }) &&
      reads 0x134045D100000009 (.flw { sy := false, bh := 0, pn := false, pg := 0, dk := .scal, d := 5, a := ⟨.lit, 17⟩, b := ⟨.vec, 0⟩, c := ⟨.vec, 0⟩, x := 9 }) &&
      reads 0x1370C00100000005 (.gset { sy := false, bh := 0, pn := false, pg := 0, dk := .none, d := 0, a := ⟨.vec, 1⟩, b := ⟨.vec, 0⟩, c := ⟨.vec, 0⟩, x := 5 }) &&
      reads 0x1400C04445460001 (.cpy { sy := false, bh := 0, pn := false, pg := 0, dk := .none, d := 0, a := ⟨.scal, 4⟩, b := ⟨.scal, 5⟩, c := ⟨.scal, 6⟩, x := 1 })) = true := by decide +kernel

/-- Worked words of scheduling: `iter p2`; `lcnt s4, #2`; `evsig #300`; `tbar tm1`. -/
theorem test_decode_scheduling :
    (reads 0x1510820000000000 (.iter { sy := false, bh := 0, pn := false, pg := 0, dk := .pred, d := 2, a := ⟨.vec, 0⟩, b := ⟨.vec, 0⟩, c := ⟨.vec, 0⟩, x := 0 }) &&
      reads 0x1540440000020000 (.lcnt { sy := false, bh := 0, pn := false, pg := 0, dk := .scal, d := 4, a := ⟨.vec, 0⟩, b := ⟨.vec, 0⟩, c := ⟨.vec, 2⟩, x := 0 }) &&
      reads 0x1570C0F10000012C (.evsig { sy := false, bh := 0, pn := false, pg := 0, dk := .none, d := 0, a := ⟨.lit, 49⟩, b := ⟨.vec, 0⟩, c := ⟨.vec, 0⟩, x := 300 }) &&
      reads 0x15C0C00000000001 (.tbar { sy := false, bh := 0, pn := false, pg := 0, dk := .none, d := 0, a := ⟨.vec, 0⟩, b := ⟨.vec, 0⟩, c := ⟨.vec, 0⟩, x := 1 })) = true := by decide +kernel

/-- Worked words of remote access, messages and collectives: `rld`; `rst.rel`; `msend`; `cslot`; `cred`. -/
theorem test_decode_remote :
    (reads 0x17004344D80000C0 (.rld { sy := false, bh := 0, pn := false, pg := 0, dk := .scal, d := 3, a := ⟨.scal, 4⟩, b := ⟨.lit, 24⟩, c := ⟨.vec, 0⟩, x := 192 }) &&
      reads 0x1710C044D0450008 (.rst { sy := false, bh := 0, pn := false, pg := 0, dk := .none, d := 0, a := ⟨.scal, 4⟩, b := ⟨.lit, 16⟩, c := ⟨.scal, 5⟩, x := 8 }) &&
      reads 0x1800C04546470001 (.msend { sy := false, bh := 0, pn := false, pg := 0, dk := .none, d := 0, a := ⟨.scal, 5⟩, b := ⟨.scal, 6⟩, c := ⟨.scal, 7⟩, x := 1 }) &&
      reads 0x1900464200000000 (.cslot { sy := false, bh := 0, pn := false, pg := 0, dk := .scal, d := 6, a := ⟨.scal, 2⟩, b := ⟨.vec, 0⟩, c := ⟨.vec, 0⟩, x := 0 }) &&
      reads 0x1910C04643440007 (.cred { sy := false, bh := 0, pn := false, pg := 0, dk := .none, d := 0, a := ⟨.scal, 6⟩, b := ⟨.scal, 3⟩, c := ⟨.scal, 4⟩, x := 7 })) = true := by decide +kernel

/-- Worked words of traps and registers: `trap #5`; `rett`; `rpli s4, s5`; `mfsr s3, FSR`; `mtsr PTBASE, s6`; `tlbi.va s4`. -/
theorem test_decode_traps :
    (reads 0x1A00C00000000005 (.trap { sy := false, bh := 0, pn := false, pg := 0, dk := .none, d := 0, a := ⟨.vec, 0⟩, b := ⟨.vec, 0⟩, c := ⟨.vec, 0⟩, x := 5 }) &&
      reads 0x1A10C00000000000 (.rett { sy := false, bh := 0, pn := false, pg := 0, dk := .none, d := 0, a := ⟨.vec, 0⟩, b := ⟨.vec, 0⟩, c := ⟨.vec, 0⟩, x := 0 }) &&
      reads 0x1A20444500000000 (.rpli { sy := false, bh := 0, pn := false, pg := 0, dk := .scal, d := 4, a := ⟨.scal, 5⟩, b := ⟨.vec, 0⟩, c := ⟨.vec, 0⟩, x := 0 }) &&
      reads 0x1A40430000000000 (.mfsr { sy := false, bh := 0, pn := false, pg := 0, dk := .scal, d := 3, a := ⟨.vec, 0⟩, b := ⟨.vec, 0⟩, c := ⟨.vec, 0⟩, x := 0 }) &&
      reads 0x1A50C04600000010 (.mtsr { sy := false, bh := 0, pn := false, pg := 0, dk := .none, d := 0, a := ⟨.scal, 6⟩, b := ⟨.vec, 0⟩, c := ⟨.vec, 0⟩, x := 16 }) &&
      reads 0x1A60C04400010000 (.tlbiVa { sy := false, bh := 0, pn := false, pg := 0, dk := .none, d := 0, a := ⟨.scal, 4⟩, b := ⟨.vec, 0⟩, c := ⟨.vec, 1⟩, x := 0 })) = true := by decide +kernel

/-- Worked words of monitoring: `brk #3`; `fallow #7`; `cntrd s4, s5`; `cntsel s1, s2`; `wfgrd s6, s7`; `trmark #9`. -/
theorem test_decode_monitoring :
    (reads 0x1B00C00000000003 (.brk { sy := false, bh := 0, pn := false, pg := 0, dk := .none, d := 0, a := ⟨.vec, 0⟩, b := ⟨.vec, 0⟩, c := ⟨.vec, 0⟩, x := 3 }) &&
      reads 0x1B10C00000000007 (.fallow { sy := false, bh := 0, pn := false, pg := 0, dk := .none, d := 0, a := ⟨.vec, 0⟩, b := ⟨.vec, 0⟩, c := ⟨.vec, 0⟩, x := 7 }) &&
      reads 0x1B20444500000000 (.cntrd { sy := false, bh := 0, pn := false, pg := 0, dk := .scal, d := 4, a := ⟨.scal, 5⟩, b := ⟨.vec, 0⟩, c := ⟨.vec, 0⟩, x := 0 }) &&
      reads 0x1B30C04142000000 (.cntsel { sy := false, bh := 0, pn := false, pg := 0, dk := .none, d := 0, a := ⟨.scal, 1⟩, b := ⟨.scal, 2⟩, c := ⟨.vec, 0⟩, x := 0 }) &&
      reads 0x1B40464700000000 (.wfgrd { sy := false, bh := 0, pn := false, pg := 0, dk := .scal, d := 6, a := ⟨.scal, 7⟩, b := ⟨.vec, 0⟩, c := ⟨.vec, 0⟩, x := 0 }) &&
      reads 0x1B50C0D900000000 (.trmark { sy := false, bh := 0, pn := false, pg := 0, dk := .none, d := 0, a := ⟨.lit, 25⟩, b := ⟨.vec, 0⟩, c := ⟨.vec, 0⟩, x := 0 })) = true := by decide +kernel

/-- Worked words of power and time: `timrd s4`; `enrd s5, #1`; `pace s3, s4, s5`; `pwrq s2, #1`. -/
theorem test_decode_power :
    (reads 0x1B60440000000000 (.timrd { sy := false, bh := 0, pn := false, pg := 0, dk := .scal, d := 4, a := ⟨.vec, 0⟩, b := ⟨.vec, 0⟩, c := ⟨.vec, 0⟩, x := 0 }) &&
      reads 0x1B70450000010000 (.enrd { sy := false, bh := 0, pn := false, pg := 0, dk := .scal, d := 5, a := ⟨.vec, 0⟩, b := ⟨.vec, 0⟩, c := ⟨.vec, 1⟩, x := 0 }) &&
      reads 0x1B80434445000000 (.pace { sy := false, bh := 0, pn := false, pg := 0, dk := .scal, d := 3, a := ⟨.scal, 4⟩, b := ⟨.scal, 5⟩, c := ⟨.vec, 0⟩, x := 0 }) &&
      reads 0x1B90420000010000 (.pwrq { sy := false, bh := 0, pn := false, pg := 0, dk := .scal, d := 2, a := ⟨.vec, 0⟩, b := ⟨.vec, 0⟩, c := ⟨.vec, 1⟩, x := 0 })) = true := by decide +kernel
/-- Worked commands of the drill: `win.lat #24`, `rpol.all.cont`, `win.lat #12` with signal flag 3, `mx.m128n256`, `drain.f32`. -/
theorem test_decode_drill :
    decodeDrill 0x0000020000000018 0 0 0 = .ok .win ∧ decodeDrill 0x00000A00000007F0 0 0 0 = .ok .rpol ∧
      decodeDrill 0x000302000000000C 0 0 0 = .ok .win ∧ decodeDrill 0x000014080001E800 0x3807 0 0 = .ok .mxM128n256 ∧
      decodeDrill 0x0002090000008000 0x0000100100000005 0 0 = .ok .drain := by
  refine ⟨?_, ?_, ?_, ?_, ?_⟩ <;> rfl

/-- The fields of the command `win.lat #12` that raises flag 3. -/
theorem test_decode_command : (decode [1, 0x000302000000000C, 0, 0, 0]).map (fun x => x.2.cmd) =
    .ok { wt := 0, sg := 3, opnd := 12, w1 := 0, w2 := 0, w3 := 0 } := by rfl

/-- An unallocated opcode decodes to nothing (03 R63). -/
theorem test_decode_unallocated : (decodeStrand 0x0200000000000000).toOption.isNone = true ∧
    (decodeStrand 0x1FF0000000000000).toOption.isNone = true := by
  constructor <;> rfl


/-! ### Well-formed terms -/

/-- A word of `add` that is well formed, and ones that each break one check of its form: destination kind, source kind, a source
field of none, the X literal twice, reserved X bits, a branch hint, an operand in hand (02 R34 to R39). -/
theorem test_form_refused :
    (wellFormed (.add (ww .scal 5 (ss 6) (ll 13) (vv 0) 7)) {} &&
      !wellFormed (.add (ww .pred 5 (ss 6) (ll 13) (vv 0) 7)) {} && !wellFormed (.add (ww .scal 32 (ss 6) (ll 13) (vv 0) 7)) {} &&
      !wellFormed (.add (ww .scal 5 (ss 32) (ll 13) (vv 0) 7)) {} && !wellFormed (.add (ww .scal 5 (vv 6) (ll 13) (vv 0) 7)) {} &&
      !wellFormed (.add (ww .scal 5 (ss 6) (ll 13) (vv 1) 7)) {} && !wellFormed (.add (ww .scal 5 (ll 48) (ll 49) (vv 0) 7)) {} &&
      !wellFormed (.add (ww .scal 5 (ss 6) (ll 13) (vv 0) 0x17)) {} && !wellFormed (.add (ww .scal 5 (ss 6) (ll 13) (vv 0) 5)) {} &&
      !wellFormed (.add (ww .scal 5 (ss 6) (ll 13) (vv 0) 0x107)) {} &&
      !wellFormed (.add { ww .scal 5 (ss 6) (ll 13) (vv 0) 7 with bh := 1 }) {} &&
      !wellFormed (.add (ww .scal 5 (ss 6) (ll 13) (vv 0) 7)) { entry := { w0 := 1, w1 := 0 } }) = true := by decide +kernel

/-- Words of a variant's form under the other variant's name, and a guard where none may stand (04 R100; 08 R202). -/
theorem test_variant_refused :
    (wellFormed (.flr (ww .scal 5 (x := 1))) {} && !wellFormed (.flrZ (ww .scal 5 (x := 1))) {} && wellFormed (.flrZ (ww .scal 5 (x := 0x81))) {} &&
      !wellFormed (.flr (ww .scal 5 (x := 0))) {} && !wellFormed (.pmovToPred (ww .scal 5 (ss 6) (x := 7))) {} &&
      !wellFormed (.mopMove (ww .pred 1 (vv 2))) {} && !wellFormed (.tsetOpen (ww .none 0 (ss 1) (vv 0) (vv 2))) {} &&
      !wellFormed (.fenceAcq (ww .none 0 (x := 1))) {} && !wellFormed (.gset (ww .none 0 (vv 1) (x := 0x40))) {} &&
      !wellFormed (.tlbiVa (ww .none 0 (ss 4) (vv 0) (vv 2))) {} && !wellFormed (.evwaitT (ww .none 0 (ss 1))) {} &&
      wellFormed (.seg (ww .none 0 (x := 1))) {} && !wellFormed (.seg { ww .none 0 (x := 1) with pg := 1 }) {}) = true := by decide +kernel

/-- Commands, packets, entries and events with the wrong operands in hand, of another kind, or with words past their length. -/
theorem test_hand_refused :
    (wellFormed .win { cmd := { wt := 0, sg := 3, opnd := 12, w1 := 0, w2 := 0, w3 := 0 } } &&
      !wellFormed .win { cmd := { wt := 0, sg := 3, opnd := 12, w1 := 1, w2 := 0, w3 := 0 } } &&
      !wellFormed .win { ev := { die := 1, unit := 0, a := 0, b := 0, c := 0, d := 0 } } &&
      !wellFormed .symOpen { cmd := { wt := 0, sg := 0, opnd := 0x8000000000, w1 := 0, w2 := 0, w3 := 0 } } &&
      wellFormed .copyLinear { packet := { w0 := 0x0100000000000040, w1 := 0, w2 := 0, w3 := 0, w4 := 0, w5 := 0, w6 := 0, w7 := 0 } } &&
      !wellFormed .copyFill { packet := { w0 := 0x0100000000000040, w1 := 0, w2 := 0, w3 := 0, w4 := 0, w5 := 0, w6 := 0, w7 := 0 } } &&
      !wellFormed .copyNoop { entry := { w0 := 1, w1 := 0 } } && wellFormed .streamJump { entry := { w0 := 0x5000000000000000, w1 := 16 } } &&
      !wellFormed .streamCall { entry := { w0 := 0x5000000000000000, w1 := 16 } } && !wellFormed .streamEnd { ev := { die := 1, unit := 0, a := 0, b := 0, c := 0, d := 0 } } &&
      !wellFormed .launchPacketTask { packet := { w0 := 0x2000000000000000, w1 := 0, w2 := 0, w3 := 0, w4 := 0, w5 := 0, w6 := 0, w7 := 0 } } &&
      wellFormed .trapEntry { ev := { die := 1, unit := 0, a := 0, b := 0, c := 0, d := 0 } } &&
      !wellFormed .trapEntry { entry := { w0 := 1, w1 := 0 } }) = true := by decide +kernel

/-! ### Worked values of the spec -/

/-- 120 + 20 in `i8` is 0x7F with `SAT` and wraps to -116 without (04 R85); a quotient by 0 in `n32` is all ones (04 R86). -/
theorem test_scalar_values :
    (did (.add (ww .scal 5 (ss 6) (ss 7) (vv 0) 0x080F)) (on 1 { regs := [(6, 120), (7, 20)] }) (fun t => t.me.sreg 5 = 0x7F) &&
      did (.add (ww .scal 5 (ss 6) (ss 7) (vv 0) 0x0807)) (on 1 { regs := [(6, 120), (7, 20)] }) (fun t => t.me.sreg 5 = 0xFFFFFFFFFFFFFF8C) &&
      did (.div (ww .scal 5 (ss 6) (ss 7) (vv 0) 0x0D07)) (on 1 { regs := [(6, 120)] }) (fun t => t.me.sreg 5 = 0xFFFFFFFF)) = true := by decide +kernel

/-- A claim of 3 slots at `WIX` 0x13C below `LIM` 0x140, and the claim of 3 after it: one slot is left (07 R176). -/
theorem test_claim_values :
    claim 0x000001400000013C 3 = (some 0x000001400000013F, 0x13C) ∧ claim 0x000001400000013F 3 = (none, 0x8000000000000001) := by decide +kernel

/-- Pacing at field time 1,000,000: 600 x 16 cycles by 1,004,000 ask for 2,400 MHz, and 700 x 16 cannot be met (17 R426). -/
theorem test_pace_values :
    (did (.pace (ww .scal 3 (ss 4) (ss 5))) (on 1 { regs := [(4, 1004000), (5, 600)] } {} {} { ftime := 1000000 })
        (fun t => t.me.sreg 3 = 2400) &&
      did (.pace (ww .scal 3 (ss 4) (ss 5))) (on 1 { regs := [(4, 1004000), (5, 700)] } {} {} { ftime := 1000000 })
        (fun t => t.me.sreg 3 = BitVec.ofNat 64 (2 ^ 63 + 2600))) = true := by decide +kernel

/-- A reset value of each register that has one, at the last ring, context and core (08 R195; 12 R297, R305). -/
theorem test_reset_values :
    (State.reset.ring 7 39).cfg = 0x0000000200000000 ∧ (State.reset.ctx 7 15).evcfg = 0x2000000000000000 ∧
      (State.reset.ctx 7 15).lqcfg = 0x1000000000000000 ∧ State.reset.pkg.cap = 4000 := by decide +kernel


/-! ### Instructions that compute a value -/

/-- Two, one and three scalar sources. -/
abbrev two : StrandWord := ww .scal 5 (ss 6) (ss 7) (vv 0) 7
abbrev one : StrandWord := ww .scal 5 (ss 6) (vv 0) (vv 0) 7
abbrev three : StrandWord := ww .scal 5 (ss 6) (ss 7) (ss 8) 7

/-- A word for each row of `scalarRows`. -/
def scalarWords : List StrandWord :=
  List.replicate 15 two ++ List.replicate 4 one ++ [two, two, one, ww .scal 5 (ss 6) (ss 7) (vv 1) 7, one, ww .scal 5 (ll 48) (vv 0) (vv 1) 7,
    three, three, three, ww .pred 1 (ss 6) (ss 7) (vv 1) 7, ww .pred 1 (vv 1) (vv 2) (vv 3) 7, ww .pred 1 (ss 6) (vv 0) (vv 0) 7,
    ww .scal 5 (vv 1) (vv 0) (vv 0) 7, three]

/-- Registers with values. -/
def someRegs : Strand := { regs := [(6, 0x123), (7, 5), (8, 9)] }

theorem wit_ScalarLands :
    (decide (scalarRows.length = scalarWords.length) && (scalarRows.zip scalarWords).all fun x =>
      [on 0 someRegs, on 1 someRegs].all fun s =>
        decide (s.cur.strand < 2) && decide (Plain s) && issues x.1.2.1 x.2 s && captures x.1.2.1 asIs x.2 s (fun _ _ _ => true) &&
          did (x.1.1 x.2) s fun t => decide (t.me.pc = 0x1008)) = true := by decide +kernel

/-- The same with a queue as the destination: `q8`, of which strand A is the producer and E0 the consumer. -/
theorem wit_ScalarLands_queue :
    (let s := on 1 someRegs { qmap := [(8, 0x12)] }
     let w := ww .scal 40 (ss 6) (ss 7) (vv 0) 7
     issues Forms.add w s && decide (Plain s) &&
      captures Forms.add asIs w s (fun _ s2 id => decide (s2.myCore.consumer 8 ≠ 6) && decide (id = 0)) &&
      did (.add w) s fun t => decide ((t.myCore.queue 8).ents.map QEnt.val = [some 0x128])) = true := by decide +kernel

/-- A destination that discards: s0 and p0 (02 R38). -/
theorem test_discards :
    (did (.add (ww .scal 0 (ss 6) (ss 7) (vv 0) 7)) (on 1 someRegs) (fun t => decide (t.me.regs = someRegs.regs)) &&
      did (.cmp (ww .pred 0 (ss 6) (ss 7) (vv 1) 7)) (on 1 someRegs) (fun t => t.me.pred 0 && decide (t.me.preds = 0))) = true := by decide +kernel

/-- Vector words: two, one and three sources, under `f32` and `RM` 7. -/
abbrev v2 (x : BitVec 16) : StrandWord := ww .vec 5 (vv 6) (vv 7) (vv 0) x
abbrev v1 (x : BitVec 16) : StrandWord := ww .vec 5 (vv 6) (vv 0) (vv 0) x
abbrev v3 (x : BitVec 16) : StrandWord := ww .vec 5 (vv 6) (vv 7) (vv 8) x

/-- A word for each row of `vectorRowsA ++ vectorRowsB`. -/
def vectorWords : List StrandWord :=
  [v2 7, v2 7, v2 7, v3 7, v3 7, v3 7, v2 7, v2 7, v1 7, v1 7, v2 7, v3 7, ww .pred 1 (vv 6) (vv 7) (vv 1) 0x107,
   ww .vec 5 (vv 6) (vv 7) (vv 1) 7, v2 7, v2 7, v2 7, v2 7, v2 7, v2 7, v2 7, v2 7] ++
  [v2 7, v3 7, v2 7, v2 7, v3 7, ww .vec 5 (vv 6) (vv 0) (vv 0) 7, ww .vec 5 (vv 6) (vv 0) (vv 1) 7, v2 7, ww .vec 5 (vv 6) (vv 7) (vv 1) 7,
   ww .vec 5 (vv 6) (ss 7) (vv 0) 7, ww .scal 5 (vv 6) (ss 7) (vv 0) 7, ww .vec 5 (ss 6) (ss 7) (vv 0) 7, v1 7, v1 7, v1 7,
   ww .vec 5 (ss 6) (vv 0) (vv 0) 7, ww .pred 1 (vv 1) (vv 2) (vv 5) 0, ww .pred 1 (ss 6) (vv 0) (vv 0) 0, ww .scal 5 (vv 1) (vv 0) (vv 0) 0,
   v2 0x207, ww .vec 5 (vv 6) (vv 0) (vv 0) 0x1007, v2 7]

theorem wit_ComputeInFlight_scalar :
    ((scalarRows.zip scalarWords).all fun x =>
      [on 2 someRegs, on 5 someRegs].all fun s =>
        issues x.1.2.1 x.2 s && captures x.1.2.1 asIs x.2 s (fun _ _ _ => true) &&
          did (x.1.1 x.2) s fun t => decide ((t.myCore.flights.map fun f => f.op) = [x.1.2.2.1])) = true := by decide +kernel

theorem wit_ComputeInFlight_vector :
    (decide ((vectorRowsA ++ vectorRowsB).length = vectorWords.length) && ((vectorRowsA ++ vectorRowsB).zip vectorWords).all fun x =>
      let s := on 2 someRegs
      issues x.1.2.1 x.2 s && captures x.1.2.1 vecLit x.2 s
          (fun k _ _ => decide (¬ ((x.1.2.2.1 = 0x083 ∨ x.1.2.2.1 = 0x084) ∧ x.2.c.idx = 3 ∧ (k.fmt = 12 ∨ k.fmt = 13)))) &&
        did (x.1.1 x.2) s fun t => decide ((t.myCore.flights.map fun f => f.op) = [x.1.2.2.1])) = true := by decide +kernel

theorem wit_ComputeInFlight_special :
    (specialRows.all fun r =>
      let s := on 3 someRegs
      issues r.2.1 (v1 7) s && captures r.2.1 vecLit (v1 7) s (fun _ _ _ => true) && decide (s.me.sfuFree ≤ s.cyc) &&
        did (r.1 (v1 7)) s fun t => decide (t.me.sfuFree = 4)) = true := by decide +kernel

theorem wit_ComputeInFlight_conversions :
    (let s := on 5 someRegs
     let u := ww .vec 5 (vv 6) (vv 0) (vv 1) 0x207
     let q := ww .vec 5 (vv 29) (vv 0) (vv 0) 0x1007
     okB (cvtSource (ww .vec 5 (vv 6) (vv 0) (vv 1) 0x207) s) (fun src => issues Forms.vcvt (ww .vec 5 (vv 6) (vv 0) (vv 1) 0x207) s &&
        captures Forms.vcvt (fun _ => src) (ww .vec 5 (vv 6) (vv 0) (vv 1) 0x207) s fun _ _ _ => true) &&
      did (.vcvt (ww .vec 5 (vv 6) (vv 0) (vv 1) 0x207)) s (fun t => decide (t.myCore.flights.length = 1)) &&
      issues Forms.vunpk u s && captures Forms.vunpk vecLit u s (fun k _ _ => decide (u.c.idx.toNat < 32 / elemBits k.fmt)) &&
      did (.vunpk u) s (fun t => decide (t.myCore.flights.length = 1)) &&
      issues Forms.vqnt q s && captures Forms.vqnt vecLit q s (fun _ _ _ => true) &&
      did (.vqnt q) s (fun t => decide (t.myCore.flights.length = 1)) &&
      issues Forms.vlat (v3 0x1007) s && captures Forms.vlat vecLit (v3 0x1007) s (fun k _ _ => decide (¬ (k.fmt = 20 ∧ fld k.x 6 2 ≠ 0))) &&
      did (.vlat (v3 0x1007)) s (fun t => decide (t.myCore.flights.length = 1))) = true := by decide +kernel

/-- Captured operands: with and without `SAT`, in `i8` (code 8): the clause at each edge of the format, and between. -/
theorem wit_ScalarValues :
    (let k := fun (a b : Word) => ({ a := ofWord a, b := ofWord b, x := 0x080F, fmt := 8 } : Caps)
     let sum := fun (a b : Word) => ((lo64 (k a b).a).setWidth 8).toInt + ((lo64 (k a b).b).setWidth 8).toInt
     (k 0 0).sat && (intFmt 8).1 && decide (sum 127 1 = 128) && decide ((landed 0 two (k 127 1)).toInt = 127) &&
      decide (sum 128 255 = -129) && decide ((landed 0 two (k 128 255)).toInt = -128) &&
      decide (sum 128 0 = -128) && decide ((landed 0 two (k 128 0)).toInt = -128) &&
      !({ x := 0x0807, fmt := 8 } : Caps).sat) = true := by decide +kernel

theorem wit_Division :
    ([on 0 someRegs, on 1 someRegs, on 5 someRegs].all fun s =>
      issues Forms.div two s && captures Forms.div asIs two s (fun _ _ _ => true) && did (.div two) s (fun _ => true) &&
        issues Forms.rem two s && captures Forms.rem asIs two s (fun _ _ _ => true) && did (.rem two) s (fun _ => true)) = true := by decide +kernel

/-- The corners of division: a divisor of 0, and the least value by -1 (04 R86). -/
theorem test_division_corners :
    (let s := fun (a b : Word) => on 1 { regs := [(6, a), (7, b)] }
     let w := ww .scal 5 (ss 6) (ss 7) (vv 0) 0x0C07
     did (.div w) (s 0x80000000 0xFFFFFFFF) (fun t => t.me.sreg 5 = 0xFFFFFFFF80000000) &&
      did (.rem w) (s 0x80000000 0xFFFFFFFF) (fun t => t.me.sreg 5 = 0) && did (.rem w) (s 7 0) (fun t => t.me.sreg 5 = 7)) = true := by decide +kernel

theorem wit_BitFields :
    ([on 0 someRegs, on 1 someRegs, on 4 someRegs].all fun s =>
      issues Forms.ext three s && captures Forms.ext asIs three s (fun k _ _ => decide (fld (lo64 k.c) 0 7 = 9)) &&
        did (.ext three) s (fun _ => true) && issues Forms.dep three s && decide (three.d ≠ 0) &&
        captures Forms.dep asIs three s (fun _ _ _ => true) && did (.dep three) s (fun _ => true)) = true := by decide +kernel

/-- Lanes: operands in `i32`, and a register result whose last lane lands while another is zeroed or kept. -/
theorem wit_VectorLands :
    (let w := ww .vec 31
     let r : Res := { val := splat 7, lanes := 0x80000000, zero := true }
     !({ fmt := 12 } : Caps).sat && decide (w.dk = .vec) && decide (w.d.toNat < 32) && !r.three && r.lanes.getLsbD 31 && !r.lanes.getLsbD 0 &&
      decide (lane ((({} : Strand).landReg w r).vreg 31) 31 = 7)) = true := by decide +kernel

/-- A full queue, popped; and a reserved entry that lands. -/
theorem wit_QueueTiming :
    (let x : Queue := { ents := (List.range 8).map fun i => { id := i, val := some 1 } }
     let y : Queue := { ents := [{ id := 3 }] }
     decide (x.ents.length = queueCap 0) && someB (x.pop 1) (fun _ => true) && decide (y.pop 0 = none) &&
      someB ((y.land 3 9 0).pop 1) fun r => decide (r.1 = 9)) = true := by decide +kernel


/-! ### Control -/

/-- The other strands of core 0 have ended. -/
def othersDone (n : Nat) (s : State) : State :=
  (List.range 6).foldl (fun s k => if k = n then s else s.modStrand 0 0 k fun t => { t with run := .done }) s

/-- A word of a lock-step bundle of an E strand. -/
def bundled (n : Nat) (ops : List Nat) (core : Core := {}) : State :=
  let s := (on n {} core).modCore 0 0 fun c => { c with lock := true }
  { s with cur := { s.cur with bundle := true, ops, npc := 0x1020 } }

theorem wit_ControlSync :
    (let w := ww .none 0
     let sb := ww .none 0 (vv 0) (vv 0) (vv 15)
     ([on 0, on 1, on 5].all fun s => issues Forms.nop w s && did (.nop w) s fun t => decide (t.me.pc = 0x1008)) &&
      issues Forms.sb sb (on 2) && did (.sbset sb) (on 2) (fun t => decide (t.myCore.sbSet = 0x8000)) &&
      did (.sbclr sb) (on 2) (fun t => decide (t.myCore.sbClr = 0x8000)) && issues Forms.sbwait sb (on 2) &&
      decide (bit (on 2).myCore.sbVal 15 = bit sb.x 0) && did (.sbwait sb) (on 2) (fun t => decide (t.me.pc = 0x1008)) &&
      did (.sbwait { sb with x := 1 }) (on 2 {} { sbVal := 0x8000 }) (fun t => decide (t.me.pc = 0x1008))) = true := by decide +kernel

theorem wit_ControlSync_segments :
    (let w := ww .none 0 (x := 0xFFFF)
     let e := ww .none 0 (kk 62)
     let open_ : Strand := { seg := some { cost := 9 } }
     let banks : Core := { banks := [(62, 0x000000000000FFFF), (63, 0xFF)] }
     let lock := bundled 2 [0x04D, 0x040, 0x040, 0x040]
     let lockEnd := (bundled 2 [0x04E, 0x040, 0x040, 0x040] banks).modMe fun t => { t with seg := some { cost := 9 } }
     let wE := { w with sy := true }
     let eE := { e with sy := true }
     decide ((on 1).me.rpt.active = false) && decide ((on 1).myCore.incoming = none) && issues Forms.seg w (on 1) && segPlace 0x04D (on 1) &&
      decide ((on 1).me.seg = none) && did (.seg w) (on 1) (fun t => decide (t.me.seg = some { cost := 65535 })) &&
      issues Forms.seg wE lock && segPlace 0x04D lock && did (.seg wE) lock (fun t => decide (t.me.seg = some { cost := 65535 })) &&
      issues Forms.segend e (on 0 open_ banks) && segPlace 0x04E (on 0 open_ banks) && (on 0 open_ banks).me.seg.isSome &&
      did (.segend e) (on 0 open_ banks) (fun t => decide (t.me.live.s = 0xFFFF)) &&
      issues Forms.segend eE lockEnd && segPlace 0x04E lockEnd && lockEnd.me.seg.isSome && !decide (eE.a.idx = 63) &&
      did (.segend eE) lockEnd (fun t => decide (t.me.live.v = 0xFF))) = true := by decide +kernel

theorem wit_ControlSync_done :
    (let w := ww .none 0
     let last := othersDone 5 (on 5)
     issues Forms.done w (on 1) && decide ((on 1).me.seg = none) && ((List.range 4).all fun n => !((on 1).me.team n).valid) &&
      did (.done w) (on 1) (fun t => decide (t.me.run = .done) && t.myCore.iter.isSome) && issues Forms.done w last &&
      ((List.range 5).all fun n => decide ((last.myCore.strand n).run = .done)) && last.myCore.iter.isSome &&
      did (.done w) last (fun t => t.myCore.iter.isNone)) = true := by decide +kernel

theorem wit_Branches :
    (let w := ww .none 0 (x := 0xFFFF)
     let off := { w with pn := true }
     let r := ww .none 0 (ss 6)
     let s := on 1 { regs := [(6, 0x2000), (30, 0x3000)] }
     let e := (on 3).modMe fun t => { t with regs := [(6, 0x2008)] }
     let lock := bundled 2 [0x041, 0x040, 0x040, 0x040]
     decide (Fresh s) && passes (checkWord Forms.direct w s) && decide (NoLoop s) && guardHolds w s &&
      decide ((s.cur.pc + BitVec.ofInt 64 (w.x.toInt * 8)).toNat % unitBytes s = 0) &&
      did (.br w) s (fun t => decide (t.me.pc = 0xFF8)) && did (.call w) s (fun t => decide (t.me.sreg 30 = 0x1008)) &&
      passes (checkWord Forms.direct off s) && !guardHolds off s && did (.br off) s (fun t => decide (t.me.pc = 0x1008)) &&
      did (.call off) s (fun t => decide (t.me.sreg 30 = 0x3000)) &&
      issues Forms.indirect r s && okB (capture Forms.indirect asIs r s) (fun x => decide (lo64 x.1.a = 0x2000)) &&
      did (.jl r) s (fun t => decide (t.me.pc = 0x11000)) && did (.jmp r) s (fun t => decide (t.me.pc = 0x2000)) &&
      did (.callr r) s (fun t => decide (t.me.sreg 30 = 0x1008)) &&
      issues Forms.ret (ww .none 0) s && did (.ret (ww .none 0)) s (fun t => decide (t.me.pc = 0x3000)) &&
      issues Forms.indirect r e && did (.jmp r) e (fun t => decide (t.me.pc = 0x2008)) &&
      did (.callr r) e (fun t => decide (t.myCore.flights.map (fun f => (f.strand, f.due)) = [(3, 0)])) &&
      did (.call { w with sy := true, x := 4 }) lock (fun t => decide (t.myCore.flights.map Flight.strand = [2, 3, 4, 5])) &&
      decide (((({} : Core).landFlight { due := 0, strand := 3, op := 0x045, w, caps := { a := 8 }, ipc := 0 }).strand 3).sreg 30 = 8) &&
      passes (checkWord Forms.direct { w with sy := true, x := 4 } lock) && decide (unitBytes lock = 32) &&
      did (.br { w with sy := true, x := 4 }) lock (fun t => decide (t.cur.npc = 0x1020)) &&
      issues Forms.indirect { r with sy := true } lock && did (.jmp { r with sy := true }) lock (fun t => decide (t.cur.npc = 0))) = true := by
  decide +kernel

/-- A target that no unit's alignment meets: outside lock-step state every offset is a multiple of 8, so the strand stands at 0x1004. -/
theorem wit_Branches_trap :
    (let w := ww .none 0 (x := 1)
     let s := { on 1 with cur := { strand := 1, pc := 0x1004, npc := 0x100C } }
     decide (Fresh s) && passes (checkWord Forms.direct w s) && decide (NoLoop s) && guardHolds w s && !s.cur.bundle &&
      decide ((s.cur.pc + BitVec.ofInt 64 (w.x.toInt * 8)).toNat % unitBytes s ≠ 0) && traps (.br w) s cAlign && traps (.call w) s cAlign) = true := by
  decide +kernel

theorem wit_RepeatAndFork :
    (let r := ww .none 0 (ss 6) (x := 511)
     let s := on 1 { regs := [(6, 3)] }
     issues Forms.rpt r s && decide (Plain s) && okB (capture Forms.rpt asIs r s) (fun x => decide (fld (lo64 x.1.a) 0 32 ≠ 0)) &&
      did (.rpt r) s (fun t => decide (t.me.rpt = { active := true, n := 512, pos := 0, left := 3 })) &&
      okB (capture Forms.rpt asIs r (on 1)) (fun x => decide (fld (lo64 x.1.a) 0 32 = 0)) &&
      did (.rpt r) (on 1) (fun t => decide (t.me.pc = 0x1000 + 8 * 513))) = true := by decide +kernel

theorem wit_RepeatAndFork_fork :
    (let w := { ww .none 0 (x := 2) with sy := true }
     let f := fun n => bundled n [0x048, 0x048, 0x048, 0x048]
     let j := ww .none 0 (vv 0) (vv 0) (vv 15) 4
     let others : Core := { sbArr := [(15, 0xE)], sbTgt := [(3, 0x1020), (4, 0x1020), (5, 0x1020)] }
     ([2, 5].all fun n => issues Forms.fork w (f n) && decide ((f n).me.rpt.active = false) &&
        did (.fork w) (f n) fun t => decide (t.me.pc = 0x1010) && decide (t.myCore.lock = decide (n ≠ 5))) &&
      issues Forms.rejoin j (on 5) && !(on 5).myCore.lock &&
      decide (((on 5).cur.pc + BitVec.ofInt 64 (j.x.toInt * 8)).toNat % 32 = 0) &&
      did (.rejoin j) (on 5) (fun t => decide (t.me.run = .blocked 4 15) && decide (Tab.get 0#4 t.myCore.sbArr 15 = 8)) &&
      issues Forms.rejoin j (on 2 {} others) &&
      ([3, 4, 5].all fun i => decide (Tab.get 0 (on 2 {} others).myCore.sbTgt i = 0x1020)) &&
      did (.rejoin j) (on 2 {} others) (fun t => t.myCore.lock && decide ((t.myCore.strand 5).pc = 0x1020))) = true := by decide +kernel


/-! ### Memory -/

/-- An enabled ring of a size, at the word of die common it starts at, owned by a context. -/
def ringOf (first log2 owner : Nat) (r : Ring := {}) : Ring :=
  { r with cfg := BitVec.ofNat 64 (first + log2 * 2 ^ 31 + owner * 2 ^ 36 + 2 ^ 40) }

/-- Rings 0 and 4 (a drill's and a receive engine's), 20 (result) and 24 (faults) of context 0. -/
def rings : Tab Ring := [(0, ringOf 0x100 4 0), (4, ringOf 0x200 4 0), (20, ringOf 0x300 4 0), (24, ringOf 0x400 4 0)]

theorem wit_LoadLands :
    (let w := ww .scal 3 (ss 4) (ll 16) (vv 0) 0xC0
     let q := { w with d := 40 }
     let s := (on 1 { regs := [(4, dcm 0x100)] } { qmap := [(8, 0x12)] }).putNum (keyDcm 0 0x100) 4 0x80000001
     let e := (on 2 { regs := [(4, scr 0x3FFFC)] }).putNum (keyScr 0 0 0x3FFFC) 4 0xFFFFFFFE
     let r := on 1 { regs := [(4, BitVec.ofNat 64 (0xFFF4 * 2 ^ 48))] } {} {} { rings }
     let p := paged ((on 1 { regs := [(4, 0x300000)] }).putNum 0x300000 4 7)
     starts Forms.ld w s (fun k s1 => !(inRingAperture (addrAB k) && decide (s.cur.strand < 2)) &&
        okB (load (addrAB k) 4 (multiple 4 (addrAB k)) (bit k.x 3) false s1) (fun x => decide (x.1 = [1, 0, 0, 0x80])) && takes w s1) &&
      did (.ld w) s (fun t => decide (t.me.sreg 3 = 0xFFFFFFFF80000001)) && starts Forms.ld q s (fun _ s1 => takes q s1) &&
      did (.ld q) s (fun t => decide ((t.myCore.queue 8).ents.length = 1)) &&
      starts Forms.ld w e (fun k s1 => okB (load (addrAB k) 4 (multiple 4 (addrAB k)) false false s1) (fun _ => true) && takes w s1) &&
      did (.ld w) e (fun t => decide (t.myCore.flights.length = 1)) &&
      starts Forms.ldacq w s (fun k s1 => !inRingAperture (addrAB k) &&
        okB (load (addrAB k) 4 (multiple 4 (addrAB k)) (bit k.x 3) true s1) (fun _ => true) && takes w s1) &&
      did (.ldacq w) s (fun t => decide (t.me.sreg 3 = 0xFFFFFFFF80000001)) &&
      starts Forms.ld { w with x := 0xF0 } r (fun k s1 => inRingAperture (addrAB k) && okB (ringLoad 0 0 (addrAB k) s1) (fun _ => true)) &&
      did (.ld { w with x := 0xF0 }) r (fun _ => true) &&
      starts Forms.ldacq { w with x := 0xF0 } r (fun k s1 => okB (ringLoad 0 0 (addrAB k) s1) (fun _ => true)) &&
      did (.ldacq { w with x := 0xF0 }) r (fun _ => true) &&
      Memory.wf p.mem && starts Forms.ld w p (fun k s1 =>
        okB (load (addrAB k) 4 (multiple 4 (addrAB k)) (bit k.x 3) false s1) fun x => decide (x.1 = [7, 0, 0, 0])) &&
      did (.ld w) p (fun t => decide (t.me.sreg 3 = 7) && bit (t.word 0x200000) 50)) = true := by decide +kernel

/-- What a load returns: a held write over memory, and a line of L1 (06 R164; 07 R188). -/
theorem wit_LoadLands_bytes :
    (let s := on 1 { held := [{ key := keyDcm 0 0x101, bytes := [some 9] }] }
     Memory.wf s.mem && okB (load (dcm 0x100) 4 true false false s) fun x => decide (x.1 = [0, 9, 0, 0]) &&
       okB (locateIf s s.agent (dcm 0x100) 4 true .rd false) fun f => decide (f.place.aper ≠ 16)) = true := by decide +kernel

theorem wit_VectorLoads :
    (let q : Core := { qmap := [(0, 0x12), (1, 0x21)], queues := [(1, { ents := [{ val := some 0 }], nextId := 1 })] }
     let a := on 1 { regs := [(4, dcm 0x80), (5, 4)] } q {} { cyc := 5 }
     let e := on 2 { regs := [(4, scr 0x80), (5, 4)], masks := [(1, 0x80000001)] }
     let wa := ww .vec 32 (ss 4) (ll 16)
     let we := ww .vec 31 (ss 4) (ll 16) (vv 0) 0x10
     let none_ := { we with x := 0x70 }
     let ls := ww .vec 31 (vv 6) (ll 16)
     let g := ww .vec 32 (ss 4) (vv 33)
     starts Forms.ldv wa a (fun k s1 => takes wa s1 && decide (maskV k.x s1.me ≠ 0) &&
        okB (loadLanes (activeLanes (maskV k.x s1.me)) (contiguous (addrAB k)) 4 (fun _ => multiple 128 (addrAB k)) lane4 false s1) fun _ => true) &&
      did (.ldv wa) a (fun t => decide ((t.myCore.queue 0).ents.length = 1)) &&
      starts Forms.ldv we e (fun k s1 => takes we s1 &&
        okB (loadLanes (activeLanes (maskV k.x s1.me)) (strided k) 4 (multiple 4) lane4 false s1) fun _ => true) &&
      did (.ldv we) e (fun t => decide (t.myCore.flights.length = 1)) && did (.ldvs we) e (fun t => decide (t.myCore.flights.length = 1)) &&
      starts Forms.ldv none_ e (fun k s1 => decide (maskV k.x s1.me = 0) && okB (touch .rd false (addrAB k) s1) fun _ => true) &&
      did (.ldv none_) e (fun t => decide (t.myCore.flights.length = 1)) && did (.ldvs { wa with b := ss 5 }) a (fun _ => true) &&
      starts Forms.ldl ls e (fun k s1 => takes ls s1 && !bit k.x 3 && okB (sliceOk s1 k) (fun _ => true) &&
        okB (loadLanes (activeLanes (maskV k.x s1.me)) (sliceVa s1 k) 4 (multiple 4) lane4 false s1) fun _ => true) &&
      did (.ldl ls) e (fun t => decide (t.myCore.flights.length = 1)) &&
      starts Forms.gath g a (fun k s1 => takes g s1 && decide (indexedLanes k.b ≠ []) &&
        okB (loadLanes (indexedLanes k.b) (indexed k (gwFmt k.x).2) (gwFmt k.x).2 (multiple (gwFmt k.x).2)
          (fun bs => BitVec.ofInt 32 (wrapInt (gwFmt k.x).1 (8 * (gwFmt k.x).2) (ofBytes bs))) false s1) fun _ => true) &&
      did (.gath g) a (fun t => decide ((t.myCore.queue 0).ents.length = 1))) = true := by decide +kernel

theorem wit_VectorLoads_lanes :
    (let s := (on 1).putNum (keyDcm 0 0xFC) 4 5
     okB (loadLanes [31] (contiguous (dcm 0x80)) 4 (fun _ => true) lane4 false s) fun x => inAperture (contiguous (dcm 0x80) 31) &&
       decide (s.me.held = []) && decide (lane x.1 31 = 5) && decide (lane x.1 0 = 0)) = true := by decide +kernel

theorem wit_Stores :
    (let w := ww .none 0 (ss 4) (ll 16) (ss 5) 0xC0
     let may := fun (k : Caps) (u : State) =>
       !inRingAperture (addrAB k) && okB (locateIf u u.agent (addrAB k) 4 (multiple 4 (addrAB k)) .wr (bit k.x 3)) fun f =>
         decide (watchHit u.myCtx (addrAB k) (List.replicate 4 true) = none) &&
           !partialBad u f.place.key ((toBytes 4 (lo64 k.c).toNat).map some)
     let a := on 1 { regs := [(4, dcm 0x100), (5, 0x01020304)] }
     let late := on 1 { regs := [(4, scr 0x100), (5, 0x01020304)] }
     let e := on 5 { regs := [(4, lsl (3 * 32768)), (5, 9)] }
     let r := on 1 { regs := [(4, BitVec.ofNat 64 (0xFFF4 * 2 ^ 48 + 24)), (5, BitVec.ofNat 64 (2 ^ 32))] } {} {} { rings }
     let p := paged (on 1 { regs := [(4, 0x300000), (5, 9)] })
     Memory.wf a.mem && [a, late, e, p].all unhindered && !postsOut r 0 0 1 && starts Forms.st w a may && did (.st w) a (fun t => decide (t.me.held.length = 1)) &&
      starts Forms.st w late may && did (.st w) late (fun t => decide (t.myCore.late.length = 1)) &&
      starts Forms.st w e may && did (.st w) e (fun t => decide (t.myCore.late.length = 1)) &&
      starts Forms.st w p may && did (.st w) p (fun t => decide (t.me.held.length = 1)) &&
      starts Forms.strel w a (fun k s1 => may k (release s1) && !foreignOut (release s1)) &&
      did (.strel w) a (fun t => decide (t.me.held.length = 1)) &&
      starts Forms.strel w late (fun k s1 => may k (release s1)) && did (.strel w) late (fun t => decide (t.me.held = [])) &&
      starts Forms.st { w with x := 0xF0 } r (fun k s1 => inRingAperture (addrAB k) && okB (ringStore 0 0 s1.sup (addrAB k) (lo64 k.c) (drainMine s1)) fun _ => true) &&
      did (.st { w with x := 0xF0 }) r (fun _ => true) &&
      starts Forms.strel { w with x := 0xF0 } r (fun k s1 => okB (ringStore 0 0 s1.sup (addrAB k) (lo64 k.c) (drainMine (release s1))) fun _ => !foreignOut (release s1)) &&
      did (.strel { w with x := 0xF0 }) r (fun _ => true)) = true := by decide +kernel

/-- Several stores to scratch, and the late store of one byte that lands. -/
theorem wit_Stores_late :
    (let s := on 2
     let l : LateStore := { strand := 2, key := keyLs 0 0 5, bytes := [some 7] }
     let c := (on 2).modCore 0 0 fun c => { c with late := [l] }
     okB (store false (fun _ => true) false [(scr 4, [some 1]), (scr 8, [some 2])] s) (fun t => decide (t.myCore.late.length = 2)) &&
      decide (s.myCtx.brkRegs = []) && ([scr 4, scr 8].all fun a => okB (locateIf s s.agent a 1 true .wr false) fun f =>
        f.leaf.isNone && decide (f.place.aper ≤ 1)) && Memory.wf c.mem && decide ((c.core 0 0).late = [l]) && decide (2 ^ 51 ≤ l.key) &&
      decide (memGet (applyLate 0 0 0 c).mem l.key = 7)) = true := by decide +kernel

theorem wit_VectorStores :
    (let q : Core := { qmap := [(1, 0x21)], queues := [(1, { ents := [{ val := some 0 }, { id := 1, val := some 1 }], nextId := 2 })] }
     let a := on 1 { regs := [(4, dcm 0x80), (5, 4), (6, 1024)] } q {} { cyc := 5, tiles := [(1, 0x8002104104000000)], tileOwned := [(1, true)] }
     let e := on 2 { regs := [(4, scr 0x80), (5, 4)], masks := [(1, 0x80000001)] }
     let wa := ww .none 0 (ss 4) (ll 16) (ss 5)
     let we := ww .none 0 (ss 4) (ll 16) (vv 31) 0x10
     let none_ := { we with x := 0x70 }
     let ls := ww .none 0 (vv 6) (ll 16) (vv 7)
     let sc := ww .none 0 (ss 4) (vv 33) (vv 33)
     let data := fun (k : Caps) (s1 : State) (va : Nat → Word) =>
       (activeLanes (maskV k.x s1.me)).map fun L => (va L, (toBytes 4 (lane k.c L).toNat).map some)
     starts Forms.stv wa a (fun k s1 => decide (maskV k.x s1.me ≠ 0) &&
        okB (store false (fun _ => multiple 128 (addrAB k)) false (data k s1 (contiguous (addrAB k))) s1) fun u => !mustWait a u) &&
      did (.stv wa) a (fun t => decide (t.me.held ≠ [])) &&
      starts Forms.stv we e (fun k s1 => okB (store false (multiple 4) false (data k s1 (strided k)) s1) fun u => !mustWait e u) &&
      did (.stv we) e (fun t => decide (t.myCore.late.length = 2)) && did (.stvs we) e (fun t => decide (t.myCore.late.length = 2)) &&
      starts Forms.stv none_ e (fun k s1 => decide (maskV k.x s1.me = 0) && okB (touch .wr false (addrAB k) s1) fun u => !mustWait e u) &&
      did (.stv none_) e (fun t => decide (t.myCore.late = [])) &&
      starts Forms.stl ls e (fun k s1 => !bit k.x 3 && okB (sliceOk s1 k) (fun _ => true) &&
        okB (store false (multiple 4) false (data k s1 (sliceVa s1 k)) s1) fun u => !mustWait e u) &&
      did (.stl ls) e (fun t => decide (t.myCore.late.length = 32)) &&
      starts Forms.scat sc a (fun k s1 => decide (indexedLanes k.b ≠ []) &&
        okB (store false (multiple (gwFmt k.x).2) false
          ((indexedLanes k.b).map fun L => (indexed k (gwFmt k.x).2 L, (toBytes (gwFmt k.x).2 (lane k.c L).toNat).map some)) s1) fun u => !mustWait a u) &&
      did (.scat sc) a (fun t => decide (t.me.held ≠ []))) = true := by decide +kernel

theorem wit_LinesAndFills :
    (let s := paged (on 1 { regs := [(4, 0x300000), (5, 0)], held := [{ key := 0x300008, bytes := [some 1] }] })
     let a := on 1 { regs := [(4, dcm 0x200), (5, 128)] }
     let w := ww .none 0 (ss 4) (ss 5)
     let own := (s.putWord 0x200000 0xF001000000000000)
     Memory.wf s.mem && starts Forms.pref w s (fun k s1 => okB (locateIf s1 s1.agent (addrAB k) 1 true .rd false) fun f =>
        f.leaf.isSome && decide (f.place.scope ≠ 0) && (s1.badIn (f.place.key / lineSize * lineSize) lineSize).isNone) &&
      did (.pref w) s (fun t => (l1Get t.myCore (0x300000 / lineSize)).isSome) &&
      starts Forms.pref w own (fun k s1 => okB (locateIf s1 s1.agent (addrAB k) 1 true .rd false) fun f =>
        f.leaf.isSome && decide (f.place.scope = 0) && (s1.badIn (f.place.key / lineSize * lineSize) lineSize).isNone) &&
      did (.pref w) own (fun t => t.myCore.l1c.contains (0x300000 / lineSize)) &&
      starts Forms.two w s (fun k s1 => okB (locateLine (addrAB k) s1) fun x => someB x fun y => !flyingTo (y.1.key / lineSize * lineSize) lineSize y.2) &&
      !postsOut s 0 0 1 && unhindered a &&
      did (.wbl w) s (fun t => decide (t.me.held = []) && decide (memGet t.mem 0x300008 = 1)) && did (.invl w) s (fun _ => true) &&
      starts Forms.two w a (fun k s1 => okB (locateLine (addrAB k) s1) fun x => x.isNone) &&
      did (.wbl w) a (fun _ => true) && did (.invl w) a (fun _ => true) &&
      starts Forms.two { w with b := ss 5 } a (fun k s1 => decide (zx k.b 24 = 128) && decide ((lo64 k.a).toNat % 128 = 0) &&
        okB (locateIf s1 s1.agent (lo64 k.a) 128 true .wr false) fun f => decide (2 ≤ f.place.aper) && decide (f.place.aper ≠ 16) &&
          decide (s1.bad = []) && decide (watchHit s1.myCtx (lo64 k.a) (List.replicate 128 true) = none)) &&
      did (.zfill w) a (fun _ => true) && starts Forms.ldcb { w with b := ll 16, c := vv 15 } a (fun k s1 => decide ((addrAB k).toNat % 512 = 0) &&
        okB (loadRange (addrAB k) 128 4 s1) fun x => decide (x.1.length = 512)) &&
      did (.ldcb { w with b := ll 16, c := vv 15 }) a (fun t => decide (t.myCore.lateBanks.length = 1))) = true := by
  decide +kernel

/-- A word with an uncorrectable error (06 R170): a partial store to it traps, a store whose lanes cover it together is performed, and
its error is gone once the writes have left. -/
theorem test_bad_word :
    chk (
      let s := { on 1 { regs := [(4, dcm 0x400), (5, 7)] } with bad := [keyDcm 0 0x408] }
      let stv := ww .none 0 (ss 4) (ll 16) (ss 5)
      [traps (.st (ww .none 0 (ss 4) (ll 24) (ss 5) 0xC0)) s cUncorrectable, did (.st (ww .none 0 (ss 4) (ll 24) (ss 5))) s fun t => decide (t.bad ≠ []),
       did (.stv stv) s fun t => decide ((drainHeld 0 0 1 t).bad = [] ∧ (drainHeld 0 0 1 t).word (keyDcm 0 0x408) = 0x700000007)]) = true := by decide +kernel

/-- A descriptor of a tile: `f32`, 4 rows of 128 bytes at 0x200 of die common. -/
def tileDesc : Word := BitVec.ofNat 64 (2 ^ 50 + 4 * 2 ^ 38 + 8 * 2 ^ 26 + 2)

/-- Tile n of die 0 has an entry, and is owned by context 0. -/
def tiled (n : Nat) (e : Word) (s : State) : State :=
  s.modDie 0 fun d => { d with tiles := Tab.put d.tiles n e, tileOwned := Tab.put d.tileOwned n true }

theorem wit_Tiles :
    (let n := 1023
     let s0 := on 1 { regs := [(4, 1023), (5, tileDesc)], held := [{ key := keyDcm 0 0x200, bytes := [some 1] }] } { qmap := [(0, 0x12)] }
     let ready := tiled n (setFld tileDesc 62 2 2) s0
     let read := tiled n (setFld (setFld tileDesc 62 2 2) 18 8 3) s0
     let empty := tiled n tileDesc s0
     let tld := ww .vec 32 (ss 4) (ll 16)
     let def_ := ww .none 0 (ss 4) (ss 5)
     let opn := ww .none 0 (ss 4) (vv 0) (vv 1)
     let rel := ww .none 0 (ss 4) (vv 0) (vv 2)
     let qry := ww .scal 3 (ss 4)
     [s0, ready, empty].all (fun s => decide (Tab.get 0 (s.die 0).served (thingTile n) = 0)) &&
      decide (fld tileDesc 38 12 = 4 ∧ fld tileDesc 26 12 = 8) &&
      starts Forms.tld tld ready (fun k s1 => okB (nameTile (lo64 k.a) s1) (fun m => decide (m = n)) && takes tld s1 &&
        okB (tilePiece n ((s1.die 0).tile n) (lo64 k.b)) fun va => okB (load va 128 true false false s1) fun _ => true) &&
      decide (tileSt ((ready.die 0).tile n) = 2) && did (.tld tld) ready (fun t => decide ((t.myCore.queue 0).ents.length = 1)) &&
      starts Forms.tsetDef def_ s0 (fun k s1 => okB (nameTile (lo64 k.a) s1) (fun m => decide (m = n)) && !(s1.die 0).owned n &&
        decide (fld (lo64 k.b) 58 6 = 0) && decide (tileRdr (lo64 k.b) = 0) && fmtAssigned (fld (lo64 k.b) 50 8) &&
        tileFits s1 s1.agent n (lo64 k.b)) &&
      did (.tsetDef def_) s0 (fun t => (t.die 0).owned n) &&
      starts (Forms.tsetMode 1) opn empty (fun k s1 => okB (nameTile (lo64 k.a) s1) fun m => decide (m = n)) &&
      decide (tileSt ((empty.die 0).tile n) = 0) && did (.tsetOpen opn) empty (fun t => decide (tileSt ((t.die 0).tile n) = 2)) &&
      starts (Forms.tsetMode 2) rel ready (fun _ s1 => !foreignOut (release s1)) &&
      did (.tsetRel rel) ready (fun t => !(t.die 0).owned n) && did (.tsetRel rel) read (fun t => decide (tileSt ((t.die 0).tile n) = 3)) &&
      starts Forms.tqry qry ready (fun _ s1 => takes qry s1) && did (.tqry qry) ready (fun t => decide (fld (t.me.sreg 3) 62 2 = 2)) &&
      starts Forms.tst (ww .none 0 (ss 4) (ll 16) (vv 33)) (on 1 ready.me
          { qmap := [(1, 0x21)], queues := [(1, { ents := [{ val := some 7 }], nextId := 1 })] } {}
          { cyc := 5, tiles := (ready.die 0).tiles, tileOwned := (ready.die 0).tileOwned }) (fun k s1 => okB (readyTile n s1) fun e =>
        okB (tilePiece n e (lo64 k.b)) fun va =>
          okB (store false (fun _ => true) false [(va, (toBytes 128 k.c.toNat).map some)] s1) fun u => !mustWait ready u)) = true := by decide +kernel

/-! ### Atomics and fences -/

/-- A word of die common that every atomic acts on. -/
def atomAt (v : Nat) : State := (on 1 { regs := [(4, dcm 0x100), (5, 1), (6, 9)] }).putNum (keyDcm 0 0x100) 8 v

theorem wit_Atomics :
    chk (
      let s := atomAt 0x3F800000
      let c := { s with mem := [] } |>.modMe fun t => { t with regs := (4, scr 0x100) :: t.regs }
      let w := ww .scal 3 (ss 4) (ss 5) (vv 0) 0xF0
      let f := ww .scal 3 (ss 4) (ll 49) (vv 0) 0x10
      let cas := ww .scal 3 (ss 4) (ss 5) (ss 6) 0xF0
      let l := ww .scal 3 (ss 4) (ss 5)
      let home := fun (op wd n : Nat) (w : StrandWord) (k : Caps) (b : Word) (s1 : State) => takes w s1 &&
        okB (atomic (lo64 k.a) n (fld k.x 2 2) (accNew op wd n (lo64 k.b) b) s1) fun _ => true
      let late := fun (n : Nat) (w : StrandWord) (k : Caps) (s1 : State) => takes w s1 && inScratch (lo64 k.a) &&
        okB (locateAtom s1 s1.agent (lo64 k.a) n) (fun x => (s1.badIn x.place.key n).isNone) &&
          decide (watchHit s1.myCtx (lo64 k.a) (List.replicate n true) = none)
      let noted := fun (i : Instr) => did i c fun t => decide (t.myCore.lateAtoms.length = 1)
      [!foreignOut s, atomRows.all fun r =>
         let fp := atomIsFp r.2.2
         let u := if fp then f else w
         let lit := fun _ => atomLit (fld ((Forms.atom2 fp).effX u) 4 4)
         okB (capture (Forms.atom2 fp) lit u s) (fun x => home (accAtom r.2.2) (fld x.1.x 4 4) (atomBytes fp (fld x.1.x 4 4)) u x.1 0 x.2) &&
           issues (Forms.atom2 fp) u s && did (r.1 u) s (fun t => decide (t.me.sreg 3 = 0x3F800000)) &&
           okB (capture (Forms.atom2 fp) lit u c) (fun x => late (atomBytes fp (fld x.1.x 4 4)) u x.1 x.2) && noted (r.1 u),
       starts Forms.acas cas s (fun k s1 => home accCas (fld k.x 4 4) (atomBytes false (fld k.x 4 4)) cas k (lo64 k.c) s1),
       did (.acas cas) s (fun t => decide (t.me.sreg 3 = 0x3F800000)), did (.acas cas) (atomAt 1) (fun t => decide (t.num (keyDcm 0 0x100) 8 = 9)),
       starts Forms.acas cas c (late 8 cas), noted (.acas cas), starts Forms.aclm l c (late 8 l), noted (.aclm l),
       starts Forms.aclm l (atomAt 0x00000140000000FF) (home (accAtom 9) 0 8 l · 0 ·),
       did (.aclm l) (atomAt 0x00000140000000FF) (fun t => decide (t.me.sreg 3 = 0xFF))]) = true := by decide +kernel

/-- An atomic on core scratch at its place in the end of a cycle: a sum, a comparison that fails, and a claim. -/
theorem wit_Atomics_late :
    chk (
      let w := ww .scal 3 (ss 4) (ss 5) (vv 0) 0xF0
      let s := (on 1).putNum (keyScr 0 0 0x100) 8 7
      let x : LateAtom := { strand := 1, key := keyScr 0 0 0x100, op := accAtom 0, n := 8, wd := 15, b := 1, c := 0, opc := 0x110, w, rid := 0 }
      let cas := { x with op := accCas, opc := 0x117, b := 8, c := 9 }
      [Memory.wf s.mem, decide (144 < x.opc ∧ 198 < x.opc), decide (accNew x.op 15 8 1 0 7 = some 8), decide ((8 : Nat) < 256 ^ 8),
       decide ((lateAtom 0 0 4 s x).num x.key 8 = 8 ∧ ((lateAtom 0 0 4 s x).strand 0 0 1).sreg 3 = 7),
       decide (accNew cas.op 15 8 8 9 7 = none), decide ((lateAtom 0 0 4 s cas).num x.key 8 = 7)]) = true := by decide +kernel

theorem wit_Atomics_memory :
    (let s := paged (on 1)
     let new := fun b : Nat => some ((b + 1) % 2 ^ 64)
     Memory.wf s.mem && (s.dies.all fun x => x.2.cqs.isEmpty && x.2.ctxs.all fun y => y.2.lq.isNone) && decide (s.me.held = []) && decide (s.myCtx.brkRegs = []) &&
      okB (atomic 0x300000 8 3 new s) (fun x => decide (x.1 = 0) && decide (x.2.num 0x300000 8 = 1)) &&
      okB (locateAtom s s.agent 0x300000 8) fun f => decide (f.place.aper = 16)) = true := by decide +kernel

/-- Operands at the edge of a width, and a claim of exactly what is free, and of one more. -/
theorem wit_AtomicValues :
    (255 < 2 ^ (intFmt 9).2 ∧ atomNew 0 9 255 1 = 0 ∧ atomNew 1 8 0x80 0x7F = 0x80) ∧
      (2 ^ 32 - 1 < 2 ^ 32 ∧ (claim (2 * 2 ^ 32 + (2 ^ 32 - 1)) 3).1 = some (2 * 2 ^ 32 + 2) ∧ (claim (2 * 2 ^ 32 + (2 ^ 32 - 1)) 4).1 = none) := by
  decide +kernel

theorem wit_Fences :
    (let s := on 1 { held := [{ key := keyDcm 0 0x200, bytes := [some 1] }], scLines := [5] } { l1 := [(5, [])] }
     let h := on 0
     [(Instr.fenceAcq, 0), (.fenceRel, 1), (.fenceAr, 2), (.fenceSc, 3)].all fun x =>
      let w := ww .none 0 (x := BitVec.ofNat 16 x.2)
      let wt := ww .none 0 (x := BitVec.ofNat 16 (0x100 + x.2))
      issues (Forms.fence x.2) w s && tokens (fld w.x 8 8) s && !foreignOut s && !postsOut s 0 0 1 && did (x.1 w) s (fun t => decide (t.me.held = [])) &&
        issues (Forms.fence x.2) wt s && tokens (fld wt.x 8 8) s && did (x.1 wt) s (fun t => decide (t.myCore.l1 = [])) &&
        issues (Forms.fence x.2) w h && did (x.1 w) h (fun _ => true)) = true := by decide +kernel

/-! ### Engines and copies -/

/-- Rings of context 0 with words: a result ring with a report, a fault ring with a record. -/
def ringed (n : Nat) (t : Strand) (core : Core := {}) (ctx : Ctx := {}) (free : Bool := true) : State :=
  on n t core ctx { rings := [(0, ringOf 0x100 4 0 { tail := if free then 15 else 16 }), (4, ringOf 0x200 4 0), (20, ringOf 0x300 4 0 { tail := 1 }),
                              (24, ringOf 0x400 4 0 { tail := 4 })], cyc := 5 }

theorem wit_EngineQueues :
    (let w := ww .scal 3 (ss 4) (ss 5)
     let nb := { w with x := 1 }
     let n1 := { w with c := vv 1 }
     let s := ringed 1 { regs := [(4, 0), (5, dcm 0x40), (6, 20), (7, 24)] } { qmap := [(8, 0x12)] }
     let full := ringed 1 { regs := [(4, 0), (5, dcm 0x40)] } {} {} false
     let d := ww .scal 3 (ss 6)
     let d4 := ww .scal 40 (ss 7)
     starts Forms.enq w s (fun k s1 => okB (nameRing true (lo64 k.a) s1) (fun n => decide (n = 0)) && takes w s1) &&
      decide ((s.ring 0 0).free = 1) && !foreignOut s && did (.enq w) s (fun t => decide ((t.ring 0 0).tail = 16)) &&
      starts Forms.enq nb full (fun k _ => bit k.x 0) && decide ((full.ring 0 0).free = 0) &&
      did (.enq nb) full (fun t => decide (t.me.sreg 3 = 0x8000000000000000)) &&
      !bit w.x 0 && ends (.enq w) full (.waited 10 0) && ends (.enqn n1) full (.waited 10 0) && !full.cur.bundle &&
      starts Forms.enqn n1 full (fun k s1 => okB (loadOnce (loadRange (lo64 k.b) 8 n1.c.idx.toNat) s1) fun x => decide (x.1.length = 8)) &&
      starts Forms.enqn n1 s (fun k s1 => okB (loadOnce (loadRange (lo64 k.b) 8 n1.c.idx.toNat) s1) fun x => decide ((wordsOfBytes x.1).length ≤ (s.ring 0 0).free)) &&
      did (.enqn n1) s (fun t => decide ((t.ring 0 0).tail = 16)) &&
      starts Forms.enqn { n1 with c := vv 16, x := 1 } s (fun k s1 => okB (loadOnce (loadRange (lo64 k.b) 8 16) s1) fun x =>
        decide ((s.ring 0 0).free < (wordsOfBytes x.1).length)) &&
      did (.enqn { n1 with c := vv 16, x := 1 }) s (fun t => decide (t.me.sreg 3 = 0x8000000000000001)) &&
      starts Forms.deq d s (fun k s1 => okB (nameRing false (lo64 k.a) s1) (fun n => decide (n = 20)) && takes d s1) &&
      decide (ringBad 0 (s.ring 0 20) 0 1 s = none ∧ ringBad 0 (s.ring 0 24) 0 4 s = none) &&
      did (.deq d) s (fun t => decide ((t.ring 0 20).head = 1)) &&
      starts Forms.deq d4 s (fun k s1 => okB (nameRing false (lo64 k.a) s1) (fun n => decide (n = 24)) && decide (s1.myCore.consumer 8 ≠ 6) &&
        decide (4 ≤ (s1.myCore.queue 8).room 8 s.cyc)) &&
      did (.deq d4) s (fun t => decide ((t.myCore.queue 8).ents.length = 4)) &&
      starts Forms.engst w s (fun k s1 => okB (nameRing true (lo64 k.a) s1) fun _ => takes w s1) &&
      did (.engst w) s (fun _ => true)) = true := by decide +kernel

theorem wit_FlagsAndGuards :
    (let s := on 1 { regs := [(4, 0), (5, 3)] } {} { flags := [(127, 3)] }
     let w0 := ww .scal 3 (ss 4) (vv 0) (vv 0) 0x7F
     let w3 := ww .scal 3 (ss 5) (vv 0) (vv 0) 0x7F
     let st := ww .none 0 (ss 5) (vv 0) (vv 0) 0x7F
     let r := ww .scal 3 (x := 0x7F)
     let z := ww .scal 3 (x := 0xFF)
     let g := ww .none 0 (vv 0) (x := 63)
     [thingFlag 0 127, thingFlag 0 0].all (fun n => decide (Tab.get 0 (s.die 0).served n ≤ 64 + s.rank ∧ Tab.get 0 (s.die 0).served n ≤ rankEngine s.rank)) &&
      starts Forms.flw w0 s (fun k s1 => decide (fld (lo64 k.a) 0 16 = 0) && takes w0 s1) && did (.flw w0) s (fun t => decide (t.me.sreg 3 = 3)) &&
      starts Forms.flw w3 s (fun k s1 => decide (fld (lo64 k.a) 0 16 = 3) && takes w3 s1) && decide (s.myCtx.flag 127 = 3) &&
      did (.flw w3) s (fun t => decide (t.myCtx.flag 127 = 0)) && starts Forms.fls st s (fun _ _ => !foreignOut s) &&
      did (.fls st) s (fun t => decide (t.myCtx.flagAdds.length = 1)) && issues (Forms.flr false) r s && tokens (fld r.x 8 8) s && takes r s &&
      did (.flr r) s (fun t => decide (t.me.sreg 3 = 3)) && issues (Forms.flr true) z s && takes z s &&
      did (.flrZ z) s (fun t => decide (t.myCtx.flag 127 = 0)) && issues Forms.gset g s && decide (s.myCtx.guard 63 = 0) &&
      did (.gset g) s (fun t => decide (t.myCore.gdSet = [(1, 63, 1)])) && issues Forms.gsetClr { g with x := 0x7F } s &&
      did (.gsetClr { g with x := 0x7F }) s (fun t => decide (t.myCore.gdSet = [(1, 63, 0)])) && issues Forms.gqry (ww .scal 3 (x := 63)) s &&
      takes (ww .scal 3 (x := 63)) s && did (.gqry (ww .scal 3 (x := 63))) s (fun t => decide (t.me.sreg 3 = 0))) = true := by decide +kernel

/-- An enabled copy queue of 16 slots in die common, its first slot claimed or free. -/
def cq0 : PktQueue := { hdr := keyDcm 0 0x1000, log2n := 4 }

theorem wit_CopyInstructions :
    (let s := ((on 1 { regs := [(4, dcm 0x100), (5, dcm 0x200), (6, 0xFFFFFF), (7, 63)] } {} {} { cqs := [(63, cq0)] }).putNum (keyDcm 0 0x1000) 8
        0x0000001000000000).putNum (keyDcm 0 0x100) 8 0x0100000000000040
     let full := s.putNum (keyDcm 0 0x1000) 8 0x0000001000000010
     let w := ww .none 0 (ss 4) (ss 5) (ss 6) 7
     let q := ww .scal 3 (ss 7) (ss 4)
     let room := decide ((s.me.tok 7).count < 255) && decide (s.myCore.port.length < 16) && !foreignOut s
     let f := on 1 { toks := [(7, { fault := true, cause := 5, seqs := [1] })] }
     let pkt := fun (k : Caps) (s1 : State) (p : Packet → State → Bool) => okB (loadPacket (lo64 k.b) s1) fun x => p x.1 x.2
     starts Forms.cpy w s (fun k _ => decide ((lo64 k.c).toNat < 2 ^ 24) && room) && did (.cpy w) s (fun t => decide ((t.me.tok 7).count = 1)) &&
      starts Forms.cpyt w s (fun k _ => decide (fld (lo64 k.c) 60 4 = 0)) && did (.cpyt w) s (fun t => decide (t.myCore.port.length = 1)) &&
      starts Forms.cpyx { w with b := vv 0, c := vv 0 } s (fun k s1 => okB (loadPacket (lo64 k.a) s1) fun _ => true) &&
      did (.cpyx { w with b := vv 0, c := vv 0 }) s (fun t => decide ((t.me.tok 7).count = 1)) &&
      starts Forms.cpyq q s (fun k s1 => decide ((lo64 k.a).toNat < 64) && takes q s1 && pkt k s1 fun p s2 =>
        someB (s.cq 0 (cqKey s.mySlot 63)) fun y => someB (y.append (stampPacket p 0 s2) (release s2)) fun r => decide (r.1 = 0)) &&
      did (.cpyq q) s (fun t => decide (t.me.sreg 3 = 0)) && starts Forms.cpyq { q with x := 8 } full (fun k s1 => pkt k s1 fun p s2 =>
        someB (full.cq 0 (cqKey full.mySlot 63)) fun y => (y.append (stampPacket p 0 s2) (release s2)).isNone) &&
      did (.cpyq { q with x := 8 }) full (fun t => decide (t.me.sreg 3 = 0x8000000000000000)) &&
      !bit q.x 3 && ends (.cpyq q) full (.waited 10 0) && !full.cur.bundle && !foreignOut full &&
      issues Forms.twait (ww .scal 3 (x := 0x80)) f && takes (ww .scal 3 (x := 0x80)) f && decide ((f.me.tok 7).count = 0) &&
      did (.twait (ww .scal 3 (x := 0x80))) f (fun t => decide (t.me.sreg 3 = 0x80)) &&
      issues Forms.tstat (ww .scal 3 (x := 7)) f && takes (ww .scal 3 (x := 7)) f && did (.tstat (ww .scal 3 (x := 7))) f (fun _ => true) &&
      issues Forms.tkill (ww .none 0 (x := 7)) f && !killedRunning (f.modMe fun t => { t with killed := t.killed ++ (t.tok 7).seqs }) &&
      did (.tkill (ww .none 0 (x := 7))) f (fun t => decide (t.me.killed = [1]))) = true := by decide +kernel


/-- The event in hand on die 0: its unit and words. -/
def evt (unit : Nat) (a b c d : Word) (s : State) : State :=
  { s with hand := { ev := { die := 0, unit := BitVec.ofNat 16 unit, a, b, c, d } },
           cur := { die := 0, core := unit % 128, unit, strand := unit / 128 % 8 } }

/-- A record at an address: `f32`, one dimension of 16 elements, a copy window of 16, its bytes at 0x800 of die common. -/
def recordAt (key : Nat) (s : State) : State :=
  (((s.putWord key (dcm 0x800)).putWord (key + 8) 0x801).putWord (key + 16) 16).putWord (key + 48) 16

/-- A packet in hand. -/
def held (p : Packet) (s : State) : State := { s with hand := { packet := p } }

/-- A packet of its first three words. -/
abbrev pk (w0 w1 w2 : Word) : Packet := { packet0 with w0, w1, w2 }

theorem wit_CopyEngine_takes :
    chk (
      let s := recordAt (keyDcm 0 0x400) (on 1 {} {} {} { rings })
      let lin := held (pk 0x0100000000FFFFFF (dcm 0) (dcm 0x40)) s
      let conv := held (pk 0x0101020002000010 (dcm 0) (dcm 0x40)) s
      let fill := held (pk 0x0100000004000010 5 (dcm 0x40)) s
      let store := held (pk 0x0100000008000010 (dcm 0) 0xFFF0) s
      let ring := held (pk 0x0100000010000080 (dcm 0) 0) s
      let tens := held (pk 0x0201010000000000 (dcm 0x400) (dcm 0x400)) s
      let toT := held (pk 0x0301010100000000 (dcm 0x400) 1023) (tiled 1023 tileDesc s)
      let fromT := held (pk 0x0401010400000000 1023 (dcm 0x400)) (tiled 1023 (setFld tileDesc 62 2 2) s)
      let ok := fun (k : Nat) (s : State) => passes (takeChecks 0 k (inHand s) s)
      let took := fun (i : Instr) (s : State) => did i s fun t => decide ((t.cluster 0 0).copies.length = 1)
      let g := copyAgent 0 0 (inHand tens)
      let idle := fun (s : State) => decide (Tab.get 0 (s.die 0).served (thingTile 1023) = 0)
      let reads := fun (s : State) => okB (readTlr (inHand s).fmt3f g (dcm 0x400) s) fun x =>
        decide (tlrFmt x.1 = 1) && okB (checkFormats (inHand s) 1 1) (fun _ => true) && blockAligned 1 0 (copyWindow x.1) &&
          passes (tileRules tileDesc 0 1 (copyWindow x.1))
      [ok 0 (held packet0 s), took .copyNoop (held packet0 s), ok 1 lin, okB (linearRun (inHand lin)) (fun _ => true), took .copyLinear lin,
       ok 1 conv, okB (linearRun (inHand conv)) (fun r => r.conv), took .copyLinear conv, ok 2 fill, took .copyFill fill,
       ok 3 store, decide (0xFFF0 + 16 ≤ winSize ((s.ctx 0 0).reg 0x01E) 4096), took .copyToInstructionStore store,
       ok 4 ring, took .copyToCommandRing ring, ok 5 tens, reads tens, took .copyTensor tens,
       ok 6 toT, reads toT, okB (packetTile 1023) (fun k => decide (k = 1023)), (toT.die 0).owned 1023, idle toT, idle fromT, took .copyTensorToTile toT,
       ok 7 fromT, reads fromT, took .copyTileToTensor fromT]) = true := by decide +kernel

/-- A linear copy of 300 bytes that runs on cluster 0, and stands at a byte. -/
def running (done : Nat) (s : State) : State :=
  let sub : Submitted := { packet := pk 0x010000000000012C (dcm 0) (dcm 0x400), slot := 0, core := 7 }
  s.modCluster 0 0 fun c => { c with copies := [(7, { sub, kind := 1, sf := 8, df := 8, total := 300, done })] }

theorem wit_CopyEngine_events :
    chk (
      let s := on 1 { toks := [(0, { count := 1 })] }
      let at_ := fun n => evt 0 7 0 0 0 (running n s)
      let q := fun (x : PktQueue) => evt 0 1023 0 0 0 (s.modDie 0 fun d => { d with cqs := [(1023, x)] })
      let zero := evt 0 7 0 0 0 (s.modCluster 0 0 fun c =>
        { c with copies := [(7, { sub := { packet := pk 0x0100000000000000 (dcm 0) (dcm 0x400), slot := 0, core := 7 }, kind := 1, sf := 8, df := 8, total := 0 })] })
      let stop : PktQueue := { cq0 with st := 3, cause := 5, rdix := 9, act := some 1 }
      let skip := { stop with act := some 2 }
      let stall := { cq0 with stall := 1048576 }
      [someB (namedRun (at_ 0)) (fun r => enginesRun ((at_ 0).ctx 0 0) && !wasKilled 0 r.sub.packet (at_ 0) && decide (r.done < r.total) &&
         r.watch.isNone && match runBeat (copyReader 0 0 r) (copyWriter 0 0 r 0) r (at_ 0) with | (none, (none, _), r2) => decide (r2.done = 256) | _ => false),
       did .copyBeat (at_ 0) (fun t => decide (((t.cluster 0 0).copies.map fun x => x.2.done) = [256])),
       did .copyBeat (at_ 256) (fun t => decide (((t.cluster 0 0).copies.map fun x => x.2.done) = [300])),
       someB (namedRun (at_ 300)) (fun r => decide (r.total ≤ r.done) && decide (r.total ≠ 0) && pushRoom 0 r (at_ 300)),
       did .copyRetire (at_ 300) (fun t => decide ((t.cluster 0 0).copies = [])),
       someB (namedRun zero) (fun r => pushRoom 0 r zero && okB (zeroCopy (copyAgent 0 0 r.sub) r zero) fun _ => true), did .copyRetire zero (fun _ => true),
       someB (namedQueue (q stop)) (fun x => decide (x.2.act = some 1)), did .copyQueueActRetry (q stop) (fun _ => true),
       someB (namedQueue (q skip)) (fun x => decide (x.2.act = some 2)), did .copyQueueActSkip (q skip) (fun _ => true),
       someB ((q stall).cq 0 1023) (fun x => stallDue ((q stall).die 0) x), did .queueStall (q stall) (fun _ => true)]) = true := by
  decide +kernel

/-! ### Scheduling -/

/-- A record whose local walk has two points on one level, with three permits. -/
def walk2 : Lnr := [2, 0, 0, BitVec.ofNat 64 (2 ^ 27 + 3 * 2 ^ 32)]

theorem wit_Headland :
    chk (
      let n := ww .none 0
      let i := ww .pred 2
      let p := ww .none 0 (ss 4)
      let start := on 0 { regs := [(4, 65535)], permits := 65535 } { lnr := walk2, pcnt := 3 }
      let last := on 0 { walk := 1, lc := [(0, 1)] } { lnr := walk2 }
      let dry := on 0 {} { lnr := walk2 }
      let lc := ww .scal 4 (vv 0) (vv 0) (vv 5)
      [issues Forms.nest n start, did (.nest n) start (fun t => decide (t.me.permits = 3)),
       issues Forms.iter i last, decide (nextLocal last.me last.myCore.lnr = none), did (.iter i) last (fun t => decide (t.me.walk = 2) && !t.me.pred 2),
       issues Forms.iter i start, decide (nextLocal start.me start.myCore.lnr = some 0), decide (1 ≤ start.me.permits),
       did (.iter i) start (fun t => t.me.pred 2), decide (nextLocal dry.me dry.myCore.lnr = some 0), decide (dry.me.permits = 0),
       !dry.cur.bundle, ends (.iter i) dry (.waited 5 0),
       issues Forms.permits p start, okB (capture Forms.permits asIs p start) (fun x => decide (fld (lo64 x.1.a) 0 16 ≤ start.me.permits)),
       did (.pwait p) start (fun _ => true), did (.pret p) start (fun t => decide (t.me.permits = 65535)),
       issues Forms.lcnt lc last, takes lc last, did (.lcnt lc) last (fun t => decide (t.me.sreg 4 = 0)),
       did (.lcnt { lc with c := vv 0 }) last (fun t => decide (t.me.sreg 4 = 1)), issues Forms.fsel (ww .none 0 (x := 0xF1)) last,
       did (.fsel (ww .none 0 (x := 0xF1))) last (fun t => decide (t.myCore.ftixNew = some 15)), issues Forms.fsel n last,
       did (.fsel n) last (fun t => decide (t.myCore.ftixNew = some 1))]) = true := by decide +kernel


/-- A context whose event bitmap starts at 0x4000 of die common, and is usable. -/
def events (ctx : Ctx := {}) : Ctx := { ctx with evcfg := 0xA0F3000000004000 }

theorem wit_Events :
    chk (
      let w := ww .none 0 (ss 4)
      let p := ww .pred 1 (ss 4)
      let s := on 1 { regs := [(4, 65535)] } {} (events)
      let up := s.putNum (keyDcm 0 (0x4000 + 8191)) 1 0x80
      let seen := on 1 { regs := [(4, 1)] } {} (events { evSeen := [(1, 1)] })
      let name := fun (k : Caps) => decide (1 ≤ (lo64 k.a).toNat) && decide ((lo64 k.a).toNat ≤ 65535)
      let turn := fun (n : Nat) (s1 : State) (q : State → Bool) => okB (serveEvent n s1) q
      let only := fun (n : Nat) (s : State) => s.modMyCtx fun c => c.waitOnly n (waiterNum s)
      [eventsOn s.myCtx, !foreignOut s,
       starts Forms.event w s (fun k s1 => name k && turn 65535 s1 fun u => okB (setEvent 0 0 65535 (release u)) fun _ => true),
       did (.evsig w) s (fun t => decide (memGet t.mem (keyDcm 0 (0x4000 + 8191)) = 0x80)),
       starts Forms.event w up (fun _ s1 => turn 65535 s1 fun u => okB (eventWrite (release u) 0 0 65535 false) fun _ => true),
       did (.evclr w) up (fun t => decide (memGet t.mem (keyDcm 0 (0x4000 + 8191)) = 0)),
       starts Forms.event w up (fun _ s1 => turn 65535 (only 65535 s1) fun u => okB (eventSet u 0 0 65535) fun x => x.1),
       !(up.myCtx.waitOnly 65535 1).evSeen.contains (65535, waiterNum up),
       did (.evwait w) up (fun t => decide (t.me.pc = 0x1008)), starts Forms.event w seen (fun k _ => name k), decide (waiterNum seen = 1),
       (seen.myCtx.waitOnly 1 1).evSeen.contains (1, waiterNum seen), did (.evwait w) seen (fun t => decide (t.myCtx.evSeen = [])),
       starts Forms.event w s (fun _ s1 => turn 65535 (only 65535 s1) fun u =>
         okB (eventSet u 0 0 65535) fun x => !x.1 && okB (addWaiter 0 0 (65535, 1, waiterNum s) x.2) fun _ => true),
       !(s.myCtx.evWait ++ s.myCtx.evRing).contains (65535, 1, waiterNum s), !s.cur.bundle, ends (.evwait w) s (.waited 10 0),
       starts Forms.eventTest p up (fun _ s1 => turn 65535 s1 fun u => okB (eventSet u 0 0 65535) fun x => x.1), did (.evwaitT p) up (fun t => t.me.pred 1),
       starts Forms.eventTest p s (fun _ s1 => turn 65535 s1 fun u => okB (eventSet u 0 0 65535) fun x => !x.1), did (.evwaitT p) s (fun t => !t.me.pred 1)]) = true := by
  decide +kernel

theorem wit_Events_bits :
    chk (
      let s := on 1 {} {} (events { evWait := [(1, 1, 9)] })
      let new := (on 1 {} {} (events { evStale := [0, 31] })).putNum (keyDcm 0 0x4005) 1 0xFF
      [Memory.wf s.mem, s.dies.all fun x => x.2.cqs.isEmpty && x.2.ctxs.all fun y => y.2.lq.isNone, !(s.ctx 0 0).evStale.contains 0,
       okB (eventWrite s 0 0 1 true) (fun t => decide (memGet t.mem (keyDcm 0 0x4000) = 2)), okB (eventWrite s 0 0 1 false) (fun _ => true),
       okB (setEvent 0 0 1 s) (fun t => decide (t.ctx 0 0).evWait.isEmpty && (t.ctx 0 0).evSeen.contains (1, 9)),
       Memory.wf new.mem, (new.ctx 0 0).evStale.contains (65535 / 2048) && (new.ctx 0 0).evStale.contains 0, okB (freshEvents 0 0 65535 new) (fun _ => true),
       okB (freshEvents 0 0 1 new) (fun t => decide (memGet t.mem (keyDcm 0 0x4005) = 0))]) = true := by decide +kernel

/-! ### Window handles

Whether an identity names a die of this package depends on the package number, an opaque constant (log 6): die 0 of package 0 is here
in package 0, and in another package elsewhere, where the field has it or not. -/

/-- Handle 1 of context 0: every right, context 0 of die 0 of package 0 with its key, at 0x4000 of die common. -/
def windowed (s : State) : State :=
  ((((s.modCtx 0 0 fun c => { c with regs := c.regs ++ [(0x01F, 0x0002F30000000020), (0x020, 0x1234)] }).putWord (keyDcm 0 0x2020)
    0xF800000000001234).putWord (keyDcm 0 0x2028) (dcm 0x4000)).putWord (keyDcm 0 0x2030) 0x1000)

/-- The die of an access is another. -/
abbrev WinAcc.at_ (x : WinAcc) (die : Nat) : WinAcc := { x with die }

/-- An access through handle 1 that passes its checks, apart from which die the identity of its entry is. -/
def winB (g : Agent) (a : Word) (o : Int) (n align right : Nat) (s : State) (p : WinAcc → State → Bool) : Bool :=
  let h := fld a 48 16
  decide (h ≠ 0) && decide (h < winCount (s.ctx g.die g.slot)) && okB (winEntry g h s) fun y =>
    let w0 := y.1.getD 0 0
    let off : Int := (fld a 0 48 : Int) + o
    let t := y.1.getD 1 0 + BitVec.ofInt 64 off
    winValid y.1 && bit w0 (62 - right) && decide (0 ≤ off) && decide (off + n ≤ (fld (y.1.getD 2 0) 0 48 : Int)) && decide (t.toNat % align = 0) &&
      decide (fld w0 42 13 = 0) && ((List.range 8).all fun d => !(y.2.die d).fenced) &&
      p { die := 0, slot := fld w0 55 4, key := w0.extractLsb' 0 32, va := t, handle := h } y.2

theorem dieOf_zero : dieOf 0 = if Config.pkgNumber = 0 then 0 else 8 := by
  unfold dieOf
  by_cases h : Config.pkgNumber = 0
  · simp [h]
  · have : Config.pkgNumber.toNat ≠ 0 := fun e => h (BitVec.eq_of_toNat_eq (by simpa using e))
    rw [if_neg (by simpa using Ne.symm this), if_neg h]

theorem winB_sound {g : Agent} {a : Word} {o : Int} {n align right : Nat} {s : State} {p : WinAcc → State → Bool}
    (h : winB g a o n align right s p = true) (hp : Config.pkgNumber = 0 ∨ Config.fieldHas 0 = true) :
    ∃ x s2, winCheck g a o n align right s = .ok (x, s2) ∧ x.die = dieOf 0 ∧ p (WinAcc.at_ x 0) s2 = true := by
  simp only [winB, Bool.and_eq_true, decide_eq_true_eq] at h
  obtain ⟨⟨h0, h1⟩, h⟩ := h
  obtain ⟨⟨e, s2⟩, he, h⟩ := okB_sound h
  simp only [Bool.and_eq_true, decide_eq_true_eq] at h
  obtain ⟨⟨⟨⟨⟨⟨⟨h2, h3⟩, h4⟩, h5⟩, h6⟩, h7⟩, h8⟩, h9⟩ := h
  have hf : unreachable s2 (dieOf (fld (e.getD 0 0) 42 13)) = false := by
    rw [h7, dieOf_zero]
    split
    · simpa [unreachable] using List.all_eq_true.1 h8 0 (by decide)
    · next hn => simp [unreachable, hp.resolve_left hn]
  refine ⟨{ die := dieOf (fld (e.getD 0 0) 42 13), slot := fld (e.getD 0 0) 55 4, key := (e.getD 0 0).extractLsb' 0 32,
            va := e.getD 1 0 + BitVec.ofInt 64 ((fld a 0 48 : Int) + o), handle := fld a 48 16 }, s2, ?_, by rw [h7], by simpa [WinAcc.at_, h7] using h9⟩
  have c1 : ¬ (fld a 48 16 = 0 ∨ winCount (s.ctx g.die g.slot) ≤ fld a 48 16) := by omega
  have c2 : ¬ (right ≠ 3 ∧ ((fld a 0 48 : Int) + o < 0 ∨ (fld (e.getD 2 0) 0 48 : Int) < (fld a 0 48 : Int) + o + n)) := by omega
  unfold winCheck
  simp only [c1, if_false, he, Bind.bind, Except.bind, h2, h3, hf, c2, h6, Bool.not_true, Bool.false_eq_true, ne_eq, not_true_eq_false,
    and_false]

/-- In package 0 the access is to die 0 of the package itself; in any other it leaves the package. -/
theorem winAcc_home {x : WinAcc} (hx : x.die = dieOf 0) : (Config.pkgNumber = 0 → WinAcc.at_ x 0 = x) ∧ (Config.pkgNumber ≠ 0 → 8 ≤ x.die) := by
  rw [dieOf_zero] at hx
  constructor
  · intro h
    cases x
    simp_all
  · intro h
    exact Nat.le_of_eq (hx.trans (if_neg h)).symm

theorem wit_Launches :
    chk (
      let q : PktQueue := { hdr := keyDcm 0 0x1000, log2n := 4 }
      let s := (on 1 { regs := [(4, 0), (5, dcm 0x100), (6, 0x0001000000000000)] } {} { lq := some q }).putNum (keyDcm 0 0x1000) 8 0x0000001000000000
      let full := s.putNum (keyDcm 0 0x1000) 8 0x0000001000000010
      let w := ww .scal 3 (ss 4) (ss 5)
      let nb := { w with x := 8 }
      let v := { w with a := ss 6 }
      let appends := fun (k : Caps) (s1 : State) => okB (loadPacket (lo64 k.b) s1) fun x =>
        (q.append (stampLaunch x.1 (release x.2)).1 (stampLaunch x.1 (release x.2)).2).isSome
      let asked := windowed s
      let back := s.modMe fun t => { t with pend := some { id := 1, dst := 8, answered := true, val := 7 } }
      [starts Forms.launch w s (fun k s1 => takes w s1 && decide (lo64 k.a = 0) && appends k s1), !foreignOut s, decide (s.myCtx.lq = some q),
       did (.launch w) s (fun t => decide (t.me.sreg 3 = 0)), starts Forms.launch nb full (fun k s1 => bit k.x 3 && !appends k s1),
       did (.launch nb) full (fun t => decide (t.me.sreg 3 = 0x8000000000000000)), ends (.launch w) full (.waited 10 0), !full.cur.bundle,
       starts Forms.launch v asked (fun k s1 => takes v s1 && decide (fld (lo64 k.a) 0 48 = 0) && decide (fld (lo64 k.a) 48 16 ≠ 0) &&
         winB s1.agent (lo64 k.a) 0 64 64 3 s1 fun x s2 => passes (keyCheck s2 x) && decide ((s1.ctx x.die x.slot).lq = some q) &&
           appends k s2 && decide ((s1.ctx x.die x.slot).brkRegs = [])),
       starts Forms.launch { v with x := 8 } (windowed full) (fun k s1 => winB s1.agent (lo64 k.a) 0 64 64 3 s1 fun x s2 =>
         passes (keyCheck s2 x) && !appends k s2),
       starts Forms.launch v asked (fun k s1 => takes v s1 && winB s1.agent (lo64 k.a) 0 64 64 3 s1 fun _ s2 => okB (loadPacket (lo64 k.b) s2) fun _ => true),
       asked.me.pend.isNone, starts Forms.launch v back (fun k _ => decide (fld (lo64 k.a) 0 48 = 0 ∧ fld (lo64 k.a) 48 16 ≠ 0)), !foreignOut back,
       someB back.me.pend (fun p => p.answered && decide (p.cause = 0 ∧ 8 ≤ p.dst)), did (.launch v) back (fun t => decide (t.me.sreg 3 = 7))]) = true := by decide +kernel

/-- A team descriptor of a limit at 0x4000 of die common: its generation and arrivals, size and next rank. -/
def teamAt (w0 w1 limit : Nat) (s : State) : State :=
  ((s.putNum (keyDcm 0 0x4000) 8 w0).putNum (keyDcm 0 0x4008) 8 w1).putNum (keyDcm 0 0x4018) 8 limit

/-- A member of the team at a generation. -/
def member (gen : BitVec 32) (arrived : Option (BitVec 32)) : TeamSlot := { valid := true, desc := dcm 0x4000, rank := 0, gen, arrived }

theorem wit_Teams :
    chk (
      let t0 : Strand := { regs := [(4, dcm 0x4000)] }
      let s := teamAt 0 0x200000001 2 (on 1 t0)
      let full := teamAt 0 0x200000002 2 (on 1 t0)
      let mem := fun (m : TeamSlot) (w0 : Nat) => teamAt w0 0x200000002 2 (on 1 { t0 with teams := [(3, m)] })
      let joined := mem (member 0 none) 0
      let last := mem (member 0 none) 1
      let ended := mem (member 0 (some 0)) 0x100000000
      let j := ww .scal 3 (ss 4) (x := 3)
      let tm := ww .none 0 (x := 3)
      let inf := fun n => ww .scal 3 (vv 0) (vv 0) (vv n) 3
      let reach := fun (s : State) (p : TeamDesc → State → Bool) => okB (teamOnce false (dcm 0x4000) s) fun x =>
        someB x.1.key fun k => okB (readTeam k x.2) fun d => p d x.2
      let ok := fun (s : State) => issues Forms.team tm s && tokens (fld tm.x 8 8) s && (s.me.team 3).valid && !foreignOut s
      [starts Forms.join j s (fun _ s1 => takes j s1 && reach (drainMine s1) fun d s2 => decide (d.nextr ≠ d.limit) &&
         okB (reachRank s.agent false (dcm 0x4000) d.nextr s2) fun _ => true), !(s.me.team 3).valid,
       did (.join j) s (fun t => decide (t.me.sreg 3 = 1) && (t.me.team 3).valid),
       starts Forms.join j full (fun _ s1 => reach (drainMine s1) fun d _ => decide (d.nextr = d.limit)),
       did (.join j) full (fun t => decide (t.me.sreg 3 = 0x8000000000000000)),
       ok joined, okB (teamOnce false (dcm 0x4000) (release joined)) (fun x => x.1.key.isSome &&
         okB (leaveTeam joined.agent (joined.me.team 3) x.2) fun _ => true), did (.leave tm) joined (fun t => !(t.me.team 3).valid),
       ok last, reach (release last) (fun d _ => decide (0 ≤ d.gen) && decide (d.gen < d.arrive.gen)), decide ((last.me.team 3).arrived = none),
       did (.tbar tm) last (fun t => decide ((t.me.team 3).gen = 1)), ok joined, reach (release joined) (fun d _ => decide (¬ d.gen < d.arrive.gen)),
       !joined.cur.bundle, ends (.tbar tm) joined (.waited 10 0), ok ended, reach (release ended) (fun d _ => decide (0 < d.gen)),
       did (.tbar tm) ended (fun t => decide ((t.me.team 3).gen = 1)),
       reach (behindHeld joined) (fun _ _ => true),
       [0, 1, 2, 3].all (fun n => issues Forms.tinfo (inf n) joined && takes (inf n) joined && did (.tinfo (inf n)) joined fun _ => true)]) = true := by
  decide +kernel

/-- A team of another package: what reaching it through handle 1 gives there, where the package number is not 0. -/
theorem wit_Teams_far :
    chk (
      let t0 : Strand := { regs := [(4, 0x0001000000000000)], teams := [(3, { member 0 none with handle := true, desc := 0x0001000000000000 })] }
      let s := windowed (on 1 t0)
      let back := on 1 { t0 with pend := some { id := 1, dst := 8, answered := true, val := 0x500000002 } }
      let tm := ww .none 0 (x := 3)
      let j := ww .scal 3 (ss 4) (x := 4)
      let inf := ww .scal 3 (vv 0) (vv 0) (vv 2) 3
      let there := fun (s : State) => issues Forms.team tm s && issues Forms.tinfo inf s && takes inf s && (s.me.team 3).valid && (s.me.team 3).handle && !foreignOut s
      [starts Forms.join j s (fun k s1 => takes j s1 && bit j.x 2 && !(s.me.team 0).valid && winB s1.agent (lo64 k.a) 0 64 64 2 (drainMine s1) fun _ _ => true),
       there s, s.me.pend.isNone, [release s, behindHeld s].all (fun u => winB s.agent (s.me.team 3).desc 0 64 64 2 u fun _ _ => true),
       starts Forms.join j back (fun _ _ => !(back.me.team 0).valid), there back, someB back.me.pend (fun p => p.answered && decide (p.cause = 0)),
       did (.join j) back (fun t => decide (t.me.sreg 3 = 2 ∧ (t.me.team 0).gen = 5)), did (.leave tm) back (fun t => !(t.me.team 3).valid),
       did (.tbar tm) back (fun t => decide ((t.me.team 3).gen = 5)), did (.tinfo inf) back (fun t => decide (t.me.sreg 3 = 2))]) = true := by decide +kernel

theorem reachTeam_far {g : Agent} {a : Word} {n : Nat} {s s2 : State} {x : WinAcc} (h : winCheck g a 0 n n 2 s = .ok (x, s2)) (hx : 8 ≤ x.die) :
    ∃ tm, reachTeam g true a 0 n s = .ok (tm, s2) ∧ tm.key = none := by
  refine ⟨{ key := none, die := x.die, va := x.va }, ?_, rfl⟩
  simp [reachTeam, h, hx, Bind.bind, Except.bind]



/-- A record that a task may have: two points, three permits, at 0x400 of die common. -/
def lnrAt (s : State) : State :=
  (((s.putWord (keyDcm 0 0x400) 2).putWord (keyDcm 0 0x418) (BitVec.ofNat 64 (2 ^ 27 + 3 * 2 ^ 32))).putWord (keyDcm 0 0x438)
    0x7777777777777777).putWord (keyDcm 0 0x440) 0x7777777777777777

/-- The packet in hand stands in the launch queue of context 0. -/
def queued (s : State) : State :=
  { s with cur := { s.cur with sub := some { packet := packet0, slot := 0, core := 0, index := 3 } } }

theorem wit_LaunchQueues_packets :
    chk (
      let s := queued ((lnrAt (on 1 {} {} (events { lq := some { hdr := keyDcm 0 0x1000, log2n := 4, rdix := 3 } }) { rings })))
      let at_ := fun (p : Packet) => held { p with w4 := dcm 0xC00 } s
      let turn := fun (s : State) (q : State → Bool) => okB (serve 0 (thingLaunch 0) 2 s) q
      let st := fun (stat : Nat) (cause : BitVec 8) (s : State) => turn s fun s1 => okB (launchStatus (launchIn s) stat cause 0 s1) fun _ => true
      let noop := at_ packet0
      let task := at_ { (pk 0x1000000100000000 (dcm 0x400) 5) with w3 := 9 }
      let free := at_ (pk 0x1000000000000000 (dcm 0x400) 0)
      let half := task.modDie 0 fun d => { d with tasks := [{ num := 4, slot := 0, lnr := [], ftab := [], arg := 0, deps := [5], unseen := [5] }] }
      let strm := at_ { (pk 0x2F00000000000000 (dcm 0x600) 0) with w1 := dcm 0x600 }
      let busy := strm.modDie 0 fun d => { d with streams := [(15, { busy := true })] }
      let closing := noop.modCtx 0 0 fun c => { c with state := 7 }
      let bad := at_ (pk 1 0 0)
      let open_ := fun (k : Nat) (s : State) => decide ((s.ctx 0 0).state ≠ 7) && launchOk (launchIn s).p && decide (launchKind (launchIn s).p = k)
      let entered := fun (deps : List Nat) (s : State) => open_ 1 s && turn s fun s1 => (halfTaken (launchIn s) s1).isNone &&
        decide (launchDeps (launchIn s).p = deps) && okB (launchRecord (launchIn s) s1) fun y =>
          okB y.1 (fun _ => true) && okB (launchStatus (launchIn s) 0x01 0 1 y.2) fun _ => true
      [open_ 0 noop, st 0x01 0 noop, did .launchPacketNoop noop (fun t => decide (t.verdict = .performed)),
       entered [5] task, did .launchPacketTask task (fun t => decide (((t.die 0).tasks.map fun x => (x.num, x.arg, x.total)) = [(1, 9, 1)])),
       entered [] free, did .launchPacketTask free (fun t => decide (((t.die 0).tasks.map Task.ready) = [some 0])),
       open_ 1 half, turn half fun s1 => someB (halfTaken (launchIn half) s1) fun y => okB (observeDeps (launchIn half) y.num y.unseen s1) fun _ => true,
       did .launchPacketTask half (fun t => decide (((t.die 0).tasks.map Task.unseen) = [[]])),
       open_ 2 strm, st 0x01 0 strm, !(strm.strm 0 15).busy, did .launchPacketStream strm (fun t => (t.strm 0 15).busy),
       open_ 2 busy, st 0x83 0 busy, (busy.strm 0 15).busy, did .launchPacketStream busy (fun _ => true),
       decide ((closing.ctx 0 0).state = 7), st 0x80 0 closing, did .launchPacketTask closing (fun _ => true),
       decide ((bad.ctx 0 0).state ≠ 7), !launchOk (launchIn bad).p, (launchIn bad).stream.isNone, st 0x81 cReservedField bad,
       did .launchPacketTask bad (fun t => decide (t.verdict = .performed))]) = true := by decide +kernel

/-- A command-list entry of stream 3 in hand. -/
def entry (w0 w1 : Word) (s : State) : State :=
  { s with hand := { entry := { w0, w1 } }, cur := { s.cur with unit := 3 } }

theorem wit_LaunchQueues_streams :
    chk (
      let s0 := ((lnrAt (on 1 {} {} (events {}) { rings, streams := [(3, { busy := true, next := dcm 0x600 })] })).putWord (keyDcm 0 0x2000)
        0x1000000000000000).putWord (keyDcm 0 0x2008) (dcm 0x400)
      let s := s0.putNum (keyDcm 0 0x2040) 8 0x100000007
      let plain := fun (s : State) => (s.strm 0 3).busy && decide (fld s.hand.entry.w0 32 24 = 0 ∧ s.hand.entry.w1 = 0)
      let ev := entry 0x0F00000000000005 0 s
      let up := ev.putNum (keyDcm 0 0x4000) 1 0x20
      let turn := fun (s : State) (q : State → Bool) => okB (serve 0 (thingEvent 0 5) (rankEngine 3) s) q
      let event := fun (s : State) => plain s && decide (fld s.hand.entry.w0 16 16 = 0 ∧ 1 ≤ fld s.hand.entry.w0 0 16) && eventsOn (s.ctx 0 0)
      let la := entry 0 (dcm 0x2000) s
      let skip := fun (w0 : Word) (n : Nat) (jumps : Bool) =>
        let t := entry w0 (dcm 0x2040) s
        decide (fld w0 32 24 = 0 ∧ fld w0 57 3 ≤ 5) && okB (ctxLoad 0 0 (dcm 0x2040) n n t) (fun _ => true) &&
          did .streamSkip t fun t => decide ((t.strm 0 3).next = (if jumps then dcm 0x620 else dcm 0x610))
      let go := entry 0 (dcm 0x700) s
      let deep := entry 0 0 (modStrm 0 3 (fun t => { t with stack := [dcm 0x900] }) s)
      let full := modStrm 0 3 (fun t => { t with stack := [1, 2, 3].map dcm }) go
      let res := entry (1 <<< 55) 0 s
      let goes := fun (a : Nat) (t : State) => decide ((t.strm 0 3).next = dcm a)
      [plain (entry 0 0 s), did .streamEnd (entry 0 0 s) (fun t => !(t.strm 0 3).busy),
       okB (ctxLoad 0 0 (dcm 0x2000) 64 64 la) (fun x =>
         let p := packetOf (wordsOfBytes x.1)
         decide (launchKind p = 1) && okB (takePacket { die := 0, slot := 0, idx := 2 ^ 31 + 3, va := dcm 0x2000, queue := false, stream := some 3, p } x.2)
           fun r => decide (r.1 = .done)),
       did .streamLaunch la (goes 0x610), event up, turn up (fun s1 => okB (eventSet s1 0 0 5) fun x => x.1), did .streamWait up (goes 0x610),
       event ev, turn ev (fun s1 => okB (eventSet s1 0 0 5) fun x => !x.1 && okB (addWaiter 0 0 (5, 2, 3) (modStrm 0 3 (fun t => { t with next := t.next + 16 }) x.2))
         fun _ => true), did .streamWait ev (fun t => decide ((t.strm 0 3).waitEv = some 5)),
       turn ev (fun s1 => okB (setEvent 0 0 5 (modStrm 0 3 (fun t => { t with next := t.next + 16 }) s1)) fun _ => true), did .streamSig ev (goes 0x610),
       skip 7 4 true, skip 0x0100000000000007 8 false, skip 0x0B00000000000007 8 true, skip 0x0500000000000007 8 false,
       did .streamJump go (goes 0x700), decide ((full.strm 0 3).stack.length < 4), did .streamCall full (fun t => decide ((t.strm 0 3).stack.length = 4)),
       plain deep, did .streamRet deep (goes 0x900), (s.die 0).tasks.isEmpty, did .streamFence (entry 0 0 s) (goes 0x610),
       decide (fld res.hand.entry.w0 32 24 ≠ 0), did .streamJump res (fun t => !(t.strm 0 3).busy)]) = true := by decide +kernel


theorem wit_RemoteAccess_loads :
    chk (
      let r : Tab Word := [(4, 0x0001000000000000), (5, 0xF80), (6, 8)]
      let s := windowed (on 1 { regs := r } { qmap := [(0, 0x12)] })
      let back := s.modMe fun t => { t with pend := some { id := 1, answered := true, val := 7, entry := some (0, 0) } }
      let w := ww .scal 3 (ss 4) (ss 5) (x := 4)
      let v := ww .vec 32 (ss 4) (ss 5)
      let at_ := ww .scal 3 (ss 4) (ss 6)
      let fadd := { ww .scal 3 (ss 4) (ll 49) (vv 7) 0x10 with d := 3 }
      let cas := { at_ with c := ss 5 }
      let wide := fun (f : Form) (w : StrandWord) (n : Nat) => starts f w s fun k s1 => takes w s1 &&
        winB s1.agent (lo64 k.a) (lo64 k.b).toInt n n 0 s1 fun _ _ => true
      let amo := fun (w : StrandWord) (n : Nat) => issues Forms.ratom w s && decide (w.dk ≠ .none) &&
        okB (capture { Forms.ratom with b := if atomIsFp w.c.idx.toNat then .sf else .s } (fun _ => atomLit (fld (Forms.ratom.effX w) 4 4)) w s) fun x =>
          winB x.2.agent (lo64 x.1.a) 0 n n 2 x.2 fun _ _ => true
      let lands := fun (i : Instr) (v : Nat) => did i back fun t => decide (t.me.sreg 3 = BitVec.ofNat 64 v)
      [someB back.me.pend fun p => p.answered && decide (p.cause = 0), s.me.pend.isNone, !s.cur.bundle, !foreignOut s, !foreignOut back,
       wide Forms.rld w 8, lands (.rld w) 7, wide Forms.rldv v 128, starts Forms.rldv v back (fun _ s1 => decide (destQueue v = some 0 ∧ s1.myCore.consumer 0 ≠ 6)),
       did (.rldv v) back (fun t => decide (t.me.pend = none)), amo at_ 8, lands (.ratom at_) 7, amo { at_ with c := vv 9 } 8, lands (.ratom { at_ with c := vv 9 }) 7,
       amo fadd 4, lands (.ratom fadd) 7, starts Forms.rcas cas s (fun k s1 => winB s1.agent (lo64 k.a) 0 8 8 2 s1 fun _ _ => true), lands (.rcas cas) 7]) = true := by
  decide +kernel

theorem wit_RemoteAccess_stores :
    chk (
      let r : Tab Word := [(4, 0x0001000000000000), (5, 0xF80), (6, 8)]
      let q : Core := { qmap := [(1, 0x21)], queues := [(1, { ents := [{ val := some 0 }], nextId := 1 })] }
      let at_ := fun (t : Strand) => windowed (on 1 { t with regs := r } q {} { cyc := 5 })
      let ask := at_ {}
      let s := at_ { checks := [1, 2].map fun right => { handle := 1, range := 0xFFF300000000, right } }
      let back := at_ { pend := some { id := 1, answered := true } }
      let w := ww .none 0 (ss 4) (ss 5) (ss 6)
      let vec := { w with c := vv 33 }
      let may := fun (s : State) => unhindered s && !foreignOut s
      let ok := fun (right : Nat) (x : WinAcc) => s.me.checked x right && !ask.me.checked x right
      let stored := fun (f : Form) (w : StrandWord) (n : Nat) => [s, ask].all fun s => starts f w s fun k s1 =>
        winB s1.agent (lo64 k.a) (lo64 k.b).toInt n n 1 s1 fun x _ => ok 1 x
      let atom := fun (w : StrandWord) => [s, ask].all fun s => decide (w.dk = .none) && issues Forms.ratom w s &&
        okB (capture { Forms.ratom with b := .s } (fun _ => 1) w s) fun x => winB x.2.agent (lo64 x.1.a) 0 8 8 2 x.2 fun x _ => ok 2 x
      let posts := fun (i : Instr) => did i back fun t => decide (t.net.length = 1 ∧ t.me.pend = none)
      [may s, may ask, may back, s.me.pend.isNone, someB back.me.pend (fun p => p.answered && decide (p.cause = 0)),
       stored Forms.rst w 8, stored Forms.rst { w with x := 8 } 8, stored Forms.rstv vec 128, posts (.rst w), posts (.rst { w with x := 8 }), did (.rstv vec) back (fun t => decide (t.net.length = 2)),
       atom { w with c := vv 0 }, atom { w with c := vv 9 }, posts (.ratom { w with c := vv 0 }), posts (.ratom { w with c := vv 0, x := 8 }),
       [s, ask].all (fun s => starts Forms.rcas w s fun k s1 => winB s1.agent (lo64 k.a) 0 8 8 2 s1 fun x _ => ok 2 x), posts (.rcas { w with x := 12 })]) = true := by
  decide +kernel

theorem wit_RemoteAccess_window :
    chk (
      let s := windowed (on 1 { regs := [(4, 0x0001000000000000), (5, 0), (6, 0x0020000000000000)], held := [{ key := keyDcm 0 0x200, bytes := [some 1] }] })
      let w := ww .none 0
      let out := send .access 0 8 (0 :: 1 :: accessWords { die := 8, slot := 0, key := 0, va := 0, handle := 1 } accStore 8 1 0 0 0) [] s
      let q := ww .scal 3 (ss 4)
      let entryB := fun (k : Caps) (s1 : State) => decide (fld (lo64 k.a) 48 16 = 1 ∧ 1 < winCount s.myCtx) && okB (winEntry s1.agent 1 s1) fun e => winValid e.1
      [starts Forms.rflush { w with a := ss 4 } s (fun k s1 => decide (fld (lo64 k.a) 0 48 = 0) && entryB k s1), !handleOut 1 s,
       did (.rflush { w with a := ss 4 }) s (fun t => decide (t.me.held.length = 1)),
       starts Forms.rflush { w with a := ss 5 } s (fun k _ => decide (lo64 k.a = 0)), !handleOut 0 s, did (.rflush { w with a := ss 5 }) s (fun _ => true),
       starts Forms.rflush { w with a := ss 5 } out (fun k _ => decide (lo64 k.a = 0)), handleOut 0 out, !out.cur.bundle, ends (.rflush { w with a := ss 5 }) out (.waited 10 0),
       starts Forms.winq q s (fun k s1 => takes q s1 && entryB k s1), did (.winq q) s (fun t => decide (t.me.sreg 3 = 0xF800000000000000)),
       did (.winq { q with c := vv 2 }) s (fun t => decide (t.me.sreg 3 = 0x1000)), starts Forms.winq { q with a := ss 5 } s (fun k _ => decide (lo64 k.a = 0)),
       did (.winq { q with a := ss 5 }) s (fun t => decide (t.me.sreg 3 = 0)),
       starts Forms.winq { q with a := ss 6 } s (fun k _ => decide (winCount s.myCtx ≤ fld (lo64 k.a) 48 16)),
       did (.winq { q with a := ss 6 }) s (fun t => decide (t.me.sreg 3 = 0))]) = true := by decide +kernel

/-- A post, and a message of the same team, tag and rank. -/
def post (id st : Nat) : Post := { id, st, team := BitVec.ofNat 64 (keyDcm 0 0x4000), pat := 0, wmask := 0, tlr := [dcm 0x800, 0x801, 16, 0, 0, 0, 16], maxlen := 64, eoff := 0, flag := 0 }
def msg (len : Nat) : Msg := { team := BitVec.ofNat 64 (keyDcm 0 0x4000), rank := 0, tag := 0, len, srcDie := 0, srcSlot := 0, srcAddr := 0, srcFlag := 0 }

theorem wit_Messages_send :
    chk (
      let c : Ctx := { rxcfg := setFld 0 48 16 0x8010 }
      let s := (recordAt (keyDcm 0 0x400) (teamAt 0 0x200000002 2 (on 1 { regs := [(4, 0x0000000501000001), (5, dcm 0x800), (6, 16), (7, dcm 0x200), (8, 127)], teams := [(3, member 0 none)] } {}
        c))).putWord (keyDcm 0 0x4048) 1 |>.putWord (keyDcm 0 0x210) (dcm 0x400)
      let long := s.modMe fun t => { t with regs := (6, 0xFFFF) :: t.regs }
      let w := ww .none 0 (ss 4) (ss 5) (ss 6) 3
      let p := ww .scal 2 (ss 7) (ss 8) (x := 3)
      let on := fun (s : State) => (s.me.team 3).valid && bit s.myCtx.rxcfg 63
      let send := fun (s : State) => starts Forms.msend w s fun k s1 => !bit (lo64 k.a) 31 && decide ((lo64 k.c).toNat < 2 ^ 24) && on s && !foreignOut s &&
        okB (sourceBytes (lo64 k.b) (lo64 k.c).toNat (release s1)) fun x => okB (memberOf 3 (fld (lo64 k.a) 0 24) x.2) fun y => y.1.key.isSome
      let back := fun (s : State) => s.modMe fun t => { t with pend := some { id := 1, answered := true } }
      [send s, send (back s), send long, s.me.pend.isNone, did (.msend w) (back s) (fun t => decide (t.myCtx.flagAdds = [(1, 1, 1)])),
       starts Forms.mpost p s (fun k s1 => takes p s1 && on s && decide ((lo64 k.b).toNat ≤ 127) && okB (teamOf 3 s1) fun x =>
         okB (load (lo64 k.a) 32 (multiple 32 (lo64 k.a)) false false x.2) fun y =>
           let d := wordsOfBytes y.1
           okB (load (d.getD 2 0) 96 (multiple 128 (d.getD 2 0)) false false y.2) fun z =>
             okB (makePost d (tlrResolve (capturedFmt s) (wordsOfBytes z.1)) x.1.ident 127) fun p => decide (Tab.get 0 (s.die 0).served thingRxe ≤ 8 + s.rank) && quotaLeft c && decide (c.posts.length < 16384) && (c.unexp.find? fun m => p.matchesKey m.team m.tag m.rank).isNone),
       did (.mpost p) s (fun _ => true)]) = true := by decide +kernel

theorem wit_Messages_queries :
    chk (
      let c : Ctx := { rxcfg := setFld 0 48 16 0x8010, posts := [post 3 0, post 5 1, post 7 2], unexp := [msg 9], comps := [{ post := 7, w0 := 8, w1 := 9 }], refused := 4 }
      let s := teamAt 0 0x200000002 2 (on 1 { regs := [(4, dcm 0x200), (5, 3), (6, 5), (7, 7), (8, BitVec.allOnes 64)], teams := [(3, member 0 none)] }
        { qmap := [(8, 0x12)] } c)
      let w := fun n => ww .scal 2 (ss n)
      let q := { w 4 with d := 40, x := 3 }
      let none_ := s.modCtx 0 0 fun c => { c with unexp := [], comps := [] }
      let many := fun (w : StrandWord) (s : State) => (destQueue w).all fun q => decide (2 ≤ (s.myCore.queue q).room q s.cyc) && (s.myCore.queue q).ents.isEmpty
      let probe := fun (w : StrandWord) (s : State) => starts Forms.mprobe w s fun k s1 => many w s1 && okB (teamOf 3 s1) fun x =>
        okB (load (lo64 k.a) 16 (multiple 16 (lo64 k.a)) false false x.2) fun _ => true
      let comp := fun (w : StrandWord) (s : State) => starts Forms.mcomp w s fun k s1 => many w s1 && bit s.myCtx.rxcfg 63 &&
        (decide (lo64 k.a = BitVec.allOnes 64) || (s.myCtx.post (lo64 k.a).toNat).isSome)
      let found := fun (any : Bool) (n : Nat) (c : Ctx) => c.comps.find? fun e => any || decide (e.post = n)
      let nb := { w 8 with x := 4 }
      let sel := fun n => ww .scal 2 (vv 0) (vv 0) (vv n)
      [!foreignOut s, decide (Tab.get 0 (s.die 0).served thingRxe ≤ 8 + s.rank), decide (destQueue q = some 8), probe { w 4 with x := 3 } s, did (.mprobe { w 4 with x := 3 }) s (fun t => decide (t.me.sreg 2 = 0x900000000)),
       probe q s, did (.mprobe q) s (fun t => decide ((t.myCore.queue 8).ents.length = 2)), did (.mprobe { w 4 with x := 3 }) none_ (fun t => decide (t.me.sreg 2 = 0xF000000000000000)),
       starts Forms.mcancel (w 5) s (fun k s1 => takes (w 5) s1 && bit s.myCtx.rxcfg 63 && someB (s.myCtx.post (lo64 k.a).toNat) fun p => decide (p.st = 0)),
       did (.mcancel (w 5)) s (fun t => decide (t.me.sreg 2 = 1)),
       starts Forms.mcancel (w 6) s (fun k _ => someB (s.myCtx.post (lo64 k.a).toNat) fun p => decide (p.st ≠ 0)), did (.mcancel (w 6)) s (fun t => decide (t.me.sreg 2 = 0)),
       comp (w 7) s, (found false 7 s.myCtx).isSome, did (.mcomp (w 7)) s (fun t => decide (t.me.sreg 2 = 8)),
       comp nb s, (found true 0 s.myCtx).isSome, did (.mcomp nb) s (fun t => t.myCtx.comps.isEmpty), comp nb none_, (found true 0 none_.myCtx).isNone,
       did (.mcomp nb) none_ (fun t => decide (t.me.sreg 2 = 0xF000000000000000)),
       (List.range 4).all (fun n => issues Forms.mqry (sel n) s && takes (sel n) s && did (.mqry (sel n)) s fun t => decide (t.me.sreg 2 = [1, 1, 0, 4].getD n 0))]) = true := by
  decide +kernel


/-- A handle of the first slot of a station: its operation and the number of its contributors less one. -/
def handle (stn cop fsel cntm1 : Nat) : Word := BitVec.ofNat 64 (stn * 2 ^ 49 + cop * 2 ^ 37 + fsel * 2 ^ 35 + cntm1 * 2 ^ 29)

theorem wit_Collectives_strand :
    chk (
      let d := fun (stn : Nat) => BitVec.ofNat 64 (stn * 2 ^ 17 + 7 * 2 ^ 14 + 2 ^ 6)
      let base := fun (h : Word) (b : Word) => teamAt 0 0x200000002 2 (on 1 { regs := [(4, dcm 0x200), (5, h), (6, b), (7, dcm 0x400)], teams := [(3, member 0 none)],
                                                                              held := [{ key := keyDcm 0 0x700, bytes := [some 1] }] })
      let s := fun (stn : Nat) => (base 0 0).putWord (keyDcm 0 0x200) (d stn)
      let back := fun (s : State) => s.modMe fun t => { t with pend := some { id := 1, answered := true, val := 9 } }
      let w := ww .scal 2 (ss 4) (x := 3)
      let slot := fun (stn : Nat) (s : State) => starts Forms.cslot w s fun k s1 => takes w s1 && (s.me.team 3).valid &&
        okB (load (lo64 k.a) 32 (multiple 32 (lo64 k.a)) false false s1) fun x =>
          let v := wordsOfBytes x.1
          decide (v = [d stn, 0, 0, 0]) && !bit (d stn) 0 && decide (fld (d stn) 17 15 = stn ∧ fld (d stn) 14 3 = 7 ∧ fld (d stn) 6 6 = 1 ∧ fld (d stn) 1 5 = 0) &&
            okB (reachTeam s.agent false (dcm 0x4000) 0 64 x.2) fun _ => true
      let con := ww .none 0 (ss 5) (ss 6) (ss 7)
      let gives := fun (h b : Word) (cops : List Nat) (reads : Bool) => starts Forms.contribute con (base h b) fun k s1 => !foreignOut (base h b) &&
        okB (locateIf s1 s1.agent (lo64 k.c) 80 (multiple 128 (lo64 k.c)) .wr false) fun f =>
          handleOk h (fld b 0 6) cops && (!reads || okB (contribData k (keepFound s1 s1.agent (lo64 k.c) f false)) fun _ => true)
      let sent := fun (i : Instr) (h b : Word) => did i (base h b) fun t => t.me.held.isEmpty && decide (t.net.length = 1)
      let free := ww .none 0 (ss 5) (ss 6)
      let q := ww .scal 2 (ss 5)
      let bar := handle 0x4000 7 0 63
      [slot 0x4100 (s 0x4100), decide ((station 0x4100).map Prod.fst = some 65792), slot 0x4100 (back (s 0x4100)),
       did (.cslot w) (back (s 0x4100)) (fun t => decide (t.me.sreg 2 = 9)), slot 0x2001 (s 0x2001), (station 0x2001).isNone,
       did (.cslot w) (s 0x2001) (fun t => decide (t.me.sreg 2 = 0x8000000000000004)),
       gives (handle 0x4000 0 0 1) (dcm 0x801) [0, 1, 2, 3, 4, 5] true, sent (.cred con) (handle 0x4000 0 0 1) (dcm 0x801),
       gives (handle 0x4000 6 1 1) (dcm 0x800) [6] true, sent (.cbcast con) (handle 0x4000 6 1 1) (dcm 0x800),
       gives (handle 0x4000 6 1 1) 1 [6] false, sent (.cbcast con) (handle 0x4000 6 1 1) 1, gives bar 63 [7] false, sent (.cbar con) bar 63,
       starts Forms.cfree free (base bar 63) (fun _ _ => handleOk bar 63 anyCop), did (.cfree free) (back (base bar 63)) (fun t => t.me.pend.isNone),
       (List.range 3).all (fun n => starts Forms.cqry { q with c := vv (BitVec.ofNat 6 n) } (base bar 0) (fun _ s1 => handleOk bar 0 anyCop && takes q s1) &&
         starts Forms.cqry { q with c := vv (BitVec.ofNat 6 n) } (base (handle 0 7 0 0) 0) fun _ _ => handleOk (handle 0 7 0 0) 0 anyCop),
       decide (((station (hStn bar)).map Prod.fst).getD (2 ^ 17) = 65536), did (.cqry q) (back (base bar 0)) (fun t => decide (t.me.sreg 2 = 9))]) = true := by
  decide +kernel

/-- A far station that the field has can be reached. -/
theorem wit_Collectives_reach (s : State) (h : Config.fieldHas 65784 = true) : unreachable s 65792 = false := by simp [unreachable, h]

/-- The station of a handle of selector 0 is die 0 in package 0. -/
theorem wit_Collectives_station : (station (hStn (handle 0 7 0 0))).map Prod.fst = some (if Config.pkgNumber = 0 then 0 else 8) := by
  have : hStn (handle 0 7 0 0) = 0 := by decide
  rw [this]
  simpa [station] using dieOf_zero

/-- A slot that has arrived at die 0. -/
def arrived (kind : SlotKind) (words : List Word) (data : List Byte) (s : State) : State :=
  evt 0 0 0 0 0 (s.modDie 0 fun d => { d with inbox := [{ id := 1, kind, src := 1, dst := 0, words, data }] })

theorem wit_Collectives_stations :
    chk (
      let s := on 1 {} {} {} { ftime := 1000 }
      let h := handle 0 7 0 1
      let con := arrived .contrib [0, 1, 0, h, 1, 0, 0] [] s
      let slot := fun (x : RSlot) (s : State) => s.modDie 0 fun d => { d with slots := [(0, { x with cop := 7, cntm1 := 1 })] }
      let got := fun (s : State) => (takeInbox 0 .contrib s).isSome && did .contributionArrival s fun _ => true
      let now := fun (n : Word) (s : State) => s.modDie 0 fun d => { d with ftime := n }
      let one := slot { state := 1, dl := 2000, contribs := [(0, { die := 0, slot := 0, addr := 0, flag := 0, handle := 0 })] } con
      let two := slot { state := 1, dl := 2000, contribs := [(1, { die := 0, slot := 0, addr := 0, flag := 0, handle := 0 })] } con
      let at_ := evt 0 0 0 0 0
      let done := slot { state := 2, dl := 2000, freed := [0] } s
      let req := arrived .slotReq [0, 0, 0, 0, 5, 6, 0, h, 2000] [] s
      let free := fun (x : RSlot) => slot x (arrived .free [0, 0, 0, h, 1] [] s)
      let del := arrived .deliver [0, 1, 0, dcm 0x400, 5, h, 7, 8] (List.replicate 64 1) (on 1 {} {} { lcause := 0 } { rings })
      let held := del.modCtx 0 0 fun c => { c with state := 2 }
      let gone := del.modCtx 0 0 fun c => { c with state := 0 }
      let freed := fun (s : State) => s.modDie 0 fun d => { d with slots := [(0, { (Tab.get {} d.slots 0) with freed := [0, 1] })] }
      let kept := gone.modCtx 0 0 fun c => { c with evict := true }
      [someB (takeInbox 0 .slotReq req) (fun x => okB (stationServe 0 0 x.1 x.2) fun _ => true), did .cslotAtStation req (fun t => decide ((t.rslot 0 0).state = 1)),
       got con, decide ((con.rslot 0 0).state = 0), got (slot { state := 2, dl := 2000 } con), got (slot { state := 1, dl := 1000 } con),
       got two, got (slot { state := 1, dl := 1001 } con), did .contributionArrival (slot { state := 1, dl := 1001 } con) (fun t => decide ((t.rslot 0 0).contribs.length = 1)),
       got one, did .contributionArrival one (fun t => decide ((t.rslot 0 0).state = 2)),
       did .contributionArrival (freed one) (fun t => decide ((t.rslot 0 0).state = 0)),
       did .slotDeadline (at_ (freed (slot { state := 1, dl := 1000 } s))) (fun t => decide ((t.rslot 0 0).state = 0)),
       did .slotDeadline (at_ (slot { state := 1, dl := 1000 } s)) (fun t => (t.rslot 0 0).partial_),
       did .slotFreeTimeout (at_ (now 1002000 done)) (fun t => decide ((t.rslot 0 0).state = 0)),
       (takeInbox 0 .free (free {})).isSome, did .cfreeAtStation (free {}) (fun _ => true),
       did .cfreeAtStation (free { state := 2, freed := [0] }) (fun t => decide ((t.rslot 0 0).state = 0)),
       (takeInbox 0 .deliver del).isSome, enginesRun (del.ctx 0 0), decide ((del.ctx 0 0).state ≠ 0), decide ((del.ctx 0 0).heldReplies = []),
       did .collectiveDelivery del (fun t => decide (memGet t.mem (keyDcm 0 0x440) = 7)), (takeInbox 0 .deliver held).isSome, !enginesRun (held.ctx 0 0),
       did .collectiveDelivery held (fun t => decide ((t.ctx 0 0).heldReplies.length = 1)), (takeInbox 0 .deliver gone).isSome,
       did .collectiveDelivery gone (fun _ => true),
       did .collectiveDelivery kept (fun t => decide ((t.ctx 0 0).heldReplies.length = 1))]) = true := by decide +kernel

theorem wit_ReceiveEngine :
    chk (
      let c : Ctx := { rxcfg := setFld 0 48 16 0x8010 }
      let team := BitVec.ofNat 64 (keyDcm 0 0x4000)
      let head := arrived .header [0, 0, 0, team, 0, 0, 5, 0, 0, 0] [1, 2, 3, 4, 5] (on 1 {} {} c)
      let off := head.modCtx 0 0 fun c => { c with rxcfg := 0 }
      let m := { msg 5000 with srcAddr := dcm 0x10000 }
      let matched := { c with posts := [{ post 3 1 with maxlen := 5000 }], pulls := [(3, m)] }
      let pull := evt 0 0 0 0 0 (on 1 {} {} matched { rings })
      let asked := arrived .pull [0, 3, 0, 0, dcm 0x100, 7, 300] [] (on 1)
      let back := arrived .pulled [0, 3, 0, 0, 0] [1, 2, 3, 4, 5, 6, 7, 8] (on 1 {} {} { matched with pulls := [], pulling := [(3, msg 8)] } { rings })
      let cfg := fun (a : Word) => evt 0 0 a 0 0 (on 1 {} {} { c with posts := [post 3 0] })
      let s := (recordAt (keyDcm 0 0x400) (on 1 {} {} { c with posts := [post 3 0] } { rings })).putWord (keyDcm 0 0x210) (dcm 0x400)
      let at_ := fun (cmd : EngineCmd) => { s with hand := { cmd }, cur := { unit := 4 } }
      let x0 : EngineCmd := { wt := 0, sg := 5, opnd := 0, w1 := 0, w2 := 0, w3 := 0 }
      let posts := fun (w3 : Word) =>
        let t := at_ { x0 with w1 := dcm 0x4000, w2 := dcm 0x200, w3, opnd := 127 }
        let g := engineAgent 0 0
        okB (reachTeam g false (dcm 0x4000) 0 64 t) (fun a => okB (readPiece g (dcm 0x200) 32 a.2) fun b => okB (readTlr 0 g ((wordsOfBytes b.1).getD 2 0) b.2) fun r =>
          okB (makePost (wordsOfBytes b.1) r.1 a.1.ident 127) (fun _ => true) && (decide (w3 = 0) || okB (locate r.2 g w3 8 8 .wr false) fun _ => true) &&
            okB (rxeServe 0 (rankEngine (ringHere t)) r.2) fun u =>
              decide (w3 = 0) || okB (writePiece (rxeWriter 0 0) w3 ((toBytes 8 0).map some) u.takeFree.2) fun _ => true) &&
          did .xpost { t with mem := t.mem } fun _ => true
      let can := at_ { x0 with opnd := 3 }
      let headed := fun (s : State) => someB (takeInbox 0 .header s) fun x => okB (rxeServe 0 (x.1.src + 1) x.2) fun _ => true
      [headed head, bit (head.ctx 0 0).rxcfg 63, !(head.ctx 0 0).away, did .messageHeaderArrival head (fun t => decide ((t.ctx 0 0).unexp.length = 1)),
       headed off, did .messageHeaderArrival off (fun t => decide ((t.ctx 0 0).refused = 1)),
       (takeInbox 0 .pulled pull).isNone && (takeInbox 0 .pull pull).isNone, ((pull.ctx 0 0).post 3).isSome,
       did .rendezvousPull pull (fun t => decide ((t.ctx 0 0).pulls = [] ∧ (t.ctx 0 0).pulling = [(3, m)] ∧ t.net.map NetSlot.kind = [.pull])),
       (takeInbox 0 .pulled asked).isNone, someB (takeInbox 0 .pull asked) (fun x => decide (x.1.dst = 0) &&
         match readSome (engineAgent 0 0) false (x.1.w 4) (x.1.w 6).toNat x.2 with | (none, bs, _) => decide (bs.length = 300) | _ => false),
       did .rendezvousPull asked (fun t => decide (t.net.length = 5 ∧ (t.ctx 0 0).flagAdds.length = 1)),
       someB (takeInbox 0 .pulled back) (fun x => decide (x.1.dst = 0 ∧ (x.1.w 3).setWidth 8 = 0#8)), ((back.ctx 0 0).post 3).isSome,
       ((back.ctx 0 0).pulling.find? fun y => decide (y.1 = 3)).isSome, did .rendezvousPull back (fun t => decide ((t.ctx 0 0).comps.length = 1)),
       okB (writeRxcfg 0 0 (setFld 0 48 16 0x8020) (cfg (setFld 0 48 16 0x8020))) (fun _ => true), did .rxcfgWrite (cfg (setFld 0 48 16 0x8020)) (fun _ => true),
       okB (writeRxcfg 0 0 0 (cfg 0)) (fun _ => true), did .rxcfgWrite (cfg 0) (fun t => (t.ctx 0 0).posts.isEmpty),
       did .xnop (at_ x0) (fun t => decide ((t.ring 0 4).head = 1)), decide (rxeSlot s = 0), quotaLeft (s.ctx 0 0), posts 0, posts (dcm 0x600),
       someB ((can.ctx 0 0).post 3) (fun _ => okB (rxeServe 0 (rankEngine (ringHere can)) can) fun _ => true),
       did .xcancel can (fun t => decide ((t.ctx 0 0).comps.length = 1))]) = true := by decide +kernel


/-! ### Traps, registers, supervisor operations -/

/-- Replay entries of one issue cycle stand in the order E0 to E3 (15 R369). -/
theorem test_replay_order :
    (issueOrder ([(5, 7), (3, 7), (2, 8)].map fun x =>
      { due := 9, strand := x.1, op := 0, w := ww .none 0, caps := {}, ipc := 0, iss := x.2 })).map Flight.strand = [3, 5, 2] := by decide

/-- One store that hits two watchpoints reports the lower number, with its lowest byte (16 R396). -/
theorem test_watch_lowest :
    watchHits { brkRegs := [(0x810, 0x20), (0x811, 0x800000000000FFFF), (0x812, 0x10), (0x813, 0x800000000000FFFF)] }
      [(0x13, [true]), (0x25, [false, true])] = some (0, 0x40, 0x26) := by decide +kernel

theorem wit_Traps :
    chk (
      let w := ww .none 0 (x := 7)
      let s := on 0
      let due := fun (d : TrapDue) (regs : Tab Word) (core : Core) => evt 0 0 0 0 0 (on 2 { regs := [(3, 4)] } { core with due := some d } { regs } { cyc := 9, rings })
      let d : TrapDue := { strd := 2, cause := cSoftwareTrap, info := 7, t := 9 }
      let to_ := fun (h : Nat) (c : BitVec 8) => [(0x011, BitVec.ofNat 64 (h * 4 ^ c.toNat)), (0x012, 0x2000)]
      let free := fun (s : State) (d : TrapDue) => decide (s.myCore.due = some d) && !d.stop && decide (d.t ≤ s.cyc) && (s.myCore.strand 1).pend.isNone &&
        s.myCore.iter.isSome && decide (s.myCore.slot < 16) && decide ((s.ctx 0 0).state = 1 ∧ (s.ctx 0 0).fst = 0)
      let how := fun (s : State) (d : TrapDue) => disposition (s.ctx 0 0) d.cause d.prec d.info
      let plain := fun (s : State) => s.myCore.frame.isNone && !(s.myCore.strand 1).handler
      let hand := due d (to_ 1 cSoftwareTrap) {}
      let sup := due { d with strd := 7, cause := cQueueDeadlock } [] {}
      let none_ := due d [(0x011, BitVec.ofNat 64 (4 ^ cSoftwareTrap.toNat))] {}
      let ran := { d with cause := cSegmentOverrun }
      let wave := due { d with cause := cFallow } [] {}
      let stop : TrapDue := { stop := true, strd := 7, cause := cPreempt, t := 9 }
      let inH := due d [] { frame := some {}, strands := [(1, { handler := true })] }
      [[(Instr.trap w, Forms.trap), (.brk w, Forms.brk), (.fallow w, Forms.brk)].all (fun r => issues r.2 w s && did r.1 s fun t =>
         someB t.myCore.due fun d => decide (d.info = 7 ∧ d.t = 1)), !s.cur.bundle, s.myCore.due.isNone,
       free hand d, plain hand, decide (how hand d = 1), decide ((hand.ctx 0 0).reg 0x012 ≠ 0),
       did .trapEntry hand (fun t => decide ((t.myCore.strand 1).pc = 0x2000) && (t.myCore.strand 1).handler && decide ((t.myCore.strand 1).sreg 29 = 7)),
       free sup { d with strd := 7, cause := cQueueDeadlock }, plain sup, decide (how sup { d with cause := cQueueDeadlock } = 0),
       did .queueDeadlock sup (fun t => decide ((t.ctx 0 0).state = 2)), free none_ d, decide (how none_ d = 1), decide ((none_.ctx 0 0).reg 0x012 = 0),
       did .trapEntry none_ (fun t => decide ((t.ctx 0 0).state = 2)),
       free (due ran (to_ 1 cSegmentOverrun) {}) ran, decide (how (due ran (to_ 1 cSegmentOverrun) {}) ran = 1),
       did .segmentOverrun (due ran (to_ 1 cSegmentOverrun) {}) (fun t => decide ((t.ctx 0 0).reg 0x019 = 1)),
       free wave { d with cause := cFallow }, plain wave, decide (how wave { d with cause := cFallow } = 2),
       did .trapEntry wave (fun t => decide ((t.ctx 0 0).fst = 1)), free inH d, inH.myCore.frame.isSome, (inH.myCore.strand 1).handler,
       (due stop [] {}).myCore.frame.isNone, did .trapEntry (due stop [] {}) (fun t => someB t.myCore.frame fun f => decide (f.cause = cPreempt ∧ f.strd = 7)),
       did .trapEntry inH (fun t => someB t.myCore.frame fun f => decide (f.scnd = cSoftwareTrap))]) = true := by decide +kernel

theorem wit_HandlerMode :
    chk (
      let flight : Flight := { due := 2, strand := 2, op := 0, w := ww .scal 3, caps := {}, ipc := 0x3000 }
      let f : Frame := { tpc := [(0, 0x2000), (1, 0x3000)], replay := [flight], s28 := 5, lock := false }
      let regs : Tab Word := [(4, 8), (5, 256), (6, 0x4000), (7, 10496), (8, 384), (9, 1)]
      let h := on 1 { regs, handler := true } { frame := some f }
      let u := on 1 { regs }
      let r := ww .none 0
      let p := fun n => ww .scal 3 (ss n)
      let q := fun n m => ww .none 0 (ss n) (ss m)
      let ok := fun (form : Form) (w : StrandWord) (q : Nat → Word → Bool) => issues form w h && okB (capture form asIs w h) fun x => q (zx x.1.a 16) (lo64 x.1.b)
      [issues Forms.rett r h, h.me.handler, decide (h.myCore.frame = some f), did (.rett r) h (fun t => t.myCore.frame.isNone && decide (t.me.pc = 0x3000) && !t.me.handler),
       ok Forms.rpli (p 4) (fun i _ => decide (i ≤ frameTop) && !f.beyond i), takes (p 4) h, did (.rpli (p 4)) h (fun t => decide (t.me.sreg 3 = 0x2000)),
       ok Forms.rpli (p 5) (fun i _ => decide (i = 256) && !f.beyond i), did (.rpli (p 5)) h (fun _ => true),
       ok Forms.rpli (p 7) (fun i _ => decide (frameTop < i)), traps (.rpli (p 7)) h cIllegalOperand,
       ok Forms.rpli (p 8) (fun i _ => f.beyond i), traps (.rpli (p 8)) h cIllegalOperand,
       ok Forms.rplr (q 4 6) (fun i v => decide (i ≤ frameTop) && (f.setWord i v).isSome),
       did (.rplr (q 4 6)) h (fun t => someB t.myCore.frame fun g => decide (Tab.get 0 g.tpc 0 = 0x4000)),
       ok Forms.rplr (q 4 9) (fun i v => (f.setWord i v).isNone), traps (.rplr (q 4 9)) h cIllegalOperand, ok Forms.rplr (q 7 6) (fun i _ => decide (frameTop < i)),
       !u.me.handler, issues Forms.rett r u, traps (.rett r) u cIllegalOperand, issues Forms.rpli (p 4) u, traps (.rpli (p 4)) u cIllegalOperand,
       issues Forms.rplr (q 4 6) u, traps (.rplr (q 4 6)) u cIllegalOperand]) = true := by decide +kernel

/-- X selects a system register. -/
abbrev rr (dk : DKind) (d : BitVec 6) (a : Src) (sel : BitVec 16) : StrandWord := ww dk d a (x := sel)

theorem wit_SystemRegisters :
    chk (
      let s := on 1 { regs := [(4, 0x41F), (5, 0x2000), (6, 0x501), (7, 0)] } {} { sup := true, regs := [(0x012, 0x3000)] } { rings }
      let rd := fun (sel : BitVec 16) => rr .scal 3 (vv 0) sel
      let wr := fun n sel => rr .none 0 (ss n) sel
      let reads := fun (sel : BitVec 16) (s : State) => issues (Forms.mfsr (rd sel).x) (rd sel) s && takes (rd sel) s && did (.mfsr (rd sel)) s fun _ => true
      let writes := fun n (sel : BitVec 16) (s : State) (q : Word → Bool) => issues (Forms.mtsr sel) (wr n sel) s && okB (capture (Forms.mtsr sel) asIs (wr n sel) s) fun x => q (lo64 x.1.a)
      [reads 0 s, reads 2 s, reads 0x012 s, selOf 0x012 == 0x012, writes 4 0 s (fun v => passes (do let _ ← writeStrandReg s.me 0 v; .ok ())),
       did (.mtsr (wr 4 0)) s (fun t => decide (t.me.fsr = 0x400)), writes 5 0x012 s (fun v => perCtx 0x012 && ctxRegOk 0 0x012 v),
       did (.mtsr (wr 5 0x012)) s (fun t => decide ((t.ctx 0 0).reg 0x012 = 0x2000)),
       writes 7 0x068 s (fun v => okB (writeHment (capturedFmt s) 0 0 v s) fun u => decide (u.cur = s.cur)), did (.mtsr (wr 7 0x068)) s (fun _ => true),
       writes 5 0x012 s (fun v => okB (writeReg 0 0 0 0x012 v s) fun u => decide (u.cur = s.cur)), decide (fld (0x41F : Word) 8 3 ≤ 4), decide (4 < fld (0x501 : Word) 8 3),
       errB (writeFsr s.me 0x501) cReservedField]) = true := by decide +kernel

theorem wit_Privilege :
    chk (
      let s := on 1 { regs := [(4, 0)] }
      let w := ww .scal 3 (ss 4) (ss 4)
      let n := ww .none 0 (ss 4)
      let f := rr .scal 3 (vv 0) 0x002
      let t := rr .none 0 (ss 4) 0x010
      let all := ww .none 0
      let priv := fun (i : Instr) (f : Form) (w : StrandWord) => f.sup && passes (checkWord { f with sup := false } w s) && traps i s cPrivilege
      [!s.sup, priv (.mfsr f) (Forms.mfsr f.x) f, priv (.mtsr t) (Forms.mtsr t.x) t, priv (.tlbiAll all) (Forms.tlbi all) all,
       priv (.tlbiVa { n with c := vv 1 }) (Forms.tlbi { n with c := vv 1 }) { n with c := vv 1 }, priv (.tlbiWin { n with c := vv 2 }) (Forms.tlbi { n with c := vv 2 }) { n with c := vv 2 },
       priv (.sve { w with b := vv 0 }) Forms.sve { w with b := vv 0 }, priv (.pgmig w) Forms.pgmig w, priv (.cntsel { w with dk := .none, d := 0 }) Forms.cntsel { w with dk := .none, d := 0 }]) = true := by decide +kernel

theorem wit_SupervisorOps :
    chk (
      let entry : TlbEntry := { slot := 0, page := 5, leaf := { pte := 0, key := 0, level := 4 } }
      let s := (on 1 { regs := [(4, 0x50000), (5, 1), (6, 16)], checks := [{ handle := 1, range := 0, right := 0 }, { handle := 2, range := 0, right := 0 }] } {} { sup := true }
        { tlb := [entry, { entry with page := 6 }], rings }).modCtx 0 1 fun c => { c with state := 5, regs := [(0x015, 0x300000), (0x010, 0x100000)] }
      let m := (s.putWord 0x100000 0x8000000000002000).putWord 0x200000 0xF401000000000000
      let w := fun c n => ww .none 0 (ss n) (c := vv c)
      let all := ww .none 0
      let v := fun n => ww .scal 3 (ss n)
      let ok := fun (w : StrandWord) => issues (Forms.tlbi w) w s && okB (capture (Forms.tlbi w) asIs w s) fun _ => true
      let sv := fun n (q : Nat → State → Bool) => issues Forms.sve (v n) m && okB (capture Forms.sve asIs (v n) m) fun x => q (lo64 x.1.a).toNat x.2
      [ok all, did (.tlbiAll all) s (fun t => (t.die 0).tlb.isEmpty && t.me.checks.isEmpty), ok (w 1 4), did (.tlbiVa (w 1 4)) s (fun t => decide ((t.die 0).tlb.length = 1)),
       ok (w 2 5), decide ((s.core 0 0).home = some s.selCtx), did (.tlbiWin (w 2 5)) s (fun t => decide (t.me.checks.map Check.handle = [2])),
       sv 5 (fun n s1 => decide (n = 1 ∧ (m.ctx 0 1).state = 5) && okB (resumeSave 0 1 s1) fun _ => true), takes (v 5) m, did (.sve (v 5)) m (fun _ => true),
       sv 6 (fun n _ => decide (16 ≤ n)), traps (.sve (v 6)) m cIllegalOperand, sv 7 (fun n _ => decide (n < 16 ∧ (m.ctx 0 n).state ≠ 5)), traps (.sve (v 7)) m cIllegalOperand]) = true := by
  decide +kernel

theorem wit_Migration :
    chk (
      let s := paged (on 1 { regs := [(4, 0x300000), (5, 0xF401000000400000)] } {} { sup := true })
      let w := ww .scal 3 (ss 4) (ss 5)
      let back := s.modMe fun t => { t with pend := some { id := 1, answered := true, val := 2 } }
      let val := migWords 0x300000 0xF401000000400000 0x200000 4 0
      let at_ := evt 0 0 0 0 0 (s.modMe fun t => { t with pend := some { id := 1, val } })
      let old : Leaf := { pte := setFld (s.word 0x200000) 51 1 0, key := 0x200000, level := 4 }
      [starts Forms.pgmig w s (fun k s1 => decide (k.a = ofWord 0x300000) && okB (walk s1 0 0 0x300000) fun l => newLeafOk (lo64 k.b) l.level && !bit l.pte 51),
       s.me.pend.isNone, !s.cur.bundle, canonical 0x300000 && !inAperture 0x300000, ends (.pgmig w) s (.waited 10 0),
       (at_.strand 0 0 1).pend.isSome, okB (migPieces at_ (at_.ctx 0 0).job 0x300000 old { old with pte := 0xF401000000400000 }) (fun ps =>
         decide (ps.length = 256) && ps.all fun q => !linePinned at_ (q.1 / 128) && !linePinned at_ (q.1 / 128 + 1)),
       starts Forms.pgmig w back (fun _ s1 => takes w s1), did (.pgmig w) back (fun t => decide (t.me.sreg 3 = 2))]) = true := by decide +kernel


/-! ### Monitoring, power and time -/

theorem wit_Monitors :
    chk (
      let at_ := fun (sup : Bool) => on 1 { regs := [(4, 63), (5, 0x8000000000000041), (6, 64), (7, 4096), (8, 4097), (9, 0x1001)] } {} { sup } {
        counters := [(63, { count := 5, ovf := true })], wflog := [0x7, 0x1000000000000000], wflost := 3, ftime := 9 }
      let s := at_ false
      let p := at_ true
      let on_ := s.modDie 0 fun d => { d with dbg := [(0x860, 0x8000000000000000)] }
      let r := fun n => ww .scal 3 (ss n)
      let c := fun n m => ww .none 0 (ss n) (ss m)
      let m := ww .none 0 (ss 4)
      let okAt := fun (s : State) (f : Form) (w : StrandWord) (q : Nat → Word → Bool) => issues f w s && takes w s && okB (capture f asIs w s) fun x => q (lo64 x.1.a).toNat (lo64 x.1.b)
      let ok := okAt s
      let bad := fun (v : Word) => decide (fld v 12 36 ≠ 0 ∨ fld v 0 12 ∉ eventCodes)
      [ok Forms.cntrd (r 4) (fun n _ => decide (n ≤ 63)), did (.cntrd (r 4)) s (fun t => decide (t.me.sreg 3 = 0x8000000000000005)),
       ok Forms.cntrd (r 6) (fun n _ => decide (63 < n)), traps (.cntrd (r 6)) s cIllegalOperand,
       okAt p Forms.cntsel (c 4 5) (fun n v => decide (n ≤ 63) && !bad v), did (.cntsel (c 4 5)) p (fun t => decide (((t.die 0).counter 63).next = some 0x8000000000000041)),
       okAt p Forms.cntsel (c 4 9) (fun n v => decide (n ≤ 63) && bad v), traps (.cntsel (c 4 9)) p cReservedField,
       okAt p Forms.cntsel (c 6 5) (fun n _ => decide (63 < n)), traps (.cntsel (c 6 5)) p cIllegalOperand,
       ok Forms.wfgrd (r 10) (fun n _ => decide (n < 4096)), did (.wfgrd (r 10)) s (fun t => decide (t.me.sreg 3 = 7)),
       ok Forms.wfgrd (r 7) (fun n _ => decide (n = 4096)), did (.wfgrd (r 7)) s (fun t => decide (t.me.sreg 3 = 0x300000002)),
       ok Forms.wfgrd (r 8) (fun n _ => decide (4096 < n)), traps (.wfgrd (r 8)) s cIllegalOperand,
       ok Forms.trmark m (fun _ _ => true), did (.trmark m) s (fun t => (t.die 0).marks.isEmpty), issues Forms.trmark m on_,
       did (.trmark m) on_ (fun t => decide ((t.die 0).marks.length = 1))]) = true := by decide +kernel

theorem wit_PowerAndTime :
    chk (
      let task : Task := { num := 1, slot := 0, lnr := [], ftab := [], arg := 0, deps := [], charge := 7 }
      let s := on 1 { regs := [(4, 2000), (5, 100)] } {} { energy := 8 } { energy := 9, ftime := 1000, tasks := [task], draw := 6 }
      let w := fun c => ww .scal 3 (vv 0) (vv 0) (vv c)
      let p := ww .scal 3 (ss 4) (ss 5)
      let reads := fun (f : Form) (i : StrandWord → Instr) c v => issues f (w c) s && takes (w c) s && did (i (w c)) s fun t => decide (t.me.sreg 3 = v)
      [reads Forms.timrd .timrd 0 1000, reads Forms.enrd .enrd 0 7, reads Forms.enrd .enrd 1 8, reads Forms.enrd .enrd 2 9, reads Forms.pwrq .pwrq 0 4000,
       reads Forms.pwrq .pwrq 1 0, reads Forms.pwrq .pwrq 2 6, reads Forms.pwrq .pwrq 3 2400, s.myCore.iter.isSome,
       issues Forms.pace p s, takes p s, okB (capture Forms.pace asIs p s) (fun _ => true), did (.pace p) s (fun t => decide (t.myCore.grant = some (1600, 2000))),
       decide (paceAsk 1000 2000 1601 = (1650, false)), decide (paceAsk 1000 2000 2600 = (2600, false)), decide (paceAsk 1000 2000 2601 = (2600, true)),
       decide (paceAsk 1000 1000 5 = (2600, false))]) = true := by decide +kernel

/-! ### The drill -/

/-- A drill command of ring 0 in hand. -/
def cmdOf (opnd : BitVec 40) (s : State) (w1 : Word := 0) (w2 : Word := 0) : State :=
  { s with hand := { cmd := { wt := 0, sg := 5, opnd, w1, w2, w3 := 0 } }, cur := {} }

/-- `RingClear`. -/
def ringClear (s : State) : Bool :=
  (s.drill s.cur.die (drillHere s)).taken.isEmpty && (s.drill s.cur.die (drillHere s)).stash.isEmpty && decide (s.hand.cmd.sg.toNat < 128)

theorem ringClear_sound {s : State} (h : ringClear s = true) : RingClear s := by simpa [ringClear, RingClear, and_assoc] using h

/-- Ring 0 of die 0 stands at its word 5 of 16; its allotment is a bank. -/
def drilled (d : Drill := {}) (die : Die := {}) : State :=
  on 1 {} {} {} { die with drills := [(0, d)], omeshr := 0x40, rings := [(0, ringOf 0x100 4 0 { head := 5, tail := 16 }), (20, ringOf 0x300 4 0)] }

theorem wit_DrillSettings :
    chk (
      let d := fun (i : Instr) (n : Nat) (o : BitVec 40) (fs : List (Nat × Nat)) (p : State → Bool) =>
        let s := cmdOf o (drilled)
        ringClear s && opndOnly s fs && p s && did i s fun t => decide ((t.ring 0 0).head = 5 + n ∧ (t.drill 0 0).taken = [])
      let yes := fun (_ : State) => true
      let close := fun (o : BitVec 40) w1 => cmdOf o (drilled { sess := true, session := true }) w1
      let once := cmdOf 5 (drilled)
      let twice := cmdOf 0x20003 (drilled)
      let inside := fun (s : State) n => loopInside 0 0 5 n (5 - n) s
      [d .dnop 1 0 [] yes, d .dfence 1 0 [] yes, d .win 1 0xE0 [(0, 8)] (fun s => decide (opnd s 0 7 = 96)), d .win 1 0x01 [(0, 8)] yes, d .crng 1 7 [(0, 3)] yes,
       d .asrc 1 0x1D [(0, 5)] (fun s => decide (opnd s 0 2 = 1)), d .asrc 1 2 [(0, 5)] (fun s => decide (opnd s 2 3 = 0)), d .pass 1 3 [(0, 2)] yes,
       d .accMode 1 1 [(0, 1)] yes, d .rpol 1 0x7F9 [(0, 11)] (fun s => decide (opnd s 0 2 = 1 ∧ opnd s 2 2 = 2)), d .lzr 1 100 [(0, 7)] yes,
       [close 0 0, close (1 <<< 38) 2].all (fun s => ringClear s && opndOnly s [(39, 1), (38, 1)] && (s.drill 0 0).sess &&
         did .symClose s fun t => !(t.drill 0 0).session),
       ringClear once && opndOnly once [(0, 16)] && decide (opnd once 0 16 = 5 ∧ 5 ≤ (once.ring 0 0).size - 1 ∧ 5 ≤ (once.ring 0 0).head) && !inside once 5,
       did .dloop once (fun t => decide ((t.ring 0 0).head = 6)),
       ringClear twice && opndOnly twice [(0, 32)] && decide (opnd twice 0 16 = 3 ∧ 0 < opnd twice 16 16) && !inside twice 3,
       did .dloop twice (fun t => decide ((t.ring 0 0).head = 2 ∧ (t.ring 0 0).loop = some (5, 2, 2)))]) = true := by decide +kernel

/-- A window under way. -/
def win0 : Win := { id := 0, pos := 0, w := 96, act := {}, wts := {}, last := true }

theorem wit_DrillWork :
    chk (
      let lit : Die := { lit := true, ftime := 100 }
      let open_ : Drill := { sess := true, session := true }
      let memb : Drill := { open_ with bcIn := true }
      let none_ := fun (d : Drill) => !d.bcIn && d.bc.isNone
      let sym := fun (o : BitVec 40) w1 die => cmdOf o (drilled {} die) w1
      let ok := fun (s : State) fs => ringClear s && opndOnly s fs
      let holds := fun (i : Instr) n (s : State) => did i s fun t => decide ((t.ring 0 0).head = 5 + n ∧ (t.drill 0 0).taken.length = 1)
      let retires := fun (i : Instr) n (s : State) => did i s fun t => decide ((t.ring 0 0).head = 5 + n ∧ (t.drill 0 0).taken = [])
      let cal := fun (i : Instr) (o : BitVec 40) (d : Drill) => let s := cmdOf o (drilled d); ok s [(0, 2)] && (s.drill 0 0).sess && holds i 1 s
      let join := fun (o : BitVec 40) (x : DrillSet) => cmdOf o (drilled { open_ with set := x }) 4
      let leave := fun (i : Instr) fs ws => let s := cmdOf 0 (drilled { open_ with wins := ws }); ok s fs && (if ws.isEmpty then retires i 2 s else holds i 2 s)
      let clr := fun (ws : List Win) => (cmdOf 0x3FFFE0001 (drilled { wins := ws })).modDie 0 fun d => { d with acc := [(131071, 9)] }
      let drain := fun (ws : List Win) => tiled 1 (setFld tileDesc 62 2 2) (cmdOf 0x8000 (drilled { wins := ws }) 0x0000100400000001)
      let dok := fun (s : State) => okB (drainTiles 0x8000 0x0000100400000001 0 0 s) fun v => decide (fld ((s.die 0).tile v.1) 50 8 = 1)
      let runs := enginesRun ((drilled).ctx 0 0)
      [ok (sym 0 0 lit) [(38, 1)], retires .symOpen 2 (sym 0 0 lit), ok (sym (1 <<< 38) 100 lit) [(38, 1)], retires .symOpen 2 (sym (1 <<< 38) 100 lit),
       ok (sym (1 <<< 38) 102 lit) [(38, 1)], holds .symOpen 2 (sym (1 <<< 38) 102 lit), holds .symOpen 2 (sym 0 0 {}),
       cal .calFull 0 open_, cal .skewArray 0 open_, cal .calConv 1 open_, cal .skewPath 1 memb, cal .calMod 2 open_,
       ok (cmdOf 15 (drilled)) [(0, 4)], holds .crngTrim 1 (cmdOf 15 (drilled)),
       ok (join 0x3FCFF00 {}) [(18, 8), (16, 2), (8, 8)], none_ open_, holds .bcst 2 (join 0x3FCFF00 {}),
       ok (join 0x3FC0003 { src := 1, pdie := 3 }) [(18, 8), (0, 5)], decide (opnd (join 0x3FC0003 {}) 0 3 = 3), holds .bjoin 2 (join 0x3FC0003 { src := 1, pdie := 3 }),
       holds .bjoin 2 (join 0x8 { src := 2 }), leave .bcstEnd [(39, 1), (18, 8), (16, 2), (8, 8)] [], leave .bcstEnd [(39, 1), (18, 8), (16, 2), (8, 8)] [win0],
       leave .bjoinEnd [(39, 1), (18, 8), (0, 5)] [], leave .bjoinEnd [(39, 1), (18, 8), (0, 5)] [win0], runs,
       ok (clr []) [(38, 2), (17, 17), (0, 17)], decide (opnd (clr []) 17 17 + opnd (clr []) 0 17 = allotSize 0 0 (clr [])),
       did .accClr (clr []) (fun t => decide ((t.die 0).acc = [])), holds .accClr 1 (clr [win0]), ok (drain []) [(12, 28)], dok (drain []),
       okB (drainNow 0 0 0x8000 0x0000100400000001 (takenState 2 (.drain 0x8000 0x0000100400000001) (drain []))) (fun _ => true), retires .drain 2 (drain []),
       dok (drain [win0]), holds .drain 2 (drain [win0])]) = true := by decide +kernel

theorem wit_MatrixCommands :
    chk (
      let s := fun (off : Nat) => tiled 1 (tileDesc + 15 <<< 50) (cmdOf (BitVec.ofNat 40 (off * 2 ^ 23 + 2 ^ 11 + 2 ^ 9)) (drilled { sess := true }) 1 1)
      let w0 := fun (off eop : Nat) => BitVec.ofNat 64 (5 * 2 ^ 48 + eop * 2 ^ 40 + off * 2 ^ 23 + 2 ^ 11 + 2 ^ 9)
      let good := fun m n off eop => okB (mxSetup 0 0 m n [w0 off eop, 1, 1, 0] false (fun _ => .ok 0) (s off)) fun x => decide (x.1.total = 96)
      let mx := fun (i : Instr) m n off eop => mxWordsOk (w0 off eop) 1 && good m n off eop && did i (s off) fun t => decide ((t.ring 0 0).head = 9)
      let rec_ := ((cmdOf 0 (s 0) (dcm 0x600)).putWord (keyDcm 0 0x600) (w0 0 0x18)).putWord (keyDcm 0 0x608) 1 |>.putWord (keyDcm 0 0x610) 1 |>.putWord (keyDcm 0 0x620) 95
      [ringClear (s 0), mx .mxM64n128 64 128 122880 0x10, mx .mxM64n256 64 256 0 0x11, mx .mxM64n512 64 512 0 0x12, mx .mxM128n128 128 128 0 0x13,
       mx .mxM128n256 128 256 0 0x14, mx .mxM128n512 128 512 0 0x15, mx .mxM256n128 256 128 0 0x16, mx .mxM256n256 256 256 0 0x17, mx .mxM256n512 256 512 0 0x18,
       !good 64 128 122881 0x10, opndOnly rec_ [], okB (drillChecks (engineAgent 0 0) false (dcm 0x600) 64 64 rec_) (fun u => okB (readRun (engineAgent 0 0) false (dcm 0x600) 0 64 u) fun x =>
         let ws := wordsOfBytes x.1
         recordOk ws && okB (mxSetup 0 0 256 512 (ws.take 4) false (recordPos (ws.getD 4 0)) x.2) fun y => decide (y.1.pos = 95)),
       did .mxr rec_ (fun t => decide ((t.ring 0 0).head = 7))]) = true := by decide +kernel


/-! ### Events of the part -/

/-- Slot 1 stands on the rings. -/
def onNet (x : NetSlot) (s : State) : State := { s with net := [x] }

theorem wit_Transport :
    chk (
      let s := (on 1 {} {} { regs := [(0x020, 0x1234)] }).modDie 0 fun d => { d with cyc := 100 }
      let load := fun (va : Word) (key : Word) => [0, 0, 8, 0, 0, key, va, 1, 0, 0, 0]
      let x : NetSlot := { id := 1, kind := .access, src := 1, dst := 0, words := load (dcm 0x400) 0x1234 }
      let far := { x with words := load 0x300000 0x1234 }
      let out := { x with src := 0, dst := 1, refused := 2 }
      let arr := fun (c : Word) (x : NetSlot) => evt 0 1 0 c 0 (onNet x s)
      let to1 := fun (x : NetSlot) => evt 0 1 0 0 0 (onNet x s)
      let moving := (paged (arr 0 far)).putWord 0x200000 0xF409000000000000
      let first := fun (x : NetSlot) (s : State) => decide (slotFrom s = some x) && x.retryAt.isNone && decide (x.refused < 2)
      let back := { out with retryAt := some 100 }
      let gone := { out with moved := true }
      let at_ := fun (key : Word) => arrived .access (load (dcm 0x400) key) [] s
      let reply := (arrived .reply [7, 0, 4, 5, 6] [9] s).modStrand 0 0 1 fun t => { t with pend := some { id := 7 } }
      let post := arrived .access [0, 1, BitVec.ofNat 64 (accStore * 65536 + 8), 1, 0, 0x1234, dcm 0x400, 1, 0, 0, 0] [1, 2, 3, 4, 5, 6, 7, 8] s
      let wait := { evt 0 5 0 0 0 s with net := [{ out with id := 5, dst := 8, refused := 0 }] } |>.modStrand 0 0 1 fun t => { t with pend := some { id := 5, dst := 8 } }
      let lost := fun (b : Word) => { wait with hand := { ev := { die := 0, unit := 0, a := 5, b, c := 0, d := 0 } } }
      let behind := fun (n : Nat) => { evt 0 1 4 0 0 s with net := [{ x with refused := n }, { x with id := 2 }] }
      let is := fun (f : NetSlot → Bool) (t : State) => decide (t.net.length = 1) && t.net.all f
      [isOldest moving far && isOldest (arr 1 x) x && isOldest (arr 0 x) x && decide (x.part = none),
       [0, 1].all (fun n => decide (slotFrom (behind n) = some { x with id := 2 }) && !isOldest (behind n) { x with id := 2 }),
       ends .slotArrival (behind 0) .idle, did .slotArrival (behind 1) (fun t => decide (t.net.map NetSlot.refused = [1, 1])),
       (takeInboxIf 0 .access (inTurn s) s).isNone, ends .remoteAccessAtTarget s .idle,
       someB (takeInboxIf 0 .access (inTurn post) post) (fun y => okB (performAccess y.1 y.2) fun _ => true),
       did .remoteAccessAtTarget post (fun t => decide (t.net = [] ∧ memGet t.mem (keyDcm 0 0x407) = 8)),
       [lost 0, lost 0x0F].all (fun s => (takeInbox 0 .reply s).isNone && (s.net.find? fun y => decide (y.src = 0) && decide (8 ≤ y.dst) && y.part.isNone && y.id = 5).isSome),
       causeWritable 0x07 && !causeWritable 0x0F, did .remoteResponse wait (fun t => t.net.isEmpty && someB (t.strand 0 0 1).pend Pend.answered),
       did .remoteResponse (lost 7) (fun t => someB (t.strand 0 0 1).pend fun p => decide (p.cause = 7)), ends .remoteResponse (lost 0x0F) .idle,
       first far moving, accessMoved moving (slotAccess far), did .slotArrival moving (is fun y => y.moved && decide (y.refused = 2)),
       first x (arr 1 x), !accessMoved (arr 1 x) (slotAccess x), refuses (arr 1 x) true x, did .slotArrival (arr 1 x) (is fun y => decide (y.refused = 1)),
       first x (arr 0 x), !refuses (arr 0 x) false x, did .slotArrival (arr 0 x) (fun t => decide ((t.die 0).inbox = [x]) && t.net.isEmpty),
       decide (slotTo (to1 out) = some out), did .slotReturn (to1 out) (is fun y => decide (y.retryAt = some 132)),
       decide (slotTo (to1 back) = some back), did .slotRetry (to1 back) (is fun y => decide (y.refused = 0) && y.retryAt.isNone),
       someB ((to1 gone).net.find? fun y => decide (y.src = 0) && y.moved) (fun y => decide (y = gone)), !accessMoved (to1 gone) (slotAccess gone),
       did .movedReissue (to1 gone) (is fun y => !y.moved), did .linkFrameReplay s (fun _ => true),
       someB (takeInboxIf 0 .access (inTurn (at_ 0x1234)) (at_ 0x1234)) (fun y => okB (performAccess y.1 y.2) fun _ => true),
       did .remoteAccessAtTarget (at_ 0x1234) (is fun y => decide (y.kind = .reply ∧ y.w 2 = 0)),
       someB (takeInboxIf 0 .access (inTurn (at_ 1)) (at_ 1)) (fun y => errB (performAccess y.1 y.2) cWindowKey), did .remoteAccessAtTarget (at_ 1) (is fun y => y.w 2 ≠ 0),
       (takeInbox 0 .reply reply).isSome, did .remoteResponse reply (fun t => someB (t.strand 0 0 1).pend fun p => p.answered && decide (p.val = 9))]) = true := by
  decide +kernel

theorem wit_RingEvents :
    chk (
      let s := fun (n : Nat) (v : Word) (c : Ctx) (r : Ring) =>
        let s := on 1 {} {} c { rings := [(n, ringOf 0x100 4 0 { r with tail := r.head + 4 }), (24, ringOf 0x400 4 0)], omeshr := 0x1040 }
        evt n 0 0 0 0 (s.putWord (ringKey 0 (s.ring 0 n) r.head) v)
      let at_ := fun n (v : Word) (s : State) => decide (headCmd 0 n s = some v) && (cmdRejected n v).isNone && headWhole 0 n v s && !(s.ring 0 n).granted && mayExamine 0 n s
      let flag := s 4 0x7F05000000000000 { flags := [(127, 3)] } {}
      let guard := fun wt g => s 4 (BitVec.ofNat 64 (wt * 2 ^ 56 + 5 * 2 ^ 48)) { guards := [(63, g)] } {}
      let drill := s 0 (BitVec.ofNat 64 (191 * 2 ^ 56 + 5 * 2 ^ 48)) { guards := [(63, 2)] } {}
      let word := fun wt => BitVec.ofNat 64 (wt * 2 ^ 56 + 5 * 2 ^ 48)
      let rej := s 4 0x0000FF0000000000 {} {}
      let sig := s 0 0x0080000000000000 {} {}
      let cfg := fun (a : Word) (en : Bool) => (evt 4 a 0 0 0 (on 1 {} {} {} { rings := [(4, if en then ringOf 0x200 4 0 { tail := 3 } else {})] }))
      let tail := fun n (a : Word) => evt n a 0 0 0 (on 1 {} {} {} { rings := [(n, ringOf 0x200 4 0 { tail := 3 }), (24, ringOf 0x400 4 0)] })
      let stopped := (s 4 0x0000010000000000 {} { state := 3, cause := 5 })
      let held := s 4 0x0500FF0000000000 {} {}
      let away := flag.modCtx 0 0 fun c => { c with state := 2 }
      let taken := evt 4 1 0 0 0 (on 1 {} {} {} { rings := [(4, ringOf 0x200 4 0 { head := 2, tail := 3 }), (24, ringOf 0x400 4 0)] })
      let good := (ringOf 0x200 4 0).cfg
      [at_ 4 0x7F05000000000000 flag, decide (1 ≤ (flag.ctx 0 0).flag 127), did .commandFlagSatisfied flag (fun t => (t.ring 0 4).granted && decide ((t.ctx 0 0).flag 127 = 2)),
       at_ 4 (word 191) (guard 191 1), did .commandGuardDecided (guard 191 1) (fun t => (t.ring 0 4).granted),
       at_ 4 (word 255) (guard 255 2), did .commandGuardDecided (guard 255 2) (fun t => (t.ring 0 4).granted),
       at_ 4 (word 191) (guard 191 2), did .commandGuardDecided (guard 191 2) (fun t => decide ((t.ring 0 4).head = 1)),
       at_ 0 (word 191) drill, decide ((drill.drill 0 0).taken = []), did .commandGuardDecided drill (fun t => decide ((t.ring 0 0).head = 1)),
       someB (headCmd 0 4 rej) (fun v => (cmdRejected 4 v).isSome && mayExamine 0 4 rej && headWhole 0 4 v rej && decide (waitMet 0 4 v rej = some true)), did .drillCommandReject rej (fun t => decide ((t.ring 0 4).state = 3)),
       someB (headCmd 0 4 held) (fun v => (cmdRejected 4 v).isSome && mayExamine 0 4 held && headWhole 0 4 v held && decide (waitMet 0 4 v held ≠ some true)), ends .drillCommandReject held .idle,
       !mayExamine 0 4 away, [Instr.commandFlagSatisfied, .commandGuardDecided, .drillCommandReject].all (fun i => ends i away .idle),
       decide (Tab.get 0 (flag.die 0).served (thingFlag 0 127) ≤ 5),
       someB (headCmd 0 0 sig) (fun v => decide (cmdRejected 0 v = some cReservedField) && mayExamine 0 0 sig && headWhole 0 0 v sig && decide (waitMet 0 0 v sig = some true)), did .drillCommandReject sig (fun t => decide ((t.ring 0 0).head = 0)),
       rcfgOk (cfg good false) 0 ((cfg good false).ring 0 4).cfg good, did .rcfgWrite (cfg good false) (fun t => (t.ring 0 4).en),
       rcfgOk (cfg (setFld good 40 1 0) true) 0 good (setFld good 40 1 0), did .rcfgWrite (cfg (setFld good 40 1 0) true) (fun t => decide ((t.ring 0 4).tail = 0)),
       !rcfgOk (cfg (1 <<< 48) true) 0 good (1 <<< 48), ends .rcfgWrite (cfg (1 <<< 48) true) .idle,
       did .hostTailStore (tail 4 16) (fun t => decide ((t.ring 0 4).tail = 16)), did .hostTailStore (tail 39 16) (fun t => decide ((t.ring 0 39).tail = 16)),
       did .hostTailStore (tail 19 17) (fun t => decide ((t.ring 0 19).state = 3)), did .hostTailStore taken (fun t => decide ((t.ring 0 4).state = 3)), decide ((stopped.ring 0 4).state = 3),
       did .ringRestartRetry stopped (fun t => decide ((t.ring 0 4).state = 0)), did .ringRestartDiscard stopped (fun t => decide ((t.ring 0 4).head = 4))]) = true := by
  decide +kernel

/-- A matrix command of 64 by 128 on tile 1, and the command that is taken with it. -/
def run0 : MxRun :=
  { words := [], m := 64, n := 128, target := 0, b8 := false, act := { kind := 1, tile := 1, fmt := 16 }, wts := { kind := 1, tile := 1, fmt := 16 },
    k0 := 0, total := 96, pos := 0, fresh := true }
def takenOf (j : DrillJob) (x : DrillSet := {}) : TakenCmd :=
  { id := 0, idx := 4, len := 1, sg := 0, job := j, set := x, sess := true, bcIn := false, loop := none }

theorem wit_Windows :
    chk (
      let lit : Die := { lit := true, locked := true, ftime := 100, slotDue := true }
      let s := fun (d : Drill) => tiled 1 (setFld (tileDesc + 15 <<< 50) 62 2 2) (evt 0 0 0 0 0 (drilled d lit))
      let opening := s { taken := [takenOf (.opening (some 100))] }
      let mx := fun r (d : Drill) => s { d with taken := [takenOf (.mx r)] }
      let alone := fun (t : TakenCmd) r (s : State) => decide ((s.drill 0 0).taken.head? = some t) && (s.drill 0 0).stash.isEmpty && decide (nextMx (s.drill 0 0).taken = some (t, r)) &&
        r.next.isNone && r.fault.isNone
      let badRun := { run0 with act := { kind := 0, fmt := 16, tlr := [0x8000000000000000, 0, 0x6000000060] } }
      let faulty := mx badRun { wins := [win0] }
      let slot := fun (x : Die) => evt 0 0 0 0 0 (drilled {} x)
      let due := fun (s : State) => gridRuns (s.die 0) && (s.die 0).slotDue
      let empty := fun (s : State) => (List.range 4).all fun j => decide ((s.drill 0 j).taken = [] ∧ (s.drill 0 j).stash = []) && (pathSlot 0 j s).isNone
      let calm := fun (s : State) => due s && empty s && !(s.die 0).gap && (promisedWin 0 s).isNone
      let stolen := slot { lit with steal := [3] }
      let ready := mx { run0 with next := some win0 } { session := true, sess := true }
      let told := mx run0 { wins := [{ win0 with ahead := 1 }], sess := true, session := true }
      let begun := fun (s : State) =>
        let s0 := loseCredit 0 (watchPower 0 (noteAll 0 (endSlot 0 1 (s.modDie 0 fun d => { d with slotDue := false, settle := if 1 < d.settle then d.settle - 1 else d.settle }))))
        ({ s0 with free := s0.free + 1 } : State)
      let goes := fun (v : State) p => okB (advanceAll 0 (snapshot 0 ((sessionSlot 0 v).getD v))) p
      let free := fun (s : State) => due s && !(s.die 0).gap && okB (advanceAll 0 s) (fun t => decide (t = s))
      let is1 := fun (u : State) => (u.drill 0 0).wins.all fun w => w.lit && decide (w.ahead = 0)
      let judged := s { wins := [win0], taken := [takenOf (.mx run0) { cmask := 0 }] }
      [(opening.drill 0 0).stash.isEmpty, did .sessionOpened opening (fun t => (t.drill 0 0).session), alone (takenOf (.mx run0)) run0 (mx run0 {}),
       okB (fetchWin 0 0 (takenOf (.mx run0)) run0 (mx run0 {})) (fun x => decide (x.1.w = 96)), did .tfuFetch (mx run0 {}) (fun _ => true),
       alone (takenOf (.mx badRun)) badRun faulty, errB (fetchWin 0 0 (takenOf (.mx badRun)) badRun faulty) cAddressClass, (faulty.drill 0 0).wins.any (fun y => y.id = 0),
       did .tfuFetch faulty (fun _ => true),
       !gridRuns ((slot { lit with locked := false }).die 0), ends .slotBoundary (slot { lit with locked := false }) .idle, ends .slotBoundary (slot { lit with slotDue := false }) .idle,
       [false, true].all (fun odd => let g := slot { lit with gap := true, odd }; due g && empty g && did .slotBoundary g fun t => !(t.die 0).gap && decide ((t.die 0).slotDue ≠ odd)),
       [1, 2].all (fun n => let c := slot { lit with lit := false, calLeft := n }; calm c && did .slotBoundary c fun t => decide ((t.die 0).lit = (n == 1))),
       calm stolen, did .slotBoundary stolen (fun t => decide ((t.die 0).steal = [])),
       free told, decide (promisedWin 0 told = some (0, 0)), goes (lightWin 0 0 0 (begun told)) is1, did .slotBoundary told is1,
       free ready, (promisedWin 0 ready).isNone, (takenSlot 0 (begun ready)).isNone, dieOpen ((begun ready).die 0), decide (ready.pkg.shed = 0), (farSlot 0 (begun ready)).isNone,
       anyReady 0 (begun ready), goes (arbitrate 0 (begun ready)) (fun u => decide ((u.drill 0 0).seq = 1)), did .slotBoundary ready is1,
       decide ((judged.drill 0 0).wins = [win0] ∧ (judged.drill 0 0).taken = [takenOf (.mx run0) { cmask := 0 }]), (judged.drill 0 0).stash.isEmpty,
       decide ((judged.drill 0 0).step = 0), !win0.dead && !win0.lit && decide (win0.ahead = 0),
       decide (eligible 0 ready = [0] ∧ (ready.drill 0 0).wins = []), decide (((arbitrate 0 ready).drill 0 0).seq = 1)]) = true := by decide +kernel

/-- A mask of 0 flags no window, whatever its free readings. -/
theorem wit_Windows_mask (old : List Nat) : (judge { cmask := 0 } run0 win0 0 old).cond &&& 0 = 0 := Nat.and_zero _

theorem wit_OpticsUpkeep :
    chk (
      let s := fun (lasers : Tab Nat) (ns : Nat) (d : Drill) (die : Die) (a : Word) => let s := evt 0 a 0 0 0 (drilled d die); { s with pkg := { s.pkg with lasers, ns } }
      let on_ : Tab Nat := [(0, 1)]
      let lit : Die := { lit := true, locked := true }
      let busy : Drill := { wins := [{ win0 with lit := true }], taken := [takenOf (.mx run0)] }
      let dim := fun (t : State) => (t.drill 0 0).wins.map Win.cond
      let steals := fun i us n x ls => let x := s [] n {} x 0; decide ((dueUnits 0 us x).head? = ls.head?) && did i x fun t => decide ((t.die 0).steal = ls)
      let none_ := fun i us => let x := s [] 0 {} lit 0; decide (dueUnits 0 us x = []) && ends i x .idle
      let weak := s on_ 0 {} { lit with dimFor := [(1, 1000)] } 0
      let hit := fun (x : State) => integrates (x.die 0) { win0 with lit := true }
      [steals .converterTrimDue bankUnits 999948 lit [0], steals .modulatorBiasDue groupUnits 250000 lit [16], steals .skewTrimDue [skewUnit] 99948 lit [24, 24],
       steals .skewTrimDue [skewUnit] 99948 { lit with skewHalf := true } [24], none_ .converterTrimDue bankUnits, none_ .modulatorBiasDue groupUnits, none_ .skewTrimDue [skewUnit],
       !moduleUsed 0 (s on_ 0 {} lit 0), did .laserStandby (s on_ 100000 {} lit 0) (fun t => decide (Tab.get 0 t.pkg.lasers 0 = 2)), ends .laserStandby (s on_ 99999 {} lit 0) .idle,
       did .laserRelightDone (s [(0, 3)] 50000 {} {} 0x6460) (fun t => decide ((t.die 0).calLeft = 4096)), ends .laserRelightDone (s [(0, 3)] 49999 {} {} 0x6460) .idle,
       hit (s on_ 0 busy lit 0x0A45), did .laserDip (s on_ 0 busy lit 0x0A45) (fun t => decide (dim t = [cdDim])), did .laserDip (s on_ 0 busy lit 0x4646) (fun t => decide (dim t = [0])),
       !bit ((weak.die 0).dbgReg 0x930) 63, did .laserLossSustained weak (fun t => decide ((t.die 0).notLost ≠ 0)), ends .laserLossSustained (s on_ 0 {} lit 0) .idle,
       hit (s [] 0 busy lit 0), did .symbolLockLoss (s [] 0 busy lit 0) (fun t => decide (dim t = [cdLock])),
       did .symbolLockLoss (s [] 0 { busy with wins := [{ win0 with ahead := 1 }, win0] } lit 0) (fun t => decide (dim t = [cdLock, 0])),
       (s [] 0 {} {} 0).die 0 |>.booted, did .symbolLockRegained (s [] 0 {} {} 0) (fun t => decide ((t.die 0).settle = 1025)),
       did .symbolLockSettled (s [] 0 {} { settle := 1 } 0) (fun t => decide ((t.die 0).settle = 0)), omeshrOk 0 0x840 (s [] 0 {} {} 0x840),
       did .omeshrWrite (s [] 0 {} {} 0x840) (fun t => decide ((t.die 0).omeshr = 0x840)), !omeshrOk 0 0x844 (s [] 0 {} {} 1), !omeshrOk 0 1 (s [] 0 {} {} 1),
       ends .omeshrWrite (s [] 0 {} {} 1) .idle]) = true := by decide +kernel


theorem wit_CoreEvents :
    chk (
      let f : Flight := { due := 9, strand := 2, op := 0, w := ww .scal 3, caps := { a := 4, b := 5 }, ipc := 0 }
      let s := fun n (a b : Word) (t : Strand) (c : Core) (x : Ctx) => evt (128 * n) a b 0 0 (on n t c x { cyc := 600, rings })
      let land := s 2 0 0 {} { flights := [{ f with due := 600 }] } {}
      let hold := s 1 0 0 { held := [{ key := keyDcm 0 0x200, bytes := [some 7], since := 88 }, { key := keyDcm 0 0x300, bytes := [some 1], since := 89 }] } {} {}
      let walk := fun b => paged (s 1 0x300000 b {} {} {})
      let moved := (paged (s 1 0x300000 0 {} {} {})).modStrand 0 0 1 fun t => { t with run := .blocked 10 0, pc := 0x1000 }
      let xl := fun b (acc : Acc) => okB (translate (walk b) (walk b).agent 0x300000 acc) fun _ => (walk b).myCore.iter.isSome
      let seg := fun b => s 2 0 0 { seg := some { cost := 5, owed := b } } {} {}
      let soft := fun b (s : State) => evt 0 (BitVec.ofNat 64 (keyDcm 0 0x207)) b 0 0 s
      let key := keyDcm 0 0x200
      let wstop := arrived .watchStop [0, 5, 6] [] (on 1)
      [land.myCore.flights.any (fun f => decide (f.due = land.cyc)), did .resultLanding land (fun t => decide ((t.myCore.strand 2).sreg 3 = 9)),
       hold.me.held.any (fun h => decide (h.since + 512 ≤ hold.cyc)), did .combiningBufferTimeout hold (fun t => decide (t.me.held.length = 1 ∧ memGet t.mem key = 7)),
       xl 0 .rd, did .xlateWalk (walk 0) (fun t => decide ((t.die 0).tlb.length = 1)), xl 1 .wr, did .xlateWalk (walk 1) (fun _ => true), xl 2 .fetch,
       did .xlateWalk (walk 2) (fun _ => true), decide (moved.me.run = .blocked 10 0), okB (Machine.walk moved 0 0 0x300000) (fun l => !bit l.pte 51),
       did .movingPageRewalk moved (fun t => decide (t.me.run = .running)), (s 1 0x1080 0 {} {} {}).myCore.iter.isSome,
       did .breakBitLoad (s 1 0x1080 0 {} {} {}) (fun t => t.myCore.ilines.contains (0, 0x1080)), decide ((s 1 0 0 {} {} {}).myCtx.brkReg 0x800 = 0),
       did .brksyncWrite (s 0 0 0 {} { ilines := [(0, 0x1080)], brk := [(0, 0x1088)] } {}) (fun t => decide (t.myCore.brk = [])),
       did .segmentOverrunTwice (seg true) (fun t => decide (fld ((t.ctx 0 0).reg 0x019) 32 32 = 1)), keyExists key,
       did .memorySoftError (soft 0 (on 1)) (fun t => decide (t.soft = [key] ∧ t.bad = [])), did .memorySoftError (soft 1 (on 1)) (fun t => decide (t.bad = [key])),
       did .memorySoftError (soft 0 { on 1 with soft := [key] }) (fun t => decide (t.bad = [key] ∧ t.soft = [])), (takeInbox 0 .watchStop wstop).isSome,
       (wstop.core 0 0).iter.isSome && (wstop.core 0 0).frame.isNone && (wstop.core 0 0).due.isNone,
       did .watchStopSlot wstop (fun t => someB (t.core 0 0).due fun d => decide (d.cause = cWatchpoint))]) = true := by decide +kernel

/-- A rotation entry of a context for cluster 0. -/
def roteOf (slot : Nat) : Word := BitVec.ofNat 64 (2 ^ 63 + slot * 2 ^ 59 + 2 ^ 32 + 1)

/-- A record of two points whose strands enter at 0x2000. -/
def lnr0 : Lnr := [2, 0, 0, BitVec.ofNat 64 (2 ^ 27 + 2 ^ 32), 0x2000, 0x2000, 0x2000]

theorem wit_Rotation :
    chk (
      let group := evt 0 0 0 0 0 (on 1 {} {} {} { roteNew := [(0, roteOf 1)] } |>.modCtx 0 1 fun c => { c with state := 1 })
      let parked : Strand := { run := .parked, regs := [(5, 7)], live := { s := 0x20 } }
      let sw := fun (y : Nat) => evt 0 0 0 0 0 ((on 1 {} {} {} { parked := [(1, { strands := [(2, { regs := [(5, 9)] })] })] }).modCore 0 0 fun c =>
        { c with incoming := some y, strands := (List.range 6).map fun n => (n, parked) })
      let task : Task := { num := 4, slot := 0, lnr := lnr0, ftab := [], arg := 6, deps := [], ready := some 0, total := 2 }
      let disp := fun (t : Task) => evt 0 0 0 0 0 ((on 1 {} {} {} { rote := [(0, roteOf 0)], group := [0], tasks := [t] }).modCore 0 0 fun c => { c with iter := none })
      let cl := evt 0 0 0 0 0 (((on 1).modCore 0 0 fun c => { c with iter := none }).modCluster 0 0 fun c => { c with clNext := some 4 })
      [decide ((group.die 0).groupLeft = 0), did .rotationGroupEnd group (fun t => decide ((t.die 0).groupLeft = 256 ∧ (t.core 0 0).incoming = some 1)),
       (sw 1).myCore.switchReady, decide ((sw 1).myCore.home = some 0), did .rotationSwitch (sw 1) (fun t => decide (t.myCore.home = some 1 ∧ (t.myCore.strand 2).sreg 5 = 9)),
       (sw 16).myCore.switchReady, did .rotationSwitch (sw 16) (fun t => t.myCore.home.isNone), enginesRun ((disp task).ctx 0 0),
       decide (pickTask ((disp task).die 0) 0 = some task), decide ((List.range 128).find? (fun c => coreFree ((disp task).die 0) 0 c) = some 0),
       did .iterationStart (disp task) (fun t => decide ((t.strand 0 0 1).sreg 27 = 6)), someB (pickTask ((disp { task with total := 0 }).die 0) 0) (fun t => decide (t.total = 0)),
       did .iterationStart (disp { task with total := 0 }) (fun t => (t.die 0).tasks.isEmpty), !clusterBusy (cl.die 0) 0,
       did .clcfgApply cl (fun t => decide ((t.cluster 0 0).clcfg = 4))]) = true := by decide +kernel

theorem wit_Contexts :
    chk (
      let s := fun (slot : Nat) (c : Ctx) (a : Word) => evt slot a 0 0 0 ((paged (on 1 {} { strands := [] } {} { rings })).modCtx 0 slot fun _ => c)
      let save : Ctx := { state := 3, regs := [(0x010, 0x100000), (0x015, 0x300000), (0x016, 0x10000)] }
      let frame : Frame := { cause := cPreempt, tpc := [(0, 0x2000)] }
      let reload := (s 0 { state := 1, saved := [{ core := 0, off := 0x300000, len := 64 }] } 0).modDie 0 fun d => { d with rote := [(0, roteOf 0)], group := [0] }
      let core := reload.modCore 0 0 fun c => { c with frame := some frame }
      let ends_ := fun (i : Instr) st (q : Ctx → Bool) => did i (s 1 { state := st } 0x1ABCD) fun t => q (t.ctx 0 1)
      let stop := fun (c : Ctx) => s 1 c 0
      [did .ctxctlPreempt (s 0 { state := 1 } 0) (fun t => decide ((t.ctx 0 0).state = 2) && someB (t.core 0 0).due fun d => d.stop && decide (d.t = 1)), (coresOf 0 0 (s 0 { state := 1 } 0)).contains 0, did .ctxctlEvict (s 0 { state := 1 } 0) (fun t => (t.ctx 0 0).evict),
       ends .ctxctlPreempt (s 0 { state := 4 } 0) .idle, ends_ .ctxctlEvict 4 (fun c => decide (c.state = 3) && c.evict), ends_ .ctxctlResume 4 (fun c => decide (c.state = 1)),
       ends .ctxctlResume (s 1 { state := 1 } 0) .idle, ends_ .ctxctlRestore 0 (fun c => decide (c.state = 6)), ends_ .ctxctlCreate 0 (fun c => decide (c.job = 0xABCD) && c.sup),
       ends .ctxctlRestore (s 1 { state := 4 } 0) .idle, ends .ctxctlCreate (s 1 { state := 7 } 0) .idle, ends_ .ctxctlTeardown 1 (fun c => decide (c.state = 7)),
       allStopped 0 1 (stop { state := 2 }), did .preemptComplete (stop { state := 2 }) (fun t => decide ((t.ctx 0 1).state = 3)),
       (match saveFrom 0 1 0 (stop save) with | (.complete, n, _) => decide (n = 128) | _ => false), did .saveComplete (stop save) (fun _ => true),
       (match saveFrom 0 1 0 (stop { save with regs := [(0x016, 0x10000)] }) with | (.stopped _, _, _) => true | _ => false),
       did .saveComplete (stop { save with regs := [(0x016, 0x10000)] }) (fun t => decide ((t.ctx 0 1).state = 5)),
       errB (readImage 0 1 (stop { save with state := 6 })) cReservedField, did .restoreComplete (stop { save with state := 6 }) (fun t => decide ((t.ctx 0 1).state = 0)),
       (List.range 4).all (fun k => ((stop { state := 7 }).drill 0 k).wins.isEmpty), did .teardownComplete (stop { state := 7 }) (fun t => decide (t.ctx 0 1 = {})),
       decide ((core.core 0 0).home = some 0), enginesRun (core.ctx 0 0), (core.core 0 0).incoming.isNone, decide (coreOwner (core.die 0) 0 = some 0),
       okB (reloadCore 0 0 { core := 0, off := 0x300000, len := 64 } (core.core 0 0) core) (fun x => decide (x.1.frame = some frame) && !(x.1.strand 1).handler),
       did .coreSectionReload core (fun t => (t.core 0 0).frame.isNone && decide ((t.strand 0 0 0).pc = 0x2000))]) = true := by decide +kernel

/-- What a header check comes to in package 0. -/
theorem headerOk_home (h : Config.pkgNumber = 0) : headerOk 0 = fun ws =>
    fld (ws.getD 0 0) 48 16 = 1 && (fld (ws.getD 1 0) 42 2 = 1 || fld (ws.getD 1 0) 42 2 = 2) && fld (ws.getD 1 0) 13 27 = 0 &&
      fld (ws.getD 1 0) 0 13 = 0 && [3, 4, 5, 6, 7].all fun i => ws.getD i 0 = 0 := by
  funext ws
  simp [headerOk, dieIdentity, h]

/-- A record without sections at 0x300000: a restore of it into slot 1 is under way. -/
def recorded : State :=
  (((paged (on 1)).modCtx 0 1 fun _ => { state := 6, regs := [(0x010, 0x100000), (0x015, 0x300000)] }).putWord 0x300000 0x0001000000000001).putWord 0x300008
    0x0000140000000000

/-- A record names its die: in package 0 this one is accepted. -/
theorem wit_Contexts_restore (h : Config.pkgNumber = 0) : okB (readImage 0 1 recorded) (fun x => okB (restoreFrom 0 1 x.1 x.2) fun _ => true) = true := by
  unfold readImage
  rw [headerOk_home h]
  decide +kernel


theorem wit_RegisterWrites :
    chk (
      let s := fun (u : Nat) (a b d : Word) (die : Die) => evt u a b 0 d (on 1 {} {} { regs := [(0x020, 7)] } { die with rings })
      let wr := fun (k : Nat) (v : Word) => s 0 (BitVec.ofNat 64 k) v 0 {}
      let reg := fun (k : Nat) (v : Word) (ok : Bool) => someB (regRow k) (fun r => decide (3 ≤ k ∧ r.write ≠ 2)) &&
        (if ok then okB (writeReg 0 0 0 k v (wr k v)) (fun _ => true) && (match exec .registerWrite (wr k v) with | .next t => decide (t.verdict = .performed) | _ => false)
         else errB (writeReg 0 0 0 k v (wr k v)) cReservedField && ends .registerWrite (wr k v) .idle)
      let pt := s 0 0x100000 0 0 { tlb := [{ slot := 0, page := 5, leaf := { pte := 0, key := 0, level := 4 } }] }
      let home := fun (w1 : Word) => (recordAt (keyDcm 0 0x400) (s 0 (dcm 0x400) 0 0 {})).putWord (keyDcm 0 0x408) w1
      let lq : Word := BitVec.ofNat 64 (4 * 2 ^ 58 + 0x40)
      let cq : Word := BitVec.ofNat 64 (2 ^ 63 + 6 * 2 ^ 54 + 0x40)
      let tr : Word := BitVec.ofNat 64 (2 ^ 63 + 8 * 2 ^ 57)
      let nc : Word := BitVec.ofNat 64 (2 ^ 63 + 4 * 2 ^ 58)
      let sup := (s 0 nc 0 0 {}).modCtx 0 15 fun c => { c with regs := [(0x01D, 768)] }
      let cap := fun a => s 0 a 0 0 {}
      [reg 0x012 0x2000 true, reg 0x012 1 false, reg 0x060 5 true, ctxRegOk 0 0x010 0x100000, did .ptbaseWrite pt (fun t => (t.die 0).tlb.isEmpty),
       !ctxRegOk 0 0x010 1, ends .ptbaseWrite (s 0 1 0 0 {}) .idle, did .hmentWrite (s 0 0 0 0 {}) (fun t => t.pkg.homes.isEmpty),
       okB (readTlr 0 (engineAgent 0 0) (dcm 0x400) (home 0x4801)) (fun x => tlrHome x.1), did .hmentWrite (home 0x4801) (fun t => decide (t.pkg.homes.length = 1)),
       okB (readTlr 0 (engineAgent 0 0) (dcm 0x400) (home 0x801)) (fun x => !tlrHome x.1), ends .hmentWrite (home 0x801) .idle,
       okB (writeCqcfg 0 cq (s 0 cq 0 0 {})) (fun _ => true), okB (writeLqcfg 0 0 lq (s 0 lq 0 0 {})) (fun _ => true),
       !bit lq 63 && decide (fld lq 20 38 = 0 ∧ fld lq 58 5 = 4) && onlyEn ((s 0 lq 0 0 {}).ctx 0 0).lqcfg lq, did .lqcfgWrite (s 0 lq 0 0 {}) (fun t => decide ((t.ctx 0 0).lqcfg = lq)),
       did .pwrcapWrite (cap 4095) (fun t => decide (t.pkg.cap = 4000)), did .pwrcapWrite (cap 0) (fun t => decide (t.pkg.cap = 1600)), ends .pwrcapWrite (cap 4096) .idle,
       decide (fld (2400 : Word) 42 22 = 0 ∧ fld (2400 : Word) 16 16 = 0 ∧ 1600 + 2400 ≤ (cap 2400).pkg.cap),
       ends .tokxferWrite (cap 2401) .idle, ends .tokxferWrite (cap 0) .idle, inSomeWin (cap tr) 0 0 4096 && decide (fld tr 22 35 = 0 ∧ fld tr 57 5 = 8),
       did .trcfgWrite (cap tr) (fun t => decide ((t.die 0).dbgReg 0x860 = tr)), did .wfctlWrite (s 0 1 0 0 { wflog := [5] }) (fun t => (t.die 0).wflog.isEmpty),
       ends .wfctlWrite (cap 2) .idle, inDcmWin (sup.ctx 0 15) 0 512 && decide (fld nc 34 24 = 0 ∧ fld nc 22 2 = 0 ∧ fld nc 58 5 = 4),
       did .notcfgWrite sup (fun t => decide ((t.die 0).dbgReg 0x930 = nc))]) = true := by decide +kernel

/-- A context in slot 1 of a die, with page tables. -/
def dumping (c : Ctx) (die : Die) : State := evt 1 0 0 0 0 ((paged (on 1 {} {} {} die)).modCtx 0 1 fun _ => { c with regs := [(0x010, 0x100000)] })

theorem wit_FallowWave :
    chk (
      let fst := fun (n : Nat) => setFld (0 : Word) 61 3 n
      let job : Ctx := { job := 9 }
      let at_ := fun (n : Nat) (a b : Word) (core : Core) (die : Die) => evt 0 a b 0 0 (on 0 {} core { job with fwstat := fst n, brkRegs := [(0x821, 4000)] } { die with ftime := 1000, rings })
      let slot := fun (kind : SlotKind) (n : Nat) => arrived kind [9, 5, 0, 0, 0, 0] [] (at_ n 0 0 {} {})
      let got := fun (i : Instr) (kind : SlotKind) (n m : Nat) => (takeInbox 0 kind (slot kind n)).isSome && decide (slotJobOf { id := 0, kind, src := 0, dst := 0, words := [9] } = 9) &&
        did i (slot kind n) fun t => decide ((t.ctx 0 0).fst = m)
      let frozen : Core := { frame := some { tpc := [(2, 0x2000)] } }
      let stopped := (at_ 1 9 0 frozen {})
      let told := at_ 2 9 0 {} { fallow := [(9, 1)] }
      let step := fun (i : Instr) (b : Word) => did i (at_ 3 0 b frozen {}) fun t => decide ((t.ctx 0 0).fst = 4)
      let late := at_ 4 0 0 { stepCyc := some (1, 0), strands := [(1, { run := .running })] } { cyc := 4096 }
      let ctx1 := dumping
      let dump := ctx1 { state := 4 } { dump := some (1, 7), dbg := [(0x870, 0x300000)] }
      [decide (((at_ 0 0 0 {} {}).ctx 0 0).state ≠ 0), did .fwctlLaunch (at_ 0 0 0 {} {}) (fun t => decide ((t.ctx 0 0).fst = 1 ∧ (t.ctx 0 0).wseq = 1)),
       got .fallowStopArrival .wave 0 1, got .fallowStopArrival .wave 3 3, got .causeRecordArrival .causeRec 1 1, ((slot .causeRec 1).die 0).inbox.all (fun y => y.kind ≠ .wave),
       waveStopped 0 0 stopped, decide (jobSlots stopped 0 9 = [0]), did .fallowPhaseTwoDone stopped (fun t => decide ((t.ctx 0 0).fst = 2)),
       !trafficOf 0 9 told, did .fallowPhaseTwoDone told (fun t => decide (fld (Tab.get 0#64 (t.die 0).fallow 9) 8 8 = 1)),
       got .fallowFrozen .frozen 2 3, got .fallowResumeInstant .resume 3 5, ((slot .resume 3).die 0).resumes.isEmpty,
       frozenCore 0 0 0 (at_ 3 0 0 frozen {}), !((at_ 3 0 0 frozen {}).strand 0 0 1).handler, step .fwctlStepCycle 0, step .fwctlStepInstruction 5, step .fwctlStepWindow 0,
       ((at_ 3 0 0 {} {}).ring 0 0).en, did .fwctlResume (at_ 3 0 0 {} {}) (fun t => decide ((t.ctx 0 0).fst = 5)),
       [Instr.fwctlStepCycle, .fwctlStepWindow, .fwctlResume].all (fun i => ends i (at_ 2 0 0 frozen {}) .idle), late.myCore.iter.isSome && late.myCore.due.isNone && (late.strand 0 0 1).pend.isNone,
       !stepDone late.myCore 1 0 4096, did .stepTimeout late (fun t => t.myCore.frame.isSome), did .dumpctlStart (ctx1 { state := 4 } {}) (fun t => decide ((t.die 0).dump = some (1, 0))),
       okB (runDump 0 1 7 dump) (fun _ => true), did .dumpComplete dump (fun t => (t.die 0).dump.isNone)]) = true := by decide +kernel

/-- A dump names its die: in package 0 this one is written whole. -/
theorem wit_FallowWave_dump (h : Config.pkgNumber = 0) :
    okB (runDump 0 1 7 (dumping { state := 4 } { dump := some (1, 7), dbg := [(0x870, 0x300000), (0x871, 0x1000)] })) (fun t => fld ((t.die 0).dbgReg 0x873) 62 2 = 3) = true := by
  simp only [runDump, dumpHeader, dieIdentity, h]
  decide +kernel

theorem wit_PowerAndClocks :
    chk (
      let s := fun (a : Word) (die : Die) (pkg : Pkg) => { evt 0 a 0 0 0 (on 1 {} {} {} { die with rings }) with pkg }
      let slot := fun (kind : SlotKind) ws (pkg : Pkg) => { arrived kind ws [] (on 1) with pkg }
      let tok := slot .tokens [7, 500] { cap := 3600 }
      let back := slot .tokenBack [7, 500] { cap := 1600, returns := [(7, 300)] }
      let ack := slot .tokenAck [7] { out := 300, transfers := [(7, 300)] }
      let pace := evt 0 0 0 0 0 (on 1 {} { grant := some (800, 1000) } {} { ftime := 1000 })
      let hold := s 0xFFFFFFFFFFFFFFF0 { clkst := 1 <<< 62, ftime := 5000 } {}
      let slew := fun n => s 0 { clkst := 1 <<< 61, slew := n, ftime := 1000 } {}
      let reset := s 0 { ftime := 9 } { fieldReset := some 9 }
      let msix := s 5 { msixMore := [(5, true)] } {}
      [(takeInbox 0 .tokens tok).isSome, did .tokenArrival tok (fun t => decide (t.pkg.cap = 4000 ∧ t.net.length = 2)),
       (takeInbox 0 .tokenBack back).isSome, (back.pkg.returns.find? fun y => decide (y.1 = 7)).isSome, did .tokenReturn back (fun t => decide (t.pkg.cap = 1900)),
       (takeInbox 0 .tokenAck ack).isSome, did .tokenAck ack (fun t => decide (t.pkg.out = 0)), did .paceGrantExpiry pace (fun t => t.myCore.grant.isNone),
       did .referenceLoss (s 0 { ftime := 8 } {}) (fun t => decide ((t.die 0).holdFrom = 8)), did .referenceLock hold (fun t => decide ((t.die 0).slew = -4)),
       did .slewStep (slew 2) (fun t => decide ((t.die 0).ftime = 1001)), did .slewStep (slew (-2)) (fun t => (t.die 0).skipNs), did .realignmentGap (slew 0) (fun t => (t.die 0).gap),
       !((s 0 {} {}).die 0).fenced && ((s 0 {} {}).die 0).booted, ((s 0 { fenced := true } {}).die 0).fenced, decide (reset.unfenced.headD 0 = 0), did .fieldResetInstant reset (fun t => decide ((t.die 0).ftime = 0)),
       did .interruptHoldoffExpiry msix (fun t => decide (Tab.get 0 (t.die 0).msixHold 5 = 1000)), did .clockFreeze (s 0 {} {}) (fun t => (t.die 0).frozenClk)]) = true := by
  decide +kernel

/-- At the root module a field with a context refuses to reset. -/
theorem wit_PowerAndClocks_root (h : Config.pkgNumber = 0) : did .fieldResetRequest (on 1) (fun t => t.pkg.resetRefused) = true := by
  simp only [did, exec, execFieldResetRequest, h]
  decide +kernel

theorem wit_BootAndHost :
    chk (
      let boot := fun (a : Word) => { evt 0 a 0 0 0 State.reset with verdict := .idle }
      let last := evt 0 0 0 0 0 { State.reset with dies := (List.range 7).map fun i => (i + 1, { fenced := true, bootCause := 3 }) }
      let off : Word := 2 <<< 60 + 0xFF8
      let host := fun (a b c : Word) => let s := on 1 {} {} {} { rings }; { evt 0 a b c 0 s with mem := (s.putWord (keyDcm 0 0xFF8) 0x0000001000000005).mem }
      let dead := let s := host off 8 0; s.modDie 0 fun d => { d with fenced := true }
      let asleep := let s := host off 8 0; s.modDie 0 fun d => { d with frozenClk := true }
      let open_ := fun (s : State) => decide (hostStart s s.hand.ev = some false)
      let zero := host (2 <<< 60 + 0x3FFFFC0) 8 0
      let reg := host 0x060 8 5
      let pool := host (4 <<< 60 + 0x10) 4 7
      [did .moduleReset (on 1) (fun t => t.dies.isEmpty), !((boot 0).die 0).booted && !((boot 0).die 0).fenced && !((boot 0).die 1).booted && !((boot 0).die 1).fenced,
       did .dieBoot (boot 0) (fun t => (t.die 0).booted), did .dieBoot (boot 3) (fun t => (t.die 0).fenced), did .bootAnswerTimeout (boot 0) (fun t => decide ((t.die 0).bootCause = 4)),
       !(last.die 0).booted && !(last.die 0).fenced && !(last.die 0).frozenClk && (List.range 8).all (fun i => decide (i = 0) || (last.die i).booted || (last.die i).fenced),
       decide (hostStart dead dead.hand.ev = some true), [Instr.hostRead, .hostWrite, .hostAtomic].all (fun i => did i dead fun t => t.pkg.completion.isNone),
       (hostStart asleep asleep.hand.ev).isNone, [Instr.hostRead, .hostWrite, .hostAtomic].all (fun i => ends i asleep .idle), open_ reg, decide (hostBar reg.hand.ev = 0),
       did .hostRead reg (fun t => decide (t.pkg.completion = some (toBytes 8 8))), open_ zero, (hostKey zero zero.hand.ev).isNone,
       did .hostRead zero (fun t => decide (t.pkg.completion = some (List.replicate 8 0))), open_ (host off 8 9), someB (hostKey (host off 8 9) (host off 8 9).hand.ev) (fun k => decide (k % 8 = 0)),
       (host off 8 9).bad.isEmpty, (List.range 16).all (fun n => decide (((host off 8 9).ctx 0 n).brkRegs = [])), did .hostRead (host off 8 9) (fun t => decide (t.pkg.completion = some (toBytes 8 0x1000000005))),
       did .hostWrite (host off 8 9) (fun t => decide (t.word (keyDcm 0 0xFF8) = 9)), did .hostAtomic (host off 8 9) (fun t => decide (t.pkg.completion = some (toBytes 8 5))),
       open_ pool, (hostKey pool pool.hand.ev).isSome, did .hostWrite pool (fun t => decide (memGet t.mem (keyCpl 0 0 0x10) = 7)), !hostRing reg.hand.ev,
       someB (regRow 0x060) (fun r => decide (r.write ≠ 2)), okB (writeReg 0 0 0 0x060 5 reg) (fun _ => true), did .hostWrite reg (fun t => decide ((t.cluster 0 0).clNext = some 5)),
       [0, 1, 2, 3].all (fun a => did .boardManagementRead (evt 0 a 0 0 0 (on 1)) fun _ => true)]) = true := by decide +kernel

/-! ### Encoding, steps, reset -/

/-- `Fetches`. -/
def fetches (s : State) (die core n size : Nat) (p : List Byte → State → Bool) : Bool :=
  decide (die < 8) && decide (core < 128) && decide (n < 6) && (s.core die core).due.isNone && mayIssue s die core n && (s.core die core).frame.isNone &&
    okB (fetchBytes (aboutTo s die core n size) { die, core, slot := (s.core die core).slot, strand := n } (s.strand die core n).pc size) fun x =>
      let t := fillLines die core (s.core die core).slot (s.strand die core n).pc size x.2.2
      (brokenAt t die core n (s.strand die core n).pc size).isNone && p x.1 t

theorem fetches_sound {s : State} {die core n size : Nat} {p : List Byte → State → Bool} (h : fetches s die core n size p = true) :
    ∃ bs t, Fetches s die core n size bs t ∧ p bs t = true := by
  simp only [fetches, Bool.and_eq_true, decide_eq_true_eq, Option.isNone_iff_eq_none] at h
  obtain ⟨⟨⟨⟨⟨⟨h1, h2⟩, h3⟩, h4⟩, h5⟩, h6⟩, h7⟩ := h
  obtain ⟨⟨bs, q, s2⟩, h8, h9⟩ := okB_sound h7
  simp only [Bool.and_eq_true, Option.isNone_iff_eq_none] at h9
  exact ⟨bs, _, ⟨h1, h2, h3, h4, h5, h6, q, s2, h8, rfl, h9.1⟩, h9.2⟩

/-- After one step: the verdict. -/
def steps (s : State) (p : State → Bool) : Bool :=
  match step s with
  | .next t => p t
  | _ => false

/-- A strand is about to issue a word. -/
abbrev placed (v : Word) : State := State.reset.withFetchWord 64 v.toNat

/-- A locked core whose E strands are about to issue four words. -/
def fourWords (v : Word) : State :=
  let s := placed v
  let s := (List.range 4).foldl (fun s k => s.putWord (keyIs 0 120 (8 * k)) v) s
  { s with agenda := [.issue 0 120 2] }.modCore 0 120 fun c =>
    (List.range 4).foldl (fun c k => c.modStrand (2 + k) fun t => { t with run := .running, pc := 0xFFF5000000000000 }) { c with lock := true }

-- `vfma v4, v1, v2, v4 under p1` on four strands in step.
theorem wit_StepRunsDecoded :
    chk (
      let add := placed 0x00004546CD000007
      let four := fourWords 0x8631040102040100
      let win := { State.reset.withFetchWord 320 (1 + 2 ^ 64 * 0x000302000000000C) with dies := [(0, { booted := true })] }
      let head := fun (s : State) => { s with agenda := s.agenda.drop 1 }
      [decide (add.agenda = [.issue 0 120 1]), fetches (head add) 0 120 1 8 (fun bs _ => (decodeStrand (wordOf bs 0)).toOption.isSome), !(add.core 0 120).lock,
       steps add (fun t => decide (t.verdict = .performed ∧ (t.strand 0 120 1).sreg 5 = 0xFFFFFFFFFFFFFFFD)),
       decide (four.agenda = [.issue 0 120 2]), (four.core 0 120).lock, fetches (head four) 0 120 2 32 (fun bs _ => decide (wordOf bs 3 = 0x8631040102040100)),
       steps four (fun t => decide (t.verdict = .performed)), decide (win.agenda = [.record [1, 0x000302000000000C, 0, 0, 0]]),
       (decode [1, 0x000302000000000C, 0, 0, 0]).toOption.isSome, !((win.die 0).frozenClk)]) = true := by decide +kernel

theorem wit_OpcodeMap :
    chk (
      let s := placed 0x0200000000000000
      let head := fun (s : State) => { s with agenda := s.agenda.drop 1 }
      [decide (s.agenda = [.issue 0 120 1]), fetches (head s) 0 120 1 8 (fun bs _ => unallocatedOp (opField (wordOf bs 0))),
       steps s (fun t => decide (t.verdict = .trapped cIllegalOpcode 0 0)),
       unallocatedOp 0x03F && !unallocatedOp 0x040 && !unallocatedOp 0x01F && unallocatedOp 0x1FF && !unallocatedOp 0x1B9]) = true := by decide +kernel

theorem wit_DecodeEncode :
    chk (
      let round := fun (i : Instr) (h : Hand) => wellFormed i h && match decode (encode i h) with
        | .ok x => decide (x = (i, h))
        | .error _ => false
      [round (.add (ww .scal 5 (ss 6) (ll 13) (vv 0) 7)) {}, round .win { cmd := { wt := 0, sg := 3, opnd := 12, w1 := 0, w2 := 0, w3 := 0 } },
       round .streamJump { entry := { w0 := 0x5000000000000000, w1 := 16 } }, round .trapEntry { ev := { die := 1, unit := 0, a := 0, b := 0, c := 0, d := 0 } },
       round .copyLinear { packet := { w0 := 0x0100000000000040, w1 := 0, w2 := 0, w3 := 0, w4 := 0, w5 := 0, w6 := 0, w7 := 0 } },
       (decodeStrand 0x00004546CD000007).toOption.isSome]) = true := by decide +kernel

-- The memory lists the word's bytes, in canonical form before the step and after it.
theorem wit_StepKeepsMemory :
    chk (
      let s := placed 0x00004546CD000007
      [Memory.wf s.mem && !s.mem.isEmpty, steps s fun t => Memory.wf t.mem]) = true := by decide +kernel

end Sys2Proof.Tests
end

section
/-!
PROOFS. The times at which a queue's entries come free and can be popped (04 R97).
-/

namespace Sys2Proof.Machine

theorem queueCap_pos (q : Nat) : 0 < queueCap q := by
  unfold queueCap
  split <;> decide

/-- A pop that succeeds takes the head, which landed before its cycle, and notes one more entry popped in that cycle. -/
theorem Queue.pop_some {x y : Queue} {t : Nat} {v : Vec} (h : x.pop t = some (v, y)) :
    ∃ e rest, x.ents = e :: rest ∧ e.val = some v ∧ e.since < t ∧
      y = { x with ents := rest, popped := (if x.popCyc = t then x.popped else 0) + 1, popCyc := t } := by
  unfold Queue.pop at h
  split at h
  · rename_i id v' since rest hx
    split at h
    · rename_i hs
      cases h
      exact ⟨_, _, hx, rfl, hs, rfl⟩
    · cases h
  · cases h

theorem Queue.pop_of_reserved {x : Queue} {e : QEnt} {rest : List QEnt} (hx : x.ents = e :: rest) (he : e.val = none) (t : Nat) :
    x.pop t = none := by
  obtain ⟨id, val, since⟩ := e
  subst he
  simp [Queue.pop, hx]

theorem Queue.pop_of_landed {x : Queue} {e : QEnt} {rest : List QEnt} {v : Vec} (hx : x.ents = e :: rest) (he : e.val = some v)
    (t : Nat) :
    x.pop t = if e.since < t then
      some (v, { x with ents := rest, popped := (if x.popCyc = t then x.popped else 0) + 1, popCyc := t }) else none := by
  obtain ⟨id, val, since⟩ := e
  subst he
  simp [Queue.pop, hx]

/-- In the cycle of a pop the popped entry still takes a place. -/
theorem Queue.pop_room_same {x y : Queue} {t : Nat} {v : Vec} (h : x.pop t = some (v, y)) (q : Nat) :
    y.room q t = x.room q t := by
  obtain ⟨e, rest, hx, -, -, rfl⟩ := Queue.pop_some h
  simp only [Queue.room, hx, List.length_cons, if_true]
  omega

/-- From the next cycle on its place is free. -/
theorem Queue.pop_room_next {x y : Queue} {t : Nat} {v : Vec} (h : x.pop t = some (v, y)) (q : Nat) :
    y.room q (t + 1) = queueCap q - (x.ents.length - 1) := by
  obtain ⟨e, rest, hx, -, -, rfl⟩ := Queue.pop_some h
  simp [Queue.room, hx]

theorem Queue.room_full {x : Queue} {q : Nat} (h : x.ents.length = queueCap q) (t : Nat) : x.room q t = 0 := by
  simp [Queue.room, h]

/-- The head's reserved entry, once its value has landed. -/
theorem Queue.land_head {x : Queue} {e : QEnt} {rest : List QEnt} (hx : x.ents = e :: rest) (he : e.val = none) (v : Vec) (t : Nat) :
    ∃ rest', (x.land e.id v t).ents = { e with val := some v, since := t } :: rest' := by
  simp [Queue.land, hx, he]

/-- Settles O13: a pop notes its entry as popped in its own cycle only, and a landed entry carries the cycle it landed in. -/
theorem queueTiming : Obligations.QueueTiming := by
  unfold Obligations.QueueTiming
  intro x y q t id v u e rest
  refine ⟨fun h => ?_, ?_⟩
  · refine ⟨Queue.pop_room_same h q, Queue.pop_room_next h q, fun hfull => ⟨?_, ?_⟩⟩
    · rw [Queue.pop_room_same h, Queue.room_full hfull]
    · have := queueCap_pos q
      rw [Queue.pop_room_next h, hfull]
      omega
  · rintro hx rfl he
    obtain ⟨rest', hl⟩ := Queue.land_head hx he u t
    refine ⟨Queue.pop_of_reserved hx he t, ?_, ?_⟩
    · rw [Queue.pop_of_landed hl rfl]
      simp
    · rw [Queue.pop_of_landed hl rfl]
      simp

end Sys2Proof.Machine
end

section
/-!
PROOFS. What an instruction that lands a computed value does from issue to its end: it is performed, and its result is in its register
or in flight (02 R39, R40, R46; 04 R96).
-/

namespace Sys2Proof.Machine

/-! ### Slots on their way stay as a unit captures its operands and reserves its destination -/

/-- The slots on the rings and those that have arrived and wait. -/
def State.slots (s : State) : List NetSlot := s.net ++ s.dies.flatMap fun x => x.2.inbox

theorem State.posts_eq (s : State) (die core : Nat) : s.posts die core = s.slots.filter fun x => x.posted die core := rfl

theorem Tab.mem_put_self {α : Type} (t : Tab α) (n : Nat) (x : α) : (n, x) ∈ Tab.put t n x := by
  induction t with
  | nil => simp [Tab.put]
  | cons e t ih =>
    obtain ⟨k, v⟩ := e
    simp only [Tab.put]
    split
    · simp
    · split
      · simp
      · exact List.mem_cons_of_mem _ ih

/-- An entry of a table stands after a put, unless it is the one that reads of its key found. -/
theorem Tab.mem_put_or {α : Type} (d : α) (t : Tab α) (n : Nat) (x : α) {p : Nat × α} (hp : p ∈ t) :
    p ∈ Tab.put t n x ∨ p.2 = Tab.get d t n := by
  induction t with
  | nil => cases hp
  | cons e t ih =>
    obtain ⟨k, v⟩ := e
    simp only [Tab.put, Tab.get]
    by_cases hlt : n < k
    · left
      simp [hlt, List.mem_cons.mp hp]
    · by_cases hk : n = k
      · subst hk
        rcases List.mem_cons.mp hp with rfl | hp
        · simp
        · simp [hp]
      · rcases List.mem_cons.mp hp with rfl | hp
        · simp [hlt, hk]
        · simpa [hlt, hk, Ne.symm hk] using (ih hp).imp_left Or.inr

theorem State.slots_modDie (s : State) (d : Nat) (f : Die → Die) (hf : ∀ x, (f x).inbox = x.inbox) :
    s.slots ⊆ (s.modDie d f).slots := by
  intro y hy
  simp only [State.slots, State.modDie, List.mem_append, List.mem_flatMap] at hy ⊢
  refine hy.imp_right ?_
  rintro ⟨p, hp, hy⟩
  rcases Tab.mem_put_or ({} : Die) s.dies d (f (s.die d)) hp with h | h
  · exact ⟨p, h, hy⟩
  · refine ⟨_, Tab.mem_put_self _ _ _, ?_⟩
    rw [hf, State.die, ← h]
    exact hy

theorem State.slots_modCore (s : State) (d c : Nat) (f : Core → Core) : s.slots ⊆ (s.modCore d c f).slots :=
  State.slots_modDie s d _ fun _ => rfl

theorem State.slots_modStrand (s : State) (d c n : Nat) (f : Strand → Strand) : s.slots ⊆ (s.modStrand d c n f).slots :=
  State.slots_modCore s d c _

@[simp] theorem State.putBytes_slots (s : State) (k : Nat) (bs : List (Option Byte)) : (s.putBytes k bs).slots = s.slots := by
  unfold State.putBytes
  split
  · rfl
  · simp [State.slots, State.putRaw, List.flatMap_map]

theorem homeWrite_slots (die core : Nat) (s : State) (h : Held) : s.slots ⊆ (homeWrite die core s h).slots := by
  have := State.slots_modCore (s.putBytes h.key h.bytes) die core fun c => c.l1Write h.key h.bytes
  rwa [State.putBytes_slots] at this

theorem foldl_homeWrite_slots (die core : Nat) (hs : List Held) (s : State) : s.slots ⊆ (hs.foldl (homeWrite die core) s).slots := by
  induction hs generalizing s with
  | nil => exact List.Subset.refl _
  | cons h hs ih => exact List.Subset.trans (homeWrite_slots die core s h) (ih _)

theorem drainHeld_slots (die core n : Nat) (s : State) : s.slots ⊆ (drainHeld die core n s).slots := by
  unfold drainHeld
  split
  · exact List.Subset.refl _
  · exact List.Subset.trans (foldl_homeWrite_slots die core _ s) (State.slots_modStrand _ _ _ _ _)

/-! ### Releases -/

theorem release_of_E {s : State} (h : ¬ s.cur.strand < 2) : release s = s := by simp [release, drainMine, h]

theorem release_of_HA {s : State} (h : s.cur.strand < 2) :
    release s = { drainHeld s.cur.die s.cur.core s.cur.strand s with cur := { s.cur with ord := true, rel := true } } := by
  simp [release, drainMine, leaveMine, h]

theorem release_slots (s : State) : s.slots ⊆ (release s).slots := by
  by_cases h : s.cur.strand < 2
  · rw [release_of_HA h]
    exact drainHeld_slots _ _ _ s
  · rw [release_of_E h]
    exact List.Subset.refl _

/-- With every slot still there, a strand that has nothing outstanding after a part of its unit had nothing outstanding before it. -/
theorem foreignOut_of_slots {s t : State} (hs : s.slots ⊆ t.slots) (hd : t.cur.die = s.cur.die) (hc : t.cur.core = s.cur.core)
    (hn : t.cur.strand = s.cur.strand) (h : foreignOut t = false) : foreignOut s = false := by
  simp only [foreignOut, hd, hc, hn, State.posts_eq, Bool.and_eq_false_iff, Bool.not_eq_false', List.isEmpty_iff] at h ⊢
  refine h.imp_right fun h => ?_
  simp only [List.filter_eq_nil_iff] at h ⊢
  exact fun x hx => h x (hs hx)

/-! ### Capturing operands -/

theorem popQueue_slots {q : Nat} {s s1 : State} {v : Vec} (h : popQueue q s = .ok (v, s1)) : s.slots ⊆ s1.slots := by
  unfold popQueue at h
  split at h
  · cases h
    rename_i x _
    refine List.Subset.trans (State.slots_modCore s s.cur.die s.cur.core fun c => c.setQueue q x) ?_
    split
    · exact List.Subset.trans (State.slots_modCore _ _ _ _) (State.slots_modStrand _ _ _ _ _)
    · exact List.Subset.refl _
  · cases h

theorem map_eq_ok {ε α β : Type} {r : Except ε α} {g : α → β} {y : β} (h : r.map g = .ok y) : ∃ a, r = .ok a ∧ g a = y := by
  cases r with
  | error e => cases h
  | ok a => exact ⟨a, rfl, Except.ok.inj h⟩

/-- Reading a source leaves the state as it is or pops one queue. -/
theorem readSrc_pops {f : SForm} {lf : Nat} {x : BitVec 16} {src : Src} {s s1 : State} {v : Vec}
    (h : readSrc f lf x src s = .ok (v, s1)) : s1 = s ∨ ∃ q u, popQueue q s = .ok (u, s1) := by
  have reads : ∀ {u : Vec}, (Except.ok (u, s) : Except Stop (Vec × State)) = .ok (v, s1) →
      s1 = s ∨ ∃ q u, popQueue q s = .ok (u, s1) := by
    intro u hu
    cases hu
    exact .inl rfl
  have readsOrPops : ∀ {u : Vec} {n q : Nat},
      (if n ≤ 31 then (.ok (u, s) : Except Stop (Vec × State)) else popQueue q s) = .ok (v, s1) →
      s1 = s ∨ ∃ q u, popQueue q s = .ok (u, s1) := by
    intro u n q hu
    split at hu
    · exact reads hu
    · exact .inr ⟨_, _, hu⟩
  obtain ⟨kind, idx⟩ := src
  cases f with
  | none | sel _ | cbank | selPred | selMask | immX | vreg _ => exact reads h
  | s | sf | sNoX =>
    cases kind with
    | scal =>
      simp only [readSrc] at h
      exact readsOrPops h
    | vec | cb | lit => exact reads h
  | v | vf | vq =>
    cases kind with
    | vec =>
      simp only [readSrc] at h
      exact readsOrPops h
    | cb | lit => exact reads h
    | scal =>
      simp only [readSrc] at h
      split at h
      · exact reads h
      · obtain ⟨⟨u, s'⟩, hp, hs⟩ := map_eq_ok h
        obtain rfl := (Prod.mk.inj hs).2
        exact .inr ⟨_, _, hp⟩

theorem readSrc_slots {f : SForm} {lf : Nat} {x : BitVec 16} {src : Src} {s s1 : State} {v : Vec}
    (h : readSrc f lf x src s = .ok (v, s1)) : s.slots ⊆ s1.slots := by
  rcases readSrc_pops h with rfl | ⟨q, u, hp⟩
  · exact List.Subset.refl _
  · exact popQueue_slots hp

/-- A capture reads the three sources in order, and takes the old destination and the extension field as they stand at issue. -/
theorem capture_ok {f : Form} {lf : Nat → Nat} {w : StrandWord} {s s1 : State} {k : Caps} (h : capture f lf w s = .ok (k, s1)) :
    k.d = readOld w s.me ∧ k.x = f.effX w ∧
      ∃ a sa b sb c, readSrc f.a (lf k.fmt) w.x w.a s = .ok (a, sa) ∧ readSrc f.b (lf k.fmt) w.x w.b sa = .ok (b, sb) ∧
        readSrc f.c (lf k.fmt) w.x w.c sb = .ok (c, s1) := by
  unfold capture at h
  simp only [bind, Except.bind] at h
  split at h
  · cases h
  · split at h
    · cases h
    · rename_i a ha
      split at h
      · cases h
      · rename_i b hb
        split at h
        · cases h
        · rename_i c hc
          cases h
          exact ⟨rfl, rfl, a.1, a.2, b.1, b.2, c.1, ha, hb, hc⟩

theorem capture_slots {f : Form} {lf : Nat → Nat} {w : StrandWord} {s s1 : State} {k : Caps}
    (h : capture f lf w s = .ok (k, s1)) : s.slots ⊆ s1.slots := by
  obtain ⟨-, -, a, sa, b, sb, c, ha, hb, hc⟩ := capture_ok h
  exact List.Subset.trans (readSrc_slots ha) (List.Subset.trans (readSrc_slots hb) (readSrc_slots hc))

/-! ### Reserving the destination -/

/-- Reserving a destination leaves the state as it is, or releases, with an entry of the queue reserved first or none. -/
theorem reserveDest_cases {w : StrandWord} {s s2 : State} {rid : Nat} (h : reserveDest w s = .ok (s2, rid)) :
    (destQueue w = none ∧ s2 = s) ∨
      ∃ q u, destQueue w = some q ∧ s2 = release u ∧ (u = s ∨ ∃ x, u = s.modMyCore fun c => c.setQueue q x) := by
  unfold reserveDest at h
  split at h
  · rename_i hq
    cases h
    exact .inl ⟨hq, rfl⟩
  · rename_i q hq
    right
    split at h
    · cases h
      exact ⟨q, s, hq, rfl, .inl rfl⟩
    · split at h
      · cases h
        exact ⟨q, s, hq, rfl, .inl rfl⟩
      · obtain ⟨⟨u, n⟩, hr, hu⟩ := map_eq_ok h
        cases hu
        refine ⟨q, u, hq, rfl, .inr ?_⟩
        unfold reserveEntry at hr
        split at hr
        · cases hr
        · cases hr
          exact ⟨_, rfl⟩

/-- Where a unit stands once its operands are captured and its destination is reserved: it is where it was and holds nothing back, and
it is bound to no earlier write, or a strand of H or A has none outstanding. -/
structure Reserved (s s2 : State) : Prop where
  die : s2.cur.die = s.cur.die
  core : s2.cur.core = s.cur.core
  strand : s2.cur.strand = s.cur.strand
  hold : s2.cur.hold = s.cur.hold
  quiet : (s2.cur.rel = s.cur.rel ∧ s2.cur.ord = s.cur.ord) ∨ foreignOut s = false
  flights : 2 ≤ s.cur.strand → s2.myCore.flights = s.myCore.flights

theorem captures_reserved {f : Form} {lf : Nat → Nat} {w : StrandWord} {s s2 : State} {k : Caps} {rid : Nat}
    (h : Captures f lf w s k s2 rid) : Reserved s s2 := by
  obtain ⟨s1, hcap, hres, hout⟩ := h
  obtain ⟨hkept, -, hcur⟩ := capture_kept hcap
  have hfl : s1.myCore.flights = s.myCore.flights := by
    simp only [State.myCore, hcur]
    exact (hkept.core _ _).flights
  rcases reserveDest_cases hres with ⟨-, rfl⟩ | ⟨q, u, -, rfl, hu⟩
  · constructor <;> simp [hcur, hfl]
  · have hucur : u.cur = s.cur := by
      rcases hu with rfl | ⟨x, rfl⟩
      · exact hcur
      · simpa using hcur
    have hufl : u.myCore.flights = s.myCore.flights := by
      rcases hu with rfl | ⟨x, rfl⟩
      · exact hfl
      · rw [State.modMyCore_myCore]
        exact hfl
    have huslots : s1.slots ⊆ u.slots := by
      rcases hu with rfl | ⟨x, rfl⟩
      · exact List.Subset.refl _
      · exact State.slots_modCore _ _ _ _
    by_cases h2 : u.cur.strand < 2
    · have hslots : s.slots ⊆ (release u).slots := List.Subset.trans (capture_slots hcap) (List.Subset.trans huslots (release_slots u))
      have hd : (release u).cur.die = s.cur.die := by rw [release_of_HA h2, hucur]
      have hc : (release u).cur.core = s.cur.core := by rw [release_of_HA h2, hucur]
      have hn : (release u).cur.strand = s.cur.strand := by rw [release_of_HA h2, hucur]
      have hrel : (release u).cur.rel = true := by rw [release_of_HA h2]
      rw [hrel, Bool.true_and] at hout
      refine ⟨hd, hc, hn, by rw [release_of_HA h2, hucur], .inr (foreignOut_of_slots hslots hd hc hn hout), ?_⟩
      rw [hucur] at h2
      omega
    · rw [release_of_E h2]
      constructor <;> simp [hucur, hufl]

/-! ### The instruction's end -/

/-- The state in which a captured result has been delivered. -/
def delivered (op lat rid : Nat) (w : StrandWord) (k : Caps) (s : State) : State :=
  if s.cur.strand < 2 then landNow op rid w k s
  else s.modMyCore fun c =>
    { c with flights := c.flights ++
        [{ due := s.cyc + lat - 1, strand := s.cur.strand, op, w, caps := k.forOp op, ipc := s.cur.pc, rid := rid,
           iss := s.cyc + 1 }] }

@[simp] theorem delivered_cur (op lat rid : Nat) (w : StrandWord) (k : Caps) (s : State) : (delivered op lat rid w k s).cur = s.cur := by
  unfold delivered landNow
  split <;> rfl

theorem deliver_of_reserved {op lat rid : Nat} {w : StrandWord} {k : Caps} {s s2 : State} (h : reserveDest w s = .ok (s2, rid)) :
    deliver op lat w k s = .ok (delivered op lat rid w k s2) := by
  simp only [deliver, h, bind, Except.bind, delivered]
  split <;> rfl

theorem State.Moved.me {s t : State} (h : s.Moved t) : s.me.Moved t.me := by
  simp only [State.me, h.cur]
  exact (h.core _ _).strand _

theorem State.Moved.myCore {s t : State} (h : s.Moved t) : s.myCore.Moved t.myCore := by
  simp only [State.myCore, h.cur]
  exact h.core _ _

theorem State.Moved.verdict (s : State) (v : Verdict) : s.Moved { s with verdict := v } :=
  ⟨rfl, rfl, rfl, rfl, rfl, rfl, rfl, rfl, rfl, fun _ _ => Core.Moved.refl _, fun _ _ => rfl, fun _ _ => rfl⟩

/-- A word that issues and whose effect holds nothing back and waits for nothing is performed. -/
theorem issue_moved {f : Form} {w : StrandWord} {eff : State → Eff} {s u : State} (hi : Issues f w s) (he : eff s = .ok u)
    (hh : u.cur.hold = none) (hw : mustWait s u = false) :
    ∃ t, issue f w eff s = .next t ∧ t.verdict = .performed ∧ u.Moved t := by
  refine ⟨_, issue_ok hi he hw, ?_⟩
  split
  · exact ⟨rfl, State.Moved.verdict u _⟩
  · obtain ⟨hm, hv⟩ := retire_moved u hh
    rw [keepPopped_of_none s u hh]
    exact ⟨hv, hm⟩

/-- An instruction that lands a computed value is performed, and delivers it. -/
theorem issueRes_moved {f : Form} {op lat : Nat} {w : StrandWord} {s s2 : State} {k : Caps} {rid : Nat} (hi : Issues f w s)
    (hc : Captures f asIs w s k s2 rid) :
    ∃ t, issueRes f op lat w s = .next t ∧ t.verdict = .performed ∧ (delivered op lat rid w k s2).Moved t := by
  have hr := captures_reserved hc
  obtain ⟨s1, hcap, hres, -⟩ := hc
  have hfresh := hi.1
  refine issue_moved hi (u := delivered op lat rid w k s2) ?_ ?_ (mustWait_of_quiet ?_)
  · -- `asIs` is `id`: the form in which `issueRes` captures.
    have hcap' : capture f id w s = .ok (k, s1) := hcap
    simp only [hcap', bind, Except.bind]
    exact deliver_of_reserved hres
  · rw [delivered_cur, hr.hold, hfresh.1]
  · rw [delivered_cur]
    refine hr.quiet.imp_left fun ⟨hrel, hord⟩ => ?_
    obtain ⟨-, -, -, -, -, hrel', hord', -⟩ := hfresh
    exact ⟨hrel.trans hrel', hord.trans hord'⟩

/-- On H and A a result with a scalar register as its destination stands in it. -/
theorem delivered_sreg {op lat rid : Nat} {w : StrandWord} {k : Caps} {s : State} (h2 : s.cur.strand < 2) (hdk : w.dk = .scal)
    (hq : destQueue w = none) (hd : w.d ≠ 0) : (delivered op lat rid w k s).me.sreg w.d.toNat = landed op w k := by
  have hd' : w.d.toNat ≠ 0 := fun h => hd (BitVec.eq_of_toNat_eq h)
  simp [delivered, h2, landNow, Core.landRes, hq, Strand.landReg, hdk, hd']

/-- On an E strand a result is in flight behind those of its core. -/
theorem delivered_flights {op lat rid : Nat} {w : StrandWord} {k : Caps} {s : State} (h2 : 2 ≤ s.cur.strand) :
    (delivered op lat rid w k s).myCore.flights = s.myCore.flights ++
      [{ due := s.cyc + lat - 1, strand := s.cur.strand, op, w, caps := k.forOp op, ipc := s.cur.pc, rid := rid,
         iss := s.cyc + 1 }] := by
  simp [delivered, Nat.not_lt.mpr h2]

theorem Strand.Moved.sreg {t u : Strand} (h : t.Moved u) (n : Nat) : u.sreg n = t.sreg n := by simp only [Strand.sreg, h.regs]

/-- What an instruction that issues with a scalar destination lands, at once or from what stands in flight. -/
theorem computes_of_landed {i : Instr} {f : Form} {op lat : Nat} {w : StrandWord} {s s2 : State} {k : Caps} {rid : Nat} {v : Word}
    (hx : exec i s = issueRes f op lat w s) (hdk : w.dk = .scal) (hi : Issues f w s) (hc : Captures f asIs w s k s2 rid)
    (hv : landed op w k = v) (hf : landed op w (k.forOp op) = v) : Computes i op w s v := by
  obtain ⟨t, ht, hp, hm⟩ := issueRes_moved (lat := lat) hi hc
  have hr := captures_reserved hc
  refine ⟨t, hx.trans ht, hp, fun h2 hq hd => ?_, fun h2 => ?_⟩
  · rw [hm.me.sreg, delivered_sreg (hr.strand ▸ h2) hdk hq hd, hv]
  · have hfl := hm.myCore.flights.trans (delivered_flights (Nat.le_trans h2 (Nat.le_of_eq hr.strand.symm)))
    rw [hr.flights h2] at hfl
    exact ⟨_, hfl, hr.strand, rfl, rfl, hf⟩

/-! ### What the checks of a word that issues say -/

theorem need_bind {α : Type} {b : Bool} {c : BitVec 8} {g : Unit → Except Stop α} {y : α} (h : (need b c >>= g) = .ok y) :
    b = true ∧ g () = .ok y := by
  cases b with
  | true => exact ⟨rfl, h⟩
  | false => cases h

theorem legal_of_issues {f : Form} {w : StrandWord} {s : State} (h : Issues f w s) : f.legal s.cur.strand w = true := by
  have hc := ok_of_passes h.2.1
  unfold checkWord at hc
  obtain ⟨-, hc⟩ := need_bind hc
  obtain ⟨-, hc⟩ := need_bind hc
  obtain ⟨-, hc⟩ := need_bind hc
  exact (need_bind hc).1

/-- The checks of a legal word that its destination and its extension field pass (02 R39). -/
theorem legal_parts {f : Form} {n : Nat} {w : StrandWord} (h : f.legal n w = true) :
    f.dst.any (fun d => d.ok n w.dk w.d) = true ∧ f.xOk n (f.effX w) = true := by
  simp only [Form.legal, Bool.and_eq_true] at h
  obtain ⟨⟨⟨⟨⟨⟨⟨⟨-, hdst⟩, -⟩, -⟩, -⟩, -⟩, hx⟩, -⟩, -⟩ := h
  exact ⟨hdst, hx⟩

/-- A form whose only destination is a scalar one (04 R85). -/
theorem dk_of_legal {f : Form} {n : Nat} {w : StrandWord} (h : f.legal n w = true) (hd : f.dst = [.scal] ∨ f.dst = [.sreg]) :
    w.dk = .scal := by
  have hdst := (legal_parts h).1
  rcases hd with hd | hd
  · simp only [hd, List.any_cons, List.any_nil, Bool.or_false, DForm.ok, Bool.and_eq_true, decide_eq_true_eq] at hdst
    exact hdst.1
  · simp only [hd, List.any_cons, List.any_nil, Bool.or_false, DForm.ok, Bool.and_eq_true, decide_eq_true_eq] at hdst
    exact hdst.1

/-- `SAT` of a scalar opcode that does not allow it is 0 (02 R41). -/
theorem sat_of_legal {f : Form} {n : Nat} {w : StrandWord} (h : f.legal n w = true) (hl : f.lay = .int) (hs : f.satOk = false) :
    bit (f.effX w) 3 = false := by
  have hx := (legal_parts h).2
  simp only [Form.xOk, hl, hs, Bool.and_eq_true, Bool.false_or, Bool.not_eq_true'] at hx
  exact hx.1.2

theorem captures_x {f : Form} {lf : Nat → Nat} {w : StrandWord} {s s2 : State} {k : Caps} {rid : Nat}
    (h : Captures f lf w s k s2 rid) : k.x = f.effX w := by
  obtain ⟨s1, hcap, -⟩ := h
  exact (capture_ok hcap).2.1

theorem captures_old {f : Form} {lf : Nat → Nat} {w : StrandWord} {s s2 : State} {k : Caps} {rid : Nat}
    (h : Captures f lf w s k s2 rid) : k.d = readOld w s.me := by
  obtain ⟨s1, hcap, -⟩ := h
  exact (capture_ok hcap).1

theorem captures_sat {f : Form} {lf : Nat → Nat} {w : StrandWord} {s s2 : State} {k : Caps} {rid : Nat} (hi : Issues f w s)
    (hc : Captures f lf w s k s2 rid) (hl : f.lay = .int) (hs : f.satOk = false) : k.sat = false := by
  rw [Caps.sat, captures_x hc]
  exact sat_of_legal (legal_of_issues hi) hl hs

end Sys2Proof.Machine
end

section
/-!
PROOFS. What division, `ext` and `dep` land (04 R84, R86, R87): the model's integers as bit vectors of the format's width.
-/

namespace Sys2Proof.Machine

/-! ### Integers of a format -/

/-- A pattern read with a signedness. -/
def readAs {n : Nat} (sg : Bool) (x : BitVec n) : Int := if sg then x.toInt else x.toNat

theorem intFmt_width_pos (c : Nat) : 0 < (intFmt c).2 := by
  unfold intFmt
  split <;> decide

/-- The wrapped integer is the pattern of its low bits, read with the signedness (04 R84 `ext`). -/
theorem wrapInt_eq_readAs {n : Nat} (sg : Bool) (hn : 0 < n) (r : Int) : wrapInt sg n r = readAs sg (BitVec.ofInt n r) := by
  have hne : ((2 ^ n : Nat) : Int) ≠ 0 := Int.natCast_ne_zero.mpr (Nat.ne_of_gt (Nat.two_pow_pos n))
  have hmod : ((BitVec.ofInt n r).toNat : Int) = r % 2 ^ n := by
    rw [BitVec.toNat_ofInt, Int.toNat_of_nonneg (Int.emod_nonneg _ hne), Int.natCast_pow]
    rfl
  cases sg with
  | false => simp only [wrapInt, readAs, Bool.false_eq_true, false_and, if_false, hmod]
  | true =>
    have hpow : (2 : Int) ^ n = 2 ^ (n - 1) * 2 := by rw [← Int.pow_succ, Nat.succ_eq_add_one, Nat.sub_one_add_one (Nat.ne_of_gt hn)]
    have hcast : ((2 ^ n : Nat) : Int) = 2 ^ n := Int.natCast_pow 2 n
    have hlt : 2 * (BitVec.ofInt n r).toNat < 2 ^ n ↔ r % 2 ^ n < 2 ^ (n - 1) := by omega
    simp only [wrapInt, readAs, BitVec.toInt, true_and, if_true, hmod, hcast]
    by_cases h : r % 2 ^ n < 2 ^ (n - 1)
    · rw [if_neg (Int.not_le.mpr h), if_pos (hlt.mpr h)]
    · rw [if_pos (Int.not_lt.mp h), if_neg (fun hl => h (hlt.mp hl))]

@[simp] theorem ofInt_readAs {n : Nat} (sg : Bool) (x : BitVec n) : BitVec.ofInt n (readAs sg x) = x := by
  cases sg with
  | false => simp [readAs]
  | true => exact BitVec.ofInt_toInt

theorem readAs_eq_zero {n : Nat} (sg : Bool) (x : BitVec n) : readAs sg x = 0 ↔ x = 0 := by
  cases sg with
  | false => simp [readAs, BitVec.toNat_eq]
  | true => simp [readAs, ← BitVec.toInt_inj]

/-- A pattern read with its signedness, in 64 bits. -/
theorem ofInt_64_readAs {n : Nat} (sg : Bool) (x : BitVec n) : BitVec.ofInt 64 (readAs sg x) = extBits sg x := by
  cases sg with
  | false => simp [readAs, extBits, BitVec.ofNat_toNat]
  | true => rfl

@[simp] theorem lo64_ofWord (v : Word) : lo64 (ofWord v) = v := by
  simp [lo64, ofWord, BitVec.setWidth_setWidth_of_le]

/-- Without `SAT` a result lands as the pattern of its low bits (04 R84). -/
theorem lo64_landInt {k : Caps} (hs : k.sat = false) (r : Int) :
    lo64 (landInt k r).val = extBits (intFmt k.fmt).1 (BitVec.ofInt (intFmt k.fmt).2 r) := by
  rw [← ofInt_64_readAs, ← wrapInt_eq_readAs _ (intFmt_width_pos _)]
  simp [landInt, hs, resWord]

theorem extInt_eq_readAs (fmt : Nat) (v : Word) : extInt fmt v = readAs (intFmt fmt).1 (v.setWidth (intFmt fmt).2) := by
  rw [extInt, wrapInt_eq_readAs _ (intFmt_width_pos _), BitVec.ofInt_natCast, BitVec.ofNat_toNat]

/-! ### Division (04 R86) -/

theorem ofInt_tdiv_signed {n : Nat} (a b : BitVec n) : BitVec.ofInt n (a.toInt.tdiv b.toInt) = a.sdiv b := by
  rw [← BitVec.toInt_inj, BitVec.toInt_sdiv, BitVec.toInt_ofInt]

theorem ofInt_tmod_signed {n : Nat} (a b : BitVec n) : BitVec.ofInt n (a.toInt.tmod b.toInt) = a.srem b := by
  rw [← BitVec.toInt_srem, BitVec.ofInt_toInt]

theorem ofInt_tdiv_natural {n : Nat} (a b : BitVec n) : BitVec.ofInt n ((a.toNat : Int).tdiv b.toNat) = a / b := by
  rw [← Int.ofNat_tdiv, BitVec.ofInt_natCast, ← BitVec.toNat_udiv, BitVec.ofNat_toNat, BitVec.setWidth_eq]

theorem ofInt_tmod_natural {n : Nat} (a b : BitVec n) : BitVec.ofInt n ((a.toNat : Int).tmod b.toNat) = a % b := by
  rw [← Int.ofNat_tmod, BitVec.ofInt_natCast, ← BitVec.toNat_umod, BitVec.ofNat_toNat, BitVec.setWidth_eq]

theorem srem_allOnes {n : Nat} (a : BitVec n) : a.srem (BitVec.allOnes n) = 0 := by
  rw [← BitVec.toInt_inj, BitVec.toInt_srem, BitVec.toInt_allOnes]
  split
  · simp
  · obtain rfl : n = 0 := by omega
    simp [BitVec.eq_nil a]

theorem ofInt_neg_one (n : Nat) : BitVec.ofInt n (-1) = BitVec.allOnes n := by
  rw [← BitVec.neg_one_eq_allOnes, BitVec.ofInt_neg]
  rfl

/-- The quotient that lands, of patterns of the format's width. -/
def quotient {n : Nat} (sg : Bool) (a b : BitVec n) : Word :=
  if b = 0 then extBits sg (BitVec.allOnes n)
  else if sg then
    (if a = BitVec.intMin n ∧ b = BitVec.allOnes n then extBits sg (BitVec.intMin n) else BitVec.ofInt 64 (a.toInt.tdiv b.toInt))
  else BitVec.ofNat 64 (a.toNat / b.toNat)

/-- The remainder that lands. -/
def remainder {n : Nat} (sg : Bool) (a b : BitVec n) : Word :=
  if b = 0 then extBits sg a
  else if sg then (if a = BitVec.intMin n ∧ b = BitVec.allOnes n then 0 else BitVec.ofInt 64 (a.toInt.tmod b.toInt))
  else BitVec.ofNat 64 (a.toNat % b.toNat)

theorem extBits_ofInt_div {n : Nat} (sg : Bool) (a b : BitVec n) :
    extBits sg (BitVec.ofInt n (if readAs sg b = 0 then -1 else (readAs sg a).tdiv (readAs sg b))) = quotient sg a b := by
  unfold quotient
  by_cases hb : b = 0
  · rw [if_pos ((readAs_eq_zero sg b).mpr hb), if_pos hb, ofInt_neg_one]
  · rw [if_neg (mt (readAs_eq_zero sg b).mp hb), if_neg hb]
    cases sg with
    | false =>
      simp only [readAs, Bool.false_eq_true, if_false, ofInt_tdiv_natural, extBits]
      rw [← BitVec.toNat_udiv, BitVec.ofNat_toNat]
    | true =>
      simp only [readAs, if_true, ofInt_tdiv_signed]
      split
      · rename_i hc
        obtain ⟨rfl, rfl⟩ := hc
        rw [← BitVec.neg_one_eq_allOnes, BitVec.intMin_sdiv_neg_one]
      · rename_i hc
        rw [← BitVec.toInt_sdiv_of_ne_or_ne a b (by rw [BitVec.neg_one_eq_allOnes]; exact Classical.not_and_iff_not_or_not.mp hc)]
        rfl

theorem extBits_ofInt_rem {n : Nat} (sg : Bool) (a b : BitVec n) :
    extBits sg (BitVec.ofInt n (if readAs sg b = 0 then readAs sg a else (readAs sg a).tmod (readAs sg b))) = remainder sg a b := by
  unfold remainder
  by_cases hb : b = 0
  · rw [if_pos ((readAs_eq_zero sg b).mpr hb), if_pos hb, ofInt_readAs]
  · rw [if_neg (mt (readAs_eq_zero sg b).mp hb), if_neg hb]
    cases sg with
    | false =>
      simp only [readAs, Bool.false_eq_true, if_false, ofInt_tmod_natural, extBits]
      rw [← BitVec.toNat_umod, BitVec.ofNat_toNat]
    | true =>
      simp only [readAs, if_true, ofInt_tmod_signed]
      split
      · rename_i hc
        rw [hc.2, srem_allOnes]
        simp [extBits, BitVec.signExtend]
      · rw [← BitVec.toInt_srem]
        rfl

theorem landed_div {w : StrandWord} {k : Caps} (hs : k.sat = false) :
    landed 0x004 w k = quotient (intFmt k.fmt).1 ((lo64 k.a).setWidth (intFmt k.fmt).2) ((lo64 k.b).setWidth (intFmt k.fmt).2) := by
  rw [← extBits_ofInt_div, ← extInt_eq_readAs, ← extInt_eq_readAs]
  exact lo64_landInt hs _

theorem landed_rem {w : StrandWord} {k : Caps} (hs : k.sat = false) :
    landed 0x005 w k = remainder (intFmt k.fmt).1 ((lo64 k.a).setWidth (intFmt k.fmt).2) ((lo64 k.b).setWidth (intFmt k.fmt).2) := by
  rw [← extBits_ofInt_rem, ← extInt_eq_readAs, ← extInt_eq_readAs]
  exact lo64_landInt hs _

/-- Settles O10: the quotient and the remainder that land are those of the patterns, with the corners that 04 R86 names, and an
instruction that issues with its operands captured is performed. -/
theorem division : Obligations.Division := by
  unfold Obligations.Division
  intro w s s2 k rid
  refine ⟨fun hi hc => ?_, fun hi hc => ?_⟩
  · have hdk := dk_of_legal (legal_of_issues hi) (.inl rfl)
    have hs := captures_sat hi hc rfl rfl
    exact computes_of_landed (lat := divLat Forms.div w) rfl hdk hi hc (landed_div hs) (landed_div hs)
  · have hdk := dk_of_legal (legal_of_issues hi) (.inl rfl)
    have hs := captures_sat hi hc rfl rfl
    exact computes_of_landed (lat := divLat Forms.rem w) rfl hdk hi hc (landed_rem hs) (landed_rem hs)

/-! ### Bit fields (04 R87) -/

theorem landed_ext (w : StrandWord) (k : Caps) :
    landed 0x019 w k = if fieldLen k = 0 then 0 else
      if k.fmt = 15 then ((lo64 k.a).extractLsb' k.sh (fieldLen k)).setWidth 64
      else ((lo64 k.a).extractLsb' k.sh (fieldLen k)).signExtend 64 := by
  have hland : landed 0x019 w k = lo64 (resExt w k).val := rfl
  rw [hland, resExt, resWord, lo64_ofWord]
  by_cases hn : fieldLen k = 0
  · simp [hn]
  · have hfield : (lo64 k.a).toNat / 2 ^ k.sh % 2 ^ fieldLen k = ((lo64 k.a).extractLsb' k.sh (fieldLen k)).toNat := by
      rw [BitVec.extractLsb'_toNat, Nat.shiftRight_eq_div_pow]
    simp only [hn, if_false, hfield]
    rw [wrapInt_eq_readAs _ (Nat.pos_of_ne_zero hn), BitVec.ofInt_natCast, BitVec.ofNat_toNat, BitVec.setWidth_eq, ofInt_64_readAs]
    by_cases h15 : k.fmt = 15 <;> simp [extBits, h15]

/-- A bit of a word with a field replaced. -/
theorem getLsbD_setFld {n : Nat} (v : BitVec n) (lo len x i : Nat) (hi : i < n) :
    (setFld v lo len x).getLsbD i = if lo ≤ i ∧ i < lo + len then x.testBit (i - lo) else v.getLsbD i := by
  have hmask : (BitVec.ofNat n ((2 ^ len - 1) <<< lo)).getLsbD i = decide (lo ≤ i ∧ i < lo + len) := by
    simp only [BitVec.getLsbD_ofNat, hi, Nat.testBit_shiftLeft, Nat.testBit_two_pow_sub_one]
    by_cases hlo : lo ≤ i
    · simp [hlo, Nat.sub_lt_iff_lt_add hlo, Nat.add_comm]
    · simp [hlo]
  simp only [setFld, BitVec.getLsbD_or, BitVec.getLsbD_and, BitVec.getLsbD_not, BitVec.getLsbD_ofNat n (x <<< lo), hmask, hi]
  by_cases hin : lo ≤ i ∧ i < lo + len
  · simp [hin, Nat.testBit_shiftLeft]
  · simp [hin]

theorem getLsbD_landed_dep (w : StrandWord) (k : Caps) (i : Nat) (hi : i < 64) :
    (landed 0x01A w k).getLsbD i =
      if k.sh ≤ i ∧ i < k.sh + fieldLen k then (lo64 k.a).getLsbD (i - k.sh) else (lo64 k.d).getLsbD i := by
  have hland : landed 0x01A w k = lo64 (resDep w k).val := rfl
  rw [hland, resDep, resWord, lo64_ofWord, getLsbD_setFld _ _ _ _ _ hi]
  by_cases hin : k.sh ≤ i ∧ i < k.sh + fieldLen k
  · have hlt : i - k.sh < fieldLen k := by omega
    simp [hin, Nat.testBit_mod_two_pow, hlt, BitVec.testBit_toNat]
  · simp [hin]

/-- Settles O11: `ext` lands the field it takes from A, and `dep` the old value of its register, which is captured at issue, with the
field put. -/
theorem bitFields : Obligations.BitFields := by
  unfold Obligations.BitFields
  intro w s s2 k rid
  refine ⟨fun hi hc => ?_, fun hi hc _ => ?_⟩
  · have hdk := dk_of_legal (legal_of_issues hi) (.inl rfl)
    exact computes_of_landed (lat := 1) rfl hdk hi hc (landed_ext w k) (landed_ext w _)
  · have hdk := dk_of_legal (legal_of_issues hi) (.inr rfl)
    have hold : lo64 k.d = s.me.sreg w.d.toNat := by rw [captures_old hc, readOld, hdk, lo64_ofWord]
    refine ⟨landed 0x01A w k, fun i hlt => ?_, computes_of_landed (lat := 1) rfl hdk hi hc rfl rfl⟩
    rw [getLsbD_landed_dep w k i hlt, hold]
    rfl

end Sys2Proof.Machine
end
